-- ==== Sys2Proof/Word.lean ====
section
/-! DEFINITION. The words of the VX-1536-H8: scalar words, vector registers, lane masks,
64-byte lines and register numbers (02 R32, 03 R64, 06 R123). -/

namespace Sys2Proof

/-- A scalar register, a virtual address or a word address (02 R32). -/
abbrev Word := BitVec 64

/-- A slot word, header word or extension word (06). -/
abbrev SlotWord := BitVec 32

/-- A vector register: 512 bytes, 128 lanes of 32 bits (03 R64). -/
abbrev VWord := BitVec 4096

/-- A lane mask: one bit per 32-bit lane (02 R32). -/
abbrev QMask := BitVec 128

/-- A 64-byte line of memory; byte 0 is bits 7:0 (00 R4). -/
abbrev Line := BitVec 512

/-- A byte. -/
abbrev Byte := BitVec 8

/-- Register numbers by file (06 R123). -/
abbrev SReg := BitVec 5
abbrev PReg := BitVec 3
abbrev VReg := BitVec 5
abbrev QReg := BitVec 3

end Sys2Proof
end

