-- ==== Sys2Proof/Config.lean ====
section
/-! DEFINITION. What the device fixes, and the values that the spec leaves open. The opaque
constants have no value that a proof can use. -/

namespace Sys2Proof.Config

/-- FEATV of the first shipped revision (00 R2). -/
def featv : Word := 0x00000110000000FF#64

/-- The core monitor's entry, a word address. DESIGN CHOICE (log 3): the spec names the entry and
gives no address; 2^55 is the first word address that no fetch can reach (07 R153). -/
def monitorEntry : Word := 0x80000000000000#64

/-- Whether a fetch decodes the old (false) or the new (true) bytes where the spec allows either
(06 R133). Free value (log 6). -/
opaque newUnit : Nat → Bool

/-- Which way of a full set the L2 or the RDC replaces, an unpublished order (02 R47). Free value
(log 9): the index of the victim, taken modulo the number of ways. -/
opaque victimWay : Nat → Nat

/-- Whether an M operation sees a store that committed after its M word, per line (09 R210).
Free value (log 17). -/
opaque sawLateStore : Nat → Bool

/-- A value that a result takes where the spec states no result (log 19). Free value. -/
opaque freeWord : Nat → BitVec 64

/-- Spare rows of each stack. The spec gives no count (21 R357, 24 R382). Free value (log 14). -/
opaque spareRows : Nat → Nat

/-- SHAKE256 of a byte string to a number of bits (24 R377, R378). Uninterpreted (log 14). -/
opaque shake256 : List Byte → (n : Nat) → BitVec n

/-- The key digests that are fused for the kinds of image, 0 package controller, 1 core monitor, 2 base die (24 R377).
Uninterpreted (log 14). -/
opaque keyDigest : Nat → BitVec 512

/-- Whether a Falcon-1024 signature, in the padded form, over a 64-byte digest verifies under a public key (24 R377).
Uninterpreted (log 14). -/
opaque falconVerify : BitVec 14344 → BitVec 512 → BitVec 10240 → Bool

/-- The Falcon-1024 public key of a 64-byte seed, 1,793 bytes (24 R380). Uninterpreted (log 14). -/
opaque falconKey : BitVec 512 → BitVec 14344

/-- The Falcon-1024 signature of a 64-byte digest under the key of a seed, in the 1,280-byte padded
form (24 R380). Uninterpreted (log 14). -/
opaque falconSign : BitVec 512 → BitVec 512 → BitVec 10240

/-- The fused secret of the device (24 R380). Uninterpreted (log 14). -/
opaque fusedSecret : List Byte

/-- The fuse configuration that PCR3 measures (24 R378). Uninterpreted (log 14). -/
opaque fuseConfig : List Byte

/-- The telemetry block of a list of readings: the spec gives its contents and no layout (24 R383).
Uninterpreted (log 14). -/
opaque telemetryBlock : List Nat → BitVec 32768

/-- The 64 bytes of a failure record of PTIME, FAIL, unit and detail: no layout is given (24 R378).
Uninterpreted (log 14). -/
opaque failureRecord : List Nat → List (BitVec 8)

/-- Forward error correction of a flit's first 212 bytes (23 R363). Uninterpreted (log 14). -/
opaque fec : BitVec 1696 → BitVec 352

/-- What the control word of a collective's flit names: partition, group, the group's collective, member, op, size, and
whether its lines are of the result (not 0). The spec gives no layout (23 R363, R369). Uninterpreted (log 36). -/
opaque collWord : BitVec 64 → Nat × Nat × Nat × Nat × Nat × Nat × Nat

/-- What the control word of a response without lines answers: the partition and the number of the transfer that it
concerns, the STATUS that ends it (0 for none), the lines performed. The spec gives no layout (23 R363). Uninterpreted
(log 36). -/
opaque responseWord : BitVec 64 → Nat × Nat × Nat × Nat

/-- The control word of a heartbeat, and of an idle flit (23 R363, R372). The spec gives none. Uninterpreted (log 36). -/
opaque laneWord : Bool → BitVec 64

end Sys2Proof.Config
end

