-- ==== Sys2Proof/Syntax.lean ====
section
/-! DEFINITION. The abstract syntax: one constructor of `Instr` per row of the opcode table.
Rows with a slot word carry their operand fields; events carry what their agent chooses. -/

namespace Sys2Proof

/-! ### Names inside slot words -/

/-- The element formats of the FMT field, in code order (06 R123). -/
inductive Fmt | f32 | bf16 | f16 | e4m3 | e5m2 | i32 | i16 | i8
  deriving DecidableEq, Repr

/-- The matrix operand formats AF and BF, in code order (06 R123). -/
inductive MFmt | bf16 | f16 | e4m3 | e5m2 | e2m1
  deriving DecidableEq, Repr

/-- Conditions of `cmp` and `cmpi`, in code order (06 R123). -/
inductive Cond | eq | ne | lt | ltu | le | leu | bs | bc
  deriving DecidableEq, Repr

/-- Conditions of `vcmp`, in code order (08 R184). -/
inductive VCond | eq | ne | lt | le | ltu | leu | un
  deriving DecidableEq, Repr

/-- Scopes, in code order (04 R82). -/
inductive Scope | ctx | cl | die | pkg | sys
  deriving DecidableEq, Repr

/-- Access sizes of 1, 2, 4 and 8 bytes, in code order (10 R233). -/
inductive Size | b | h | w | d
  deriving DecidableEq, Repr

/-- Operations of `amo`, in code order (10 R234). -/
inductive AmoOp | add | and | or | xor | min | max | minu | maxu | swap
  deriving DecidableEq, Repr

/-- Kinds of `fence`, in code order (10 R235). -/
inductive FenceKind | acq | rel | full
  deriving DecidableEq, Repr

/-- Kinds of `mscal`, in code order (07 R168). -/
inductive CalKind | bg | sweep | major
  deriving DecidableEq, Repr

/-- Operations of `vred`, in code order (08 R191). -/
inductive RedOp | sum | max | min | argmax | argmin
  deriving DecidableEq, Repr

/-- Directions of `vround`, in code order (08 R187). -/
inductive RoundKind | rn | rz | rd | ru
  deriving DecidableEq, Repr

/-- Operations of `cred`, in code order (10 R256). -/
inductive CredOp | addF32 | maxF32 | minF32 | addBf16 | addI32
  deriving DecidableEq, Repr

/-- Reader classes of `kst`, from code 1 (05 R103). -/
inductive KClass | relub | maxpb | e2m1 | deq | ldk | ldk32
  deriving DecidableEq, Repr

/-- Source formats of `kst`, in code order (10 R227). -/
inductive KFmt | f32 | bf16 | f16 | e4m3
  deriving DecidableEq, Repr

/-- Formats of `vrelub` and `vmaxpb`, in code order (10 R228). -/
inductive RFmt | f32 | bf16 | f16
  deriving DecidableEq, Repr

/-- Formats of `mst` and `mld` (09 R216). -/
inductive TFmt | f32 | bf16 | f16 | e4m3 | e5m2
  deriving DecidableEq, Repr

/-- Tongs widths, in code order (08 R198). -/
inductive XWidth | w32 | w16 | w8
  deriving DecidableEq, Repr

/-! ### What events carry -/

/-- Where a command reaches the command engine (24 R379). -/
inductive CmdPath | mailbox | i3c
  deriving DecidableEq, Repr

/-- What sends a store to a home slice: the k-th waiting store of a context, the host link, a
management core (04 R97, 21 R356). -/
inductive StoreOrigin
  | context (cx k : Nat)
  | host (pa : Nat) (data : List Byte)
  | management (pa : Nat) (data : List Byte)
  deriving DecidableEq, Repr

/-- What holds a fault record that waits for room: a context, an engine of a context, the package
controller (18 R308). -/
inductive RecordHolder
  | context (cx : Nat)
  | engine (cx : Nat) (unit : Nat)
  | controller (part : Nat)
  deriving DecidableEq, Repr

/-- A firmware image: the header's public key of 1,793 bytes, security version and signature of 1,280 bytes, and the
body (24 R377). -/
structure Firmware where
  key : BitVec 14344
  svn : BitVec 16
  signature : BitVec 10240
  body : List Byte
  deriving DecidableEq, Repr

/-- What the outside and the silicon bring to a bring-up stage (24 R374): the images it verifies, a
failing unit of its self test, the link and port outcomes of training, the package time of a linked
device, the device's number and the torus it stands in. -/
structure StageInput where
  selfCheckOk : Bool
  images : List Firmware
  failUnit : Option Nat
  linksUp : BitVec 12
  cxlPages : List Nat
  peerTime : Option Nat
  devNum : Nat
  torus : Nat × Nat × Nat
  deriving DecidableEq, Repr

/-- Registers that a write reaches through REGISTER_WRITE (18, 19, 21, 23, 24): of a virtual function, of the physical
function, of the debug window, NumVFs of the configuration space, MBCMD by a private write of I3C. -/
inductive HostReg
  | vf (part off : Nat)
  | pf (off : Nat)
  | window (off : Nat)
  | numVFs
  | i3c
  deriving DecidableEq, Repr

/-- A request that a peer device makes over the links (23 R368). -/
inductive PeerReq
  | write (dev pa : Nat) (lines : List Line)
  | read (dev pa n : Nat)
  deriving DecidableEq, Repr

/-- What comes from outside at a major slot: the mean module power, the PTIME offset to each linked neighbour, the
links that retraining finds good (21 R351, 23 R370, 24 R384). -/
structure MajorInput where
  meanPower : Nat
  offsets : List Int
  linksUp : BitVec 12
  deriving DecidableEq, Repr

/-! ### Instructions -/

/-- Slot instructions and events of the part, in the order of the opcode table, those without operands last. -/
inductive Instr
  -- scalar ALU: d a b, w = true for the 32-bit form (07 R143)
  | add (d a b : SReg) (w : Bool) | sub (d a b : SReg) (w : Bool)
  | and (d a b : SReg) (w : Bool) | or (d a b : SReg) (w : Bool)
  | xor (d a b : SReg) (w : Bool) | andn (d a b : SReg) (w : Bool)
  | orn (d a b : SReg) (w : Bool) | shl (d a b : SReg) (w : Bool)
  | shr (d a b : SReg) (w : Bool) | sar (d a b : SReg) (w : Bool)
  | rotl (d a b : SReg) (w : Bool) | min (d a b : SReg) (w : Bool)
  | max (d a b : SReg) (w : Bool) | minu (d a b : SReg) (w : Bool)
  | maxu (d a b : SReg) (w : Bool) | mul (d a b : SReg) (w : Bool)
  | mulh (d a b : SReg) (w : Bool) | mulhu (d a b : SReg) (w : Bool)
  | div (d a b : SReg) (w : Bool) | divu (d a b : SReg) (w : Bool)
  | rem (d a b : SReg) (w : Bool) | remu (d a b : SReg) (w : Bool)
  | clz (d a : SReg) (w : Bool) | ctz (d a : SReg) (w : Bool)
  | popc (d a : SReg) (w : Bool) | sel (d a b : SReg) (p : PReg) (w : Bool)
  -- immediates and constants (07 R145)
  | addi (d a : SReg) (imm : BitVec 16) | andi (d a : SReg) (imm : BitVec 16)
  | ori (d a : SReg) (imm : BitVec 16) | xori (d a : SReg) (imm : BitVec 16)
  | shli (d a : SReg) (amt : BitVec 6) | shri (d a : SReg) (amt : BitVec 6)
  | sari (d a : SReg) (amt : BitVec 6) | rotli (d a : SReg) (amt : BitVec 6)
  | li (d : SReg) (imm : BitVec 16) | lsh (d a : SReg) (imm : BitVec 16)
  -- bit fields: len is the length minus one (07 R146)
  | ext (d a : SReg) (len pos : BitVec 6) | extS (d a : SReg) (len pos : BitVec 6)
  | ins (d a : SReg) (len pos : BitVec 6)
  -- compares and predicates (07 R147 to R149)
  | cmp (pd : PReg) (c : Cond) (a b : SReg) | cmpi (pd : PReg) (c : Cond) (a : SReg) (imm : BitVec 15)
  | pand (d a b : PReg) | por (d a b : PReg) | pxor (d a b : PReg) | pandn (d a b : PReg)
  | pnot (d a : PReg) | rdp (d : SReg) | wrp (a : SReg)
  -- transfers, loops, end, traps, system (07 R150 to R173)
  | br (p : PReg) (n : Bool) (off : BitVec 22) | call (p : PReg) (n : Bool) (off : BitVec 22)
  | jr (a : SReg) | callr (a : SReg)
  | lpush (level : BitVec 3) (a : SReg) (stop : BitVec 18) | lbrk (level : BitVec 3)
  | lidx (level : BitVec 3) (d : SReg)
  | pause (n : BitVec 16) | trap (n : BitVec 16) | brk (n : BitVec 16)
  | rdsr (d : SReg) (r : BitVec 16) | wrsr (a : SReg) (r : BitVec 16) | rdtime (d : SReg)
  | mscal (d a : SReg) (k : CalKind) | msdefer (d a : SReg)
  | lnch (d a b : SReg) | rlnch (d a b : SReg)
  -- scalar memory (10 R230 to R238)
  | ldB (d a : SReg) (imm : BitVec 16) | ldH (d a : SReg) (imm : BitVec 16)
  | ldW (d a : SReg) (imm : BitVec 16) | ldD (d a : SReg) (imm : BitVec 16)
  | ldBu (d a : SReg) (imm : BitVec 16) | ldHu (d a : SReg) (imm : BitVec 16)
  | ldWu (d a : SReg) (imm : BitVec 16)
  | stB (d a : SReg) (imm : BitVec 16) | stH (d a : SReg) (imm : BitVec 16)
  | stW (d a : SReg) (imm : BitVec 16) | stD (d a : SReg) (imm : BitVec 16)
  | ldAcq (d a : SReg) (sc : Scope) (sz : Size) (off : BitVec 11)
  | stRel (d a : SReg) (sc : Scope) (sz : Size) (off : BitVec 11)
  | amo (d a b : SReg) (op : AmoOp) (dbl : Bool) (sc : Scope) (acq rel : Bool)
  | cas (d a b : SReg) (dbl : Bool) (sc : Scope) (acq rel : Bool)
  | fence (sc : Scope) (k : FenceKind) | l1inv (a b : SReg)
  | probe (d a : SReg) (imm : BitVec 16) | rdwp (d : SReg) (c : BitVec 4)
  -- vector (08)
  | vadd (f : Fmt) (d a b : VReg) (q : QReg) (sat : Bool)
  | vsub (f : Fmt) (d a b : VReg) (q : QReg) (sat : Bool)
  | vmul (f : Fmt) (d a b : VReg) (q : QReg) | vfma (f : Fmt) (d a b : VReg) (q : QReg)
  | vfms (f : Fmt) (d a b : VReg) (q : QReg) | vfnma (f : Fmt) (d a b : VReg) (q : QReg)
  | vmax (f : Fmt) (d a b : VReg) (q : QReg) (u : Bool)
  | vmin (f : Fmt) (d a b : VReg) (q : QReg) (u : Bool)
  | vabs (f : Fmt) (d a : VReg) (q : QReg) | vneg (f : Fmt) (d a : VReg) (q : QReg)
  | vexp2 (f : Fmt) (d a : VReg) (q : QReg) | vlog2 (f : Fmt) (d a : VReg) (q : QReg)
  | vrcp (f : Fmt) (d a : VReg) (q : QReg) | vrsqrt (f : Fmt) (d a : VReg) (q : QReg)
  | vsqrt (f : Fmt) (d a : VReg) (q : QReg) | vdiv (f : Fmt) (d a b : VReg) (q : QReg)
  | vand (f : Fmt) (d a b : VReg) (q : QReg) | vor (f : Fmt) (d a b : VReg) (q : QReg)
  | vxor (f : Fmt) (d a b : VReg) (q : QReg) | vnot (f : Fmt) (d a : VReg) (q : QReg)
  | vshl (f : Fmt) (d a b : VReg) (q : QReg) | vshli (f : Fmt) (d a : VReg) (amt : BitVec 5) (q : QReg)
  | vshr (f : Fmt) (d a b : VReg) (q : QReg) | vshri (f : Fmt) (d a : VReg) (amt : BitVec 5) (q : QReg)
  | vsar (f : Fmt) (d a b : VReg) (q : QReg) | vsari (f : Fmt) (d a : VReg) (amt : BitVec 5) (q : QReg)
  | vrelu (f : Fmt) (d a : VReg) (q : QReg) | vreluBwd (f : Fmt) (d a b : VReg) (q : QReg)
  | vcmp (f : Fmt) (d : QReg) (a b : VReg) (q : QReg) (part : BitVec 2) (c : VCond)
  | vsel (f : Fmt) (d a b : VReg) (q : QReg)
  | vcvt (f : Fmt) (d a : VReg) (q : QReg) (part : BitVec 2) (src : Fmt)
  | vround (f : Fmt) (d a : VReg) (q : QReg) (k : RoundKind)
  | vbcast (f : Fmt) (d : VReg) (a : SReg) (q : QReg)
  | vmovs (f : Fmt) (d : SReg) (a : VReg) (lo hi : BitVec 5)
  | viota (f : Fmt) (d : VReg) (a : SReg) (q : QReg) | vmovv (f : Fmt) (d a : VReg) (q : QReg)
  | vperm (f : Fmt) (d a b : VReg) (q : QReg)
  | vslide (f : Fmt) (d a : VReg) (b : SReg) (q : QReg) (up : Bool)
  | vred (f : Fmt) (d a : VReg) (op : RedOp) | vclass (f : Fmt) (d a : VReg) (q : QReg)
  | vqnt (d a : VReg) (k : BitVec 3) | vdeq (d a : VReg) (k : BitVec 3)
  | qand (d a b : QReg) | qor (d a b : QReg) | qxor (d a b : QReg) | qandn (d a b : QReg)
  | qnot (d a : QReg) | qmov (d a : QReg)
  -- tongs (08 R198)
  | xpush (v : VReg) | xpop (v : VReg) | xst (s : SReg) (imm : BitVec 16) | xwid (w : XWidth)
  -- matrix (09)
  | mma (af bf : MFmt) (t : BitVec 3) (sa sb : SReg) (g : BitVec 2) (z : Bool) (ka kb : BitVec 2)
  | mzero (t : BitVec 3) | mrd (t : BitVec 3) (v : VReg) (s : SReg) | mwr (t : BitVec 3) (v : VReg) (s : SReg)
  | mst (f : TFmt) (t : BitVec 3) (sa : SReg) (g : BitVec 2) | mwait (t : BitVec 3)
  | mld (f : TFmt) (t : BitVec 3) (sa : SReg) (g : BitVec 2)
  -- scale buffers (09 R219)
  | kld (k : BitVec 2) (s : SReg) (off lm1 : BitVec 8) | kband (k : BitVec 2) (s : SReg) | kclr (k : BitVec 2)
  -- lines and kept tiles (10 R223 to R229)
  | vld (v : VReg) (s : SReg) (q : QReg) (imm : BitVec 13) | vst (v : VReg) (s : SReg) (q : QReg) (imm : BitVec 13)
  | vlds (v : VReg) (s : SReg) (q : QReg) (t : SReg) | vsts (v : VReg) (s : SReg) (q : QReg) (t : SReg)
  | vgth (v : VReg) (s : SReg) (q : QReg) (x : VReg) | vsct (v : VReg) (s : SReg) (q : QReg) (x : VReg)
  | vldh (v : VReg) (h : BitVec 5) (q : QReg) (imm : BitVec 13)
  | vsth (v : VReg) (h : BitVec 5) (q : QReg) (imm : BitVec 13)
  | kst (v : VReg) (s t : SReg) (c : KClass) (f : KFmt) | vrelub (v g : VReg) (s : SReg) (f : RFmt)
  | vmaxpb (v g : VReg) (s : SReg) (win : BitVec 6) (f : RFmt)
  | vldk (v : VReg) (s : SReg) (p : BitVec 2) | vdeqk (v : VReg) (s : SReg) (p : BitVec 2)
  -- engine slot (10 R253 to R258)
  | cbwait (h : BitVec 5) (n : BitVec 16) | cbwaitProbe (s : SReg) | cbfree (h : BitVec 5) (n : BitVec 16)
  | cbadvc (h : BitVec 5) (n : BitVec 16) | cbadvp (h : BitVec 5) (n : BitVec 16)
  | cbstat (h : BitVec 5) (d : SReg) | qfence (qs qm qx : Bool) (c : BitVec 16)
  | cred (h : BitVec 5) (s : SReg) (g : BitVec 8) (op : BitVec 4) | wpwait (c : BitVec 4) (s : SReg)
  -- fetch, completion of stalled accesses, walks, time (01, 15, 19); cx is core × 2 + context
  | instructionFetch (cx : Nat) | memoryAccessComplete (cx : Nat) | walk (cx : Nat)
  | pauseEnd (cx : Nat) | watchdog (cx : Nat)
  | slotTableWrite (part i : Nat) (hi : Bool) (v : Word) | slotTableInstall (core : Nat)
  -- stores, home slices, ports (02, 04)
  | homeSliceStore (o : StoreOrigin) | hbmLineInstall (line : Nat) | mergingWindowEnd (line : Nat)
  | cxlPortRequest (port : Nat)
  -- copies (10)
  | copyHead (cx c : Nat) | copyNotBefore (cx c : Nat) | copyLineLanding (cx c : Nat)
  | multicastLanding (cx c member : Nat)
  -- matrix, scale and collective engines
  | mOpComplete (cx : Nat) | matrixRowFault (cx : Nat) | kWriteLanding (cx : Nat)
  | credContributionRead (cx : Nat) | credResult (cx : Nat) | ddsyncComplete (cx : Nat)
  | exitDrainComplete (cx : Nat)
  -- launches (16, 18)
  | qtailWrite (part q : Nat) (v : Word) | launchRecord (part q : Nat) | relaunchRecord (part q : Nat)
  | relaunchDecision (part q : Nat) | pretranslation (part q cx : Nat) | blockDispatch (cx : Nat)
  | gangDispatch (part q k : Nat) | queueAging (part q : Nat)
  | checkpoint (cx : Nat) | restore (part slot cx : Nat)
  -- fault queue and context commands (18 R308, 19 R335)
  | faultRecordPost (h : RecordHolder) | fqHeadWrite (part : Nat) (v : Word)
  | ctxcmdResume (part core : Nat) (ctx : Bool) | ctxcmdRemove (part core : Nat) (ctx : Bool)
  | ctxcmdResumeCopy (part core : Nat) (ctx : Bool) (c : Nat)
  | ctxcmdDiscardCopy (part core : Nat) (ctx : Bool) (c : Nat)
  | ctxcmdRedirect (part core : Nat) (ctx : Bool)
  | removalEngineDrained (cx : Nat) | coreReset (core : Nat)
  | extcmdInstall (part core : Nat) (ctx : Bool) | extcmdFail (part core : Nat) (ctx : Bool)
  | linkcmdRetrain (l : Nat) | linkcmdTakeDown (l : Nat) | linkcmdBringUp (l : Nat)
  | repcmd (v : Word) | svcreq (part : Nat) (v : Word) | retire (v : Word) | dutySplit (v : Word)
  | astsync (part asid : Nat) | astsyncComplete (part : Nat)
  -- mailbox and I3C operations 1 to 7 (24 R378, R379), in the order of the table
  | readFailureRecords (p : CmdPath) | attest (p : CmdPath) | readMeasurements (p : CmdPath)
  | readTelemetry (p : CmdPath) | resetTheDevice (p : CmdPath)
  | readIdentityPublicKey (p : CmdPath) | raiseFusedSvnMinimum (p : CmdPath)
  -- debug (19 R340 to R343) and plain register writes
  | dctlStep (sq : Bool) | debugKaddrRead (off : Nat) | registerWrite (r : HostReg) (v : Word)
  -- quench slots (21)
  | bankGroupSlot (pch bg : Nat) (bad : List (Nat × Bool)) | sweepSlot (temp : Nat) | majorSlot (m : MajorInput)
  | forcedAllBankRefresh (pch : Nat)
  -- links (23)
  | heartbeatLoss (l : Nat) | flitReceive (l : Nat) (flit : BitVec 2048) | linkTransfer (part : Nat)
  | peerRequest (r : PeerReq) | linkTransferComplete (part : Nat)
  -- bring-up (24)
  | bringUpStage (i : StageInput)
  -- home reads and expander answers (02)
  | homeSliceRead (line : Nat) | expanderAcknowledge (port : Nat)
  -- without operands: ends, returns, joins; the bundles of the current context; events of the whole device
  | exit | rett | ddsync | l1inva | xclr | bar | wideBundle | dictionaryBundle | endOfKernelMarker
  | nextSlice | resize | dctlHalt | dctlRun | drainLead | slotEnd | powerOn | conventionalReset | moduleOff
  deriving DecidableEq, Repr

end Sys2Proof
end

