-- ==== Sys2Proof/WellFormed.lean ====
section
/-! DEFINITION. Well-formed instructions: the field values that the entries of the instruction
reference allow at decode (06 R120 step 4, and the rule named at each check). -/

namespace Sys2Proof

/-- The floating formats FL of the vector tables (08 R174). -/
def Fmt.isFL : Fmt → Bool
  | .f32 | .bf16 | .f16 => true
  | _ => false

/-- The integer formats IN of the vector tables (08 R174). -/
def Fmt.isIN : Fmt → Bool
  | .i32 | .i16 | .i8 => true
  | _ => false

/-- Formats of the rows marked `FL, IN` (08 R175). -/
def Fmt.isFLIN (f : Fmt) : Bool := f.isFL || f.isIN

/-- Element width in bits (08 R174). -/
def Fmt.width : Fmt → Nat
  | .f32 | .i32 => 32
  | .bf16 | .f16 | .i16 => 16
  | .e4m3 | .e5m2 | .i8 => 8

/-- Elements of a vector register (08 R174). -/
def Fmt.count (f : Fmt) : Nat := 4096 / f.width

/-- F32 and BF16, the formats of the transcendentals (03 R74). -/
def Fmt.isF32Bf16 : Fmt → Bool
  | .f32 | .bf16 => true
  | _ => false

/-- Formats of `vperm` (08 R175). -/
def Fmt.isPerm : Fmt → Bool
  | .f32 | .bf16 | .f16 | .i32 | .i16 => true
  | _ => false

/-- Formats of `vclass` (08 R175). -/
def Fmt.isClass : Fmt → Bool
  | .f32 | .bf16 | .f16 | .e4m3 | .e5m2 => true
  | _ => false

/-- Conditions that `vcmp` assigns for a format (08 R184). -/
def VCond.legal (c : VCond) (f : Fmt) : Bool :=
  match c with
  | .ltu | .leu => f.isIN
  | .un => f.isFL
  | _ => true

/-- The number of parts of a conversion between two widths (08 R186). -/
def Fmt.parts (f g : Fmt) : Nat := Nat.max f.width g.width / Nat.min f.width g.width

/-- The format field holds a format that the entry lists (08 R175); for every other instruction
`true`. A refusal here is illegal-slot-opcode. -/
def Instr.formatOk : Instr → Bool
  | .vadd f .. | .vsub f .. | .vmul f .. | .vmax f .. | .vmin f .. | .vabs f .. | .vneg f ..
  | .vrelu f .. | .vreluBwd f .. | .vred f .. => f.isFLIN
  | .vfma f .. | .vfms f .. | .vfnma f .. | .vround f .. => f.isFL
  | .vexp2 f .. | .vlog2 f .. | .vrcp f .. | .vrsqrt f .. | .vsqrt f .. | .vdiv f .. => f.isF32Bf16
  | .vand f .. | .vor f .. | .vxor f .. | .vnot f .. | .vshl f .. | .vshli f .. | .vshr f ..
  | .vshri f .. | .vsar f .. | .vsari f .. | .viota f .. => f.isIN
  | .vperm f .. => f.isPerm
  | .vclass f .. => f.isClass
  | .vcmp f _ _ _ _ _ c => f.isFLIN && c.legal f
  | _ => true

/-- The other fields hold values that the entry allows; a refusal here is reserved-field. -/
def Instr.fieldsOk : Instr → Bool
  | .ext _ _ len pos | .extS _ _ len pos | .ins _ _ len pos => decide (pos.toNat + len.toNat + 1 ≤ 64)
  | .cmpi _ .bs _ imm | .cmpi _ .bc _ imm => decide (imm.toNat < 64)
  | .br p n _ | .call p n _ => !(p == 0 && n)
  | .rdsr _ r | .wrsr _ r => decide (r.toNat ≤ 0x12)
  | .vadd f _ _ _ _ sat | .vsub f _ _ _ _ sat => !(sat && f.isFL)
  | .vmax f _ _ _ _ u | .vmin f _ _ _ _ u => !(u && f.isFL)
  | .vshli f _ _ m _ | .vshri f _ _ m _ | .vsari f _ _ m _ => decide (m.toNat < f.width)
  | .vcmp f d _ _ _ k _ => d != 0 && decide (k.toNat < 32 / f.width)
  | .vcvt f _ _ _ k src => f != src && decide (k.toNat < f.parts src)
  | .vmovs f _ _ lo hi => decide (lo.toNat + 32 * hi.toNat < f.count)
  | .vqnt _ _ k | .vdeq _ _ k => decide (k.toNat ≤ 4)
  | .qand d .. | .qor d .. | .qxor d .. | .qandn d .. | .qnot d .. | .qmov d .. => d != 0
  | .mma af bf _ _ _ _ _ ka kb =>
      ((af == .e2m1) == (bf == .e2m1)) && (af == .e2m1 || (ka == 0 && kb == 0))
  | .kld _ _ off lm1 => decide (off.toNat + lm1.toNat + 1 ≤ 256)
  | .vmaxpb _ _ _ win _ => win != 0
  | .cbwait h n => !(h == 31 && n == 0)
  | _ => true

/-- A well-formed instruction: its words pass the checks of 06 R120 step 4. -/
def Instr.wellFormed (i : Instr) : Bool := i.formatOk && i.fieldsOk

end Sys2Proof
end

