-- ==== Sys2Proof/Decode.lean ====
section
/-! DEFINITION. Slot words to instructions and back (06 R123 to R127 and the encoding tables of 07
to 10). Decoding is total: a word is an instruction or a refusal by name. -/

namespace Sys2Proof

/-- The slots in commit order (01 R19). -/
inductive Slot | sa | sb | l | v | x | k | m | e
  deriving DecidableEq, Repr

/-- Why a slot word is refused (06 R120 step 4). -/
inductive DecodeError
  /-- An OP or a function that is not assigned in the slot: illegal-slot-opcode (0x02). -/
  | unassigned
  /-- A scalar OP of the other scalar slot: slot-not-legal (0x04). -/
  | wrongSlot
  /-- A reserved field that is nonzero, or a forbidden value: reserved-field (0x03). -/
  | reserved
  deriving DecidableEq, Repr

/-- The slot index, SA = 0 to E = 7 (06 R121). -/
def Slot.index : Slot → Nat
  | .sa => 0 | .sb => 1 | .l => 2 | .v => 3 | .x => 4 | .k => 5 | .m => 6 | .e => 7

/-- The slot of an index below 8 (06 R121). -/
def Slot.ofIndex : Nat → Slot
  | 0 => .sa | 1 => .sb | 2 => .l | 3 => .v | 4 => .x | 5 => .k | 6 => .m | _ => .e

/-- The trap cause of a refusal (06 R120, 19 R331). -/
def DecodeError.code : DecodeError → Nat
  | .unassigned => 0x02 | .wrongSlot => 0x04 | .reserved => 0x03

/-! ### Codes of names -/

def Fmt.code : Fmt → Nat
  | .f32 => 0 | .bf16 => 1 | .f16 => 2 | .e4m3 => 3 | .e5m2 => 4 | .i32 => 5 | .i16 => 6 | .i8 => 7
def Fmt.ofCode : Nat → Fmt
  | 0 => .f32 | 1 => .bf16 | 2 => .f16 | 3 => .e4m3 | 4 => .e5m2 | 5 => .i32 | 6 => .i16 | _ => .i8
def MFmt.code : MFmt → Nat
  | .bf16 => 0 | .f16 => 1 | .e4m3 => 2 | .e5m2 => 3 | .e2m1 => 4
def MFmt.ofCode : Nat → MFmt
  | 0 => .bf16 | 1 => .f16 | 2 => .e4m3 | 3 => .e5m2 | _ => .e2m1
def Cond.code : Cond → Nat
  | .eq => 0 | .ne => 1 | .lt => 2 | .ltu => 3 | .le => 4 | .leu => 5 | .bs => 6 | .bc => 7
def Cond.ofCode : Nat → Cond
  | 0 => .eq | 1 => .ne | 2 => .lt | 3 => .ltu | 4 => .le | 5 => .leu | 6 => .bs | _ => .bc
def VCond.code : VCond → Nat
  | .eq => 0 | .ne => 1 | .lt => 2 | .le => 3 | .ltu => 4 | .leu => 5 | .un => 6
def VCond.ofCode : Nat → VCond
  | 0 => .eq | 1 => .ne | 2 => .lt | 3 => .le | 4 => .ltu | 5 => .leu | _ => .un
def Scope.code : Scope → Nat
  | .ctx => 0 | .cl => 1 | .die => 2 | .pkg => 3 | .sys => 4
def Scope.ofCode : Nat → Scope
  | 0 => .ctx | 1 => .cl | 2 => .die | 3 => .pkg | _ => .sys
def Size.code : Size → Nat
  | .b => 0 | .h => 1 | .w => 2 | .d => 3
def Size.ofCode : Nat → Size
  | 0 => .b | 1 => .h | 2 => .w | _ => .d
/-- Bytes of an access size (10 R233). -/
def Size.bytes : Size → Nat
  | .b => 1 | .h => 2 | .w => 4 | .d => 8
def AmoOp.code : AmoOp → Nat
  | .add => 0 | .and => 1 | .or => 2 | .xor => 3 | .min => 4 | .max => 5 | .minu => 6 | .maxu => 7 | .swap => 8
def AmoOp.ofCode : Nat → AmoOp
  | 0 => .add | 1 => .and | 2 => .or | 3 => .xor | 4 => .min | 5 => .max | 6 => .minu | 7 => .maxu | _ => .swap
def FenceKind.code : FenceKind → Nat
  | .acq => 0 | .rel => 1 | .full => 2
def FenceKind.ofCode : Nat → FenceKind
  | 0 => .acq | 1 => .rel | _ => .full
def CalKind.code : CalKind → Nat
  | .bg => 0 | .sweep => 1 | .major => 2
def CalKind.ofCode : Nat → CalKind
  | 0 => .bg | 1 => .sweep | _ => .major
def RedOp.code : RedOp → Nat
  | .sum => 0 | .max => 1 | .min => 2 | .argmax => 3 | .argmin => 4
def RedOp.ofCode : Nat → RedOp
  | 0 => .sum | 1 => .max | 2 => .min | 3 => .argmax | _ => .argmin
def RoundKind.code : RoundKind → Nat
  | .rn => 0 | .rz => 1 | .rd => 2 | .ru => 3
def RoundKind.ofCode : Nat → RoundKind
  | 0 => .rn | 1 => .rz | 2 => .rd | _ => .ru
def KClass.code : KClass → Nat
  | .relub => 1 | .maxpb => 2 | .e2m1 => 3 | .deq => 4 | .ldk => 5 | .ldk32 => 6
def KClass.ofCode : Nat → KClass
  | 1 => .relub | 2 => .maxpb | 3 => .e2m1 | 4 => .deq | 5 => .ldk | _ => .ldk32
def KFmt.code : KFmt → Nat
  | .f32 => 0 | .bf16 => 1 | .f16 => 2 | .e4m3 => 3
def KFmt.ofCode : Nat → KFmt
  | 0 => .f32 | 1 => .bf16 | 2 => .f16 | _ => .e4m3
def RFmt.code : RFmt → Nat
  | .f32 => 0 | .bf16 => 1 | .f16 => 2
def RFmt.ofCode : Nat → RFmt
  | 0 => .f32 | 1 => .bf16 | _ => .f16
/-- The AF field of `mst` and `mld`; F32 has AF 0 with Z = 1 (09 R216). -/
def TFmt.af : TFmt → Nat
  | .f32 => 0 | .bf16 => 0 | .f16 => 1 | .e4m3 => 2 | .e5m2 => 3
def TFmt.z : TFmt → Bool
  | .f32 => true
  | _ => false
def TFmt.ofCode (af : Nat) (z : Bool) : TFmt :=
  if z then .f32 else match af with
  | 0 => .bf16 | 1 => .f16 | 2 => .e4m3 | _ => .e5m2
def XWidth.code : XWidth → Nat
  | .w32 => 0 | .w16 => 1 | .w8 => 2
def XWidth.ofCode : Nat → XWidth
  | 0 => .w32 | 1 => .w16 | _ => .w8

/-! ### Decoding -/

/-- The `n`-bit field of `w` whose lowest bit is `lo`. -/
def fld (w : SlotWord) (lo n : Nat) : BitVec n := w.extractLsb' lo n

/-- The field as a number. -/
def fldN (w : SlotWord) (lo n : Nat) : Nat := (fld w lo n).toNat

/-- The field of one bit. -/
def fldB (w : SlotWord) (lo : Nat) : Bool := w.getLsbD lo

/-- An assigned word: its reserved fields must be zero and its operands well formed (06 R120
step 4; 08 R174 for the format refusal). -/
def assigned (zero : Bool) (i : Instr) : Except DecodeError Instr :=
  if !i.formatOk then .error .unassigned
  else if !(zero && i.fieldsOk) then .error .reserved
  else .ok i

/-- OP 0x00 by function (06 R123, R124; 07 R144). -/
def decodeAlu (w : SlotWord) : Except DecodeError Instr :=
  let d := fld w 21 5; let a := fld w 16 5; let b := fld w 11 5
  let p0 := fldN w 3 3 == 0; let w0 := decide (fldN w 0 3 ≤ 1); let s := fldB w 0
  let z := p0 && w0; let zb := z && b == 0
  match fldN w 6 5 with
  | 0 => assigned z (.add d a b s) | 1 => assigned z (.sub d a b s) | 2 => assigned z (.and d a b s)
  | 3 => assigned z (.or d a b s) | 4 => assigned z (.xor d a b s) | 5 => assigned z (.andn d a b s)
  | 6 => assigned z (.orn d a b s) | 7 => assigned z (.shl d a b s) | 8 => assigned z (.shr d a b s)
  | 9 => assigned z (.sar d a b s) | 10 => assigned z (.rotl d a b s) | 11 => assigned z (.min d a b s)
  | 12 => assigned z (.max d a b s) | 13 => assigned z (.minu d a b s) | 14 => assigned z (.maxu d a b s)
  | 15 => assigned z (.mul d a b s) | 16 => assigned z (.mulh d a b s) | 17 => assigned z (.mulhu d a b s)
  | 18 => assigned z (.div d a b s) | 19 => assigned z (.divu d a b s) | 20 => assigned z (.rem d a b s)
  | 21 => assigned z (.remu d a b s) | 22 => assigned zb (.clz d a s) | 23 => assigned zb (.ctz d a s)
  | 24 => assigned zb (.popc d a s) | 25 => assigned w0 (.sel d a b (fld w 3 3) s)
  | _ => .error .unassigned

/-- OP 0x0C by function (07 R148): fields d, a and b name predicates. -/
def decodePlog (w : SlotWord) : Except DecodeError Instr :=
  let d := fld w 21 3; let a := fld w 16 3; let b := fld w 11 3
  let z := fldN w 24 2 == 0 && fldN w 19 2 == 0 && fldN w 14 2 == 0 && fldN w 0 6 == 0
  match fldN w 6 5 with
  | 0 => assigned z (.pand d a b) | 1 => assigned z (.por d a b) | 2 => assigned z (.pxor d a b)
  | 3 => assigned z (.pandn d a b) | 4 => assigned (z && b == 0) (.pnot d a)
  | _ => .error .unassigned

/-- The scalar table, the columns for both slots (06 R124). -/
def decodeScalarBoth (w : SlotWord) : Except DecodeError Instr :=
  let d := fld w 21 5; let a := fld w 16 5; let imm := fld w 0 16
  let l := fld w 6 6; let p := fld w 0 6
  match fldN w 26 6 with
  | 0x00 => decodeAlu w
  | 0x01 => assigned true (.addi d a imm) | 0x02 => assigned true (.andi d a imm)
  | 0x03 => assigned true (.ori d a imm) | 0x04 => assigned true (.xori d a imm)
  | 0x05 => match fldN w 14 2 with
    | 0 => assigned (fldN w 6 8 == 0) (.shli d a p) | 1 => assigned (fldN w 6 8 == 0) (.shri d a p)
    | 2 => assigned (fldN w 6 8 == 0) (.sari d a p) | _ => assigned (fldN w 6 8 == 0) (.rotli d a p)
  | 0x06 => assigned (a == 0) (.li d imm) | 0x07 => assigned true (.lsh d a imm)
  | 0x08 => if fldB w 12 then assigned (fldN w 13 3 == 0) (.extS d a l p)
            else assigned (fldN w 13 3 == 0) (.ext d a l p)
  | 0x09 => assigned (fldN w 12 4 == 0) (.ins d a l p)
  | 0x0A => assigned (fldN w 0 10 == 0) (.cmp (fld w 23 3) (.ofCode (fldN w 20 3)) (fld w 15 5) (fld w 10 5))
  | 0x0B => assigned true (.cmpi (fld w 23 3) (.ofCode (fldN w 20 3)) (fld w 15 5) (fld w 0 15))
  | 0x0C => decodePlog w
  | 0x0D => assigned (fldN w 0 21 == 0) (.rdp d)
  | 0x0E => assigned (d == 0 && fldN w 0 16 == 0) (.wrp a)
  | _ => .error .unassigned

/-- The scalar table, the columns for SA alone (06 R124). -/
def decodeScalarA (w : SlotWord) : Except DecodeError Instr :=
  let d := fld w 21 5; let a := fld w 16 5; let b := fld w 11 5; let imm := fld w 0 16
  let p := fld w 23 3; let n := fldB w 22; let off := fld w 0 22
  match fldN w 26 6 with
  | 0x10 => assigned true (.br p n off) | 0x11 => assigned true (.call p n off)
  | 0x12 => assigned (d == 0 && imm == 0) (.jr a) | 0x13 => assigned (d == 0 && imm == 0) (.callr a)
  | 0x14 => assigned true (.lpush p (fld w 18 5) (fld w 0 18))
  | 0x15 => assigned (fldN w 0 23 == 0) (.lbrk p)
  | 0x16 => assigned (fldN w 0 18 == 0) (.lidx p (fld w 18 5))
  | 0x17 => assigned (fldN w 0 26 == 0) .exit
  | 0x18 => assigned (fldN w 16 10 == 0) (.pause imm) | 0x19 => assigned (fldN w 16 10 == 0) (.trap imm)
  | 0x1A => assigned (fldN w 0 26 == 0) .rett
  | 0x1B => assigned (fldN w 16 10 == 0) (.brk imm)
  | 0x1C => assigned (a == 0) (.rdsr d imm) | 0x1D => assigned (d == 0) (.wrsr a imm)
  | 0x1E => assigned (fldN w 0 21 == 0) (.rdtime d)
  | 0x1F => assigned (decide (imm.toNat ≤ 2)) (.mscal d a (.ofCode imm.toNat))
  | 0x20 => assigned (imm == 0) (.msdefer d a)
  | 0x21 => assigned (fldN w 0 26 == 0) .ddsync
  | 0x22 => assigned (fldN w 0 11 == 0) (.lnch d a b) | 0x23 => assigned (fldN w 0 11 == 0) (.rlnch d a b)
  | _ => .error .unassigned

/-- The scalar table, the columns for SB alone (06 R124; 10 R230 to R238). -/
def decodeScalarB (w : SlotWord) : Except DecodeError Instr :=
  let d := fld w 21 5; let a := fld w 16 5; let b := fld w 11 5; let imm := fld w 0 16
  let sc := Scope.ofCode (fldN w 13 3); let scOk := decide (fldN w 13 3 ≤ 4)
  let asc := Scope.ofCode (fldN w 2 3); let aOk := decide (fldN w 2 3 ≤ 4) && fldB w 6
  match fldN w 26 6 with
  | 0x28 => assigned true (.ldB d a imm) | 0x29 => assigned true (.ldH d a imm)
  | 0x2A => assigned true (.ldW d a imm) | 0x2B => assigned true (.ldD d a imm)
  | 0x2C => assigned true (.ldBu d a imm) | 0x2D => assigned true (.ldHu d a imm)
  | 0x2E => assigned true (.ldWu d a imm)
  | 0x30 => assigned true (.stB d a imm) | 0x31 => assigned true (.stH d a imm)
  | 0x32 => assigned true (.stW d a imm) | 0x33 => assigned true (.stD d a imm)
  | 0x34 => assigned scOk (.ldAcq d a sc (.ofCode (fldN w 11 2)) (fld w 0 11))
  | 0x35 => assigned scOk (.stRel d a sc (.ofCode (fldN w 11 2)) (fld w 0 11))
  | 0x36 => if 8 < fldN w 7 4 then .error .unassigned
            else assigned aOk (.amo d a b (.ofCode (fldN w 7 4)) (fldB w 5) asc (fldB w 1) (fldB w 0))
  | 0x37 => assigned (aOk && fldN w 7 4 == 0) (.cas d a b (fldB w 5) asc (fldB w 1) (fldB w 0))
  | 0x38 => assigned (scOk && decide (fldN w 11 2 ≤ 2) && fldN w 0 11 == 0 && fldN w 16 10 == 0)
              (.fence sc (.ofCode (fldN w 11 2)))
  | 0x39 => assigned (d == 0 && fldN w 0 11 == 0) (.l1inv a b)
  | 0x3A => assigned (fldN w 0 26 == 0) .l1inva
  | 0x3B => assigned true (.probe d a imm)
  | 0x3C => assigned (a == 0 && fldN w 4 12 == 0) (.rdwp d (fld w 0 4))
  | _ => .error .unassigned

/-- Codes of the shared columns of the scalar table. -/
def isBothOp (op : Nat) : Bool := decide (op ≤ 0x0E)
/-- Codes of the SA column alone. -/
def isSaOp (op : Nat) : Bool := decide (0x10 ≤ op ∧ op ≤ 0x23)
/-- Codes of the SB column alone. -/
def isSbOp (op : Nat) : Bool := decide (0x28 ≤ op ∧ op ≤ 0x3C) && op != 0x2F

/-- Slot SA (06 R124, R127). -/
def decodeSA (w : SlotWord) : Except DecodeError Instr :=
  let op := fldN w 26 6
  if isBothOp op then decodeScalarBoth w
  else if isSaOp op then decodeScalarA w
  else if isSbOp op then .error .wrongSlot
  else .error .unassigned

/-- Slot SB (06 R124, R127). -/
def decodeSB (w : SlotWord) : Except DecodeError Instr :=
  let op := fldN w 26 6
  if isBothOp op then decodeScalarBoth w
  else if isSbOp op then decodeScalarB w
  else if isSaOp op then .error .wrongSlot
  else .error .unassigned

/-- Slot V (06 R125, 08 R175). -/
def decodeV (w : SlotWord) : Except DecodeError Instr :=
  let f := Fmt.ofCode (fldN w 23 3); let d := fld w 18 5; let a := fld w 13 5; let b := fld w 8 5
  let q := fld w 5 3; let fn := fldN w 0 5; let b0 := b == 0; let f0 := fn == 0
  let u := fldB w 0; let u0 := fldN w 1 4 == 0; let q0 := q == 0
  match fldN w 26 6 with
  | 0x00 => assigned u0 (.vadd f d a b q u) | 0x01 => assigned u0 (.vsub f d a b q u)
  | 0x02 => assigned f0 (.vmul f d a b q) | 0x03 => assigned f0 (.vfma f d a b q)
  | 0x04 => assigned f0 (.vfms f d a b q) | 0x05 => assigned f0 (.vfnma f d a b q)
  | 0x06 => assigned u0 (.vmax f d a b q u) | 0x07 => assigned u0 (.vmin f d a b q u)
  | 0x08 => assigned (b0 && f0) (.vabs f d a q) | 0x09 => assigned (b0 && f0) (.vneg f d a q)
  | 0x0A => assigned (b0 && f0) (.vexp2 f d a q) | 0x0B => assigned (b0 && f0) (.vlog2 f d a q)
  | 0x0C => assigned (b0 && f0) (.vrcp f d a q) | 0x0D => assigned (b0 && f0) (.vrsqrt f d a q)
  | 0x0E => assigned (b0 && f0) (.vsqrt f d a q) | 0x0F => assigned f0 (.vdiv f d a b q)
  | 0x10 => assigned f0 (.vand f d a b q) | 0x11 => assigned f0 (.vor f d a b q)
  | 0x12 => assigned f0 (.vxor f d a b q) | 0x13 => assigned (b0 && f0) (.vnot f d a q)
  | 0x14 => if u then assigned u0 (.vshli f d a b q) else assigned u0 (.vshl f d a b q)
  | 0x15 => if u then assigned u0 (.vshri f d a b q) else assigned u0 (.vshr f d a b q)
  | 0x16 => if u then assigned u0 (.vsari f d a b q) else assigned u0 (.vsar f d a b q)
  | 0x17 => if u then assigned u0 (.vreluBwd f d a b q) else assigned (u0 && b0) (.vrelu f d a q)
  | 0x18 => if fldN w 0 3 = 7 then .error .unassigned
            else assigned (fldN w 21 2 == 0) (.vcmp f (fld w 18 3) a b q (fld w 3 2) (.ofCode (fldN w 0 3)))
  | 0x19 => assigned f0 (.vsel f d a b q)
  | 0x1A => assigned b0 (.vcvt f d a q (fld w 3 2) (.ofCode (fldN w 0 3)))
  | 0x1B => assigned (b0 && fldN w 2 3 == 0) (.vround f d a q (.ofCode (fldN w 0 2)))
  | 0x1C => assigned (b0 && f0) (.vbcast f d a q)
  | 0x1D => assigned q0 (.vmovs f d a b (fld w 0 5))
  | 0x1E => assigned (b0 && f0) (.viota f d a q) | 0x1F => assigned (b0 && f0) (.vmovv f d a q)
  | 0x20 => assigned f0 (.vperm f d a b q) | 0x21 => assigned u0 (.vslide f d a b q u)
  | 0x22 => if 4 < fldN w 0 3 then .error .unassigned
            else assigned (b0 && q0 && fldN w 3 2 == 0) (.vred f d a (.ofCode (fldN w 0 3)))
  | 0x23 => assigned (b0 && f0) (.vclass f d a q)
  | 0x24 => if f != .f32 then .error .unassigned
            else assigned (b0 && q0 && fldN w 3 2 == 0) (.vqnt d a (fld w 0 3))
  | 0x25 => if f != .f32 then .error .unassigned
            else assigned (b0 && q0 && fldN w 3 2 == 0) (.vdeq d a (fld w 0 3))
  | 0x26 =>
    let z := q0 && fldN w 21 2 == 0 && fldN w 16 2 == 0 && fldN w 11 2 == 0
    let d := fld w 18 3; let a := fld w 13 3; let b := fld w 8 3
    if f != .f32 then .error .unassigned
    else match fn with
    | 0 => assigned z (.qand d a b) | 1 => assigned z (.qor d a b) | 2 => assigned z (.qxor d a b)
    | 3 => assigned z (.qandn d a b) | 4 => assigned (z && b == 0) (.qnot d a)
    | 5 => assigned (z && b == 0) (.qmov d a) | _ => .error .unassigned
  | _ => .error .unassigned

/-- Slot X (06 R126, 08 R198). -/
def decodeX (w : SlotWord) : Except DecodeError Instr :=
  let v := fld w 21 5; let s := fld w 16 5; let imm := fld w 0 16
  match fldN w 26 6 with
  | 0 => assigned (s == 0 && imm == 0) (.xpush v) | 1 => assigned (s == 0 && imm == 0) (.xpop v)
  | 2 => assigned (v == 0) (.xst s imm) | 3 => assigned (v == 0 && s == 0 && imm == 0) .xclr
  | 4 => assigned (v == 0 && s == 0 && decide (imm.toNat ≤ 2)) (.xwid (.ofCode imm.toNat))
  | _ => .error .unassigned

/-- Slot M (06 R126, 09 R214 to R216). -/
def decodeM (w : SlotWord) : Except DecodeError Instr :=
  let af := fldN w 23 3; let bf := fldN w 20 3; let t := fld w 17 3; let sa := fld w 12 5
  let sb := fld w 7 5; let g := fld w 5 2; let z := fldB w 4; let ka := fld w 2 2; let kb := fld w 0 2
  let ab0 := af == 0 && bf == 0; let lo0 := fldN w 0 7 == 0
  let tOk := bf == 0 && sb == 0 && ka == 0 && kb == 0 && (if z then af == 0 else decide (af ≤ 3))
  match fldN w 26 6 with
  | 0 => assigned (decide (af ≤ 4) && decide (bf ≤ 4)) (.mma (.ofCode af) (.ofCode bf) t sa sb g z ka kb)
  | 1 => assigned (ab0 && fldN w 0 17 == 0) (.mzero t)
  | 2 => assigned (ab0 && lo0) (.mrd t sa sb) | 3 => assigned (ab0 && lo0) (.mwr t sa sb)
  | 4 => assigned tOk (.mst (.ofCode af z) t sa g)
  | 5 => assigned (ab0 && fldN w 0 17 == 0) (.mwait t)
  | 6 => assigned tOk (.mld (.ofCode af z) t sa g)
  | _ => .error .unassigned

/-- Slot K (06 R126, 09 R219). -/
def decodeK (w : SlotWord) : Except DecodeError Instr :=
  let k := fld w 24 2; let s := fld w 19 5
  match fldN w 26 6 with
  | 0 => assigned (fldN w 0 3 == 0) (.kld k s (fld w 11 8) (fld w 3 8))
  | 1 => assigned (fldN w 0 19 == 0) (.kband k s)
  | 2 => assigned (fldN w 0 24 == 0) (.kclr k)
  | _ => .error .unassigned

/-- Slot L (06 R126, 10 R223 to R228). -/
def decodeL (w : SlotWord) : Except DecodeError Instr :=
  let v := fld w 21 5; let s := fld w 16 5; let q := fld w 13 3; let imm := fld w 0 13
  let t := fld w 8 5; let t0 := fldN w 0 8 == 0; let q0 := q == 0
  match fldN w 26 6 with
  | 0x0 => assigned true (.vld v s q imm) | 0x1 => assigned true (.vst v s q imm)
  | 0x2 => assigned t0 (.vlds v s q t) | 0x3 => assigned t0 (.vsts v s q t)
  | 0x4 => assigned t0 (.vgth v s q t) | 0x5 => assigned t0 (.vsct v s q t)
  | 0x6 => assigned true (.vldh v s q imm) | 0x7 => assigned true (.vsth v s q imm)
  | 0x8 => assigned (q0 && decide (1 ≤ fldN w 2 6 ∧ fldN w 2 6 ≤ 6))
             (.kst v s t (.ofCode (fldN w 2 6)) (.ofCode (fldN w 0 2)))
  | 0x9 => assigned (q0 && fldN w 2 6 == 0 && decide (fldN w 0 2 ≤ 2)) (.vrelub v t s (.ofCode (fldN w 0 2)))
  | 0xA => assigned (q0 && decide (fldN w 0 2 ≤ 2)) (.vmaxpb v t s (fld w 2 6) (.ofCode (fldN w 0 2)))
  | 0xB => assigned (q0 && fldN w 2 11 == 0) (.vldk v s (fld w 0 2))
  | 0xC => assigned (q0 && fldN w 2 11 == 0) (.vdeqk v s (fld w 0 2))
  | _ => .error .unassigned

/-- Slot E (06 R126, 10 R253 to R258). The counts of a handle instruction are checked at issue,
since they depend on the descriptor. -/
def decodeE (w : SlotWord) : Except DecodeError Instr :=
  let h := fld w 21 5; let s := fld w 16 5; let imm := fld w 0 16; let s0 := s == 0
  match fldN w 26 6 with
  | 0 => if h = 31 ∧ imm = 0 then assigned true (.cbwaitProbe s) else assigned s0 (.cbwait h imm)
  | 1 => assigned s0 (.cbfree h imm) | 2 => assigned s0 (.cbadvc h imm) | 3 => assigned s0 (.cbadvp h imm)
  | 4 => assigned (imm == 0) (.cbstat h s)
  | 5 => assigned (s0 && fldN w 24 2 == 0) (.qfence (fldB w 21) (fldB w 22) (fldB w 23) imm)
  | 6 => assigned (fldN w 0 26 == 0) .bar
  | 7 => assigned (fldN w 4 4 == 0) (.cred h s (fld w 8 8) (fld w 0 4))
  | 8 => assigned (imm == 0 && fldN w 25 1 == 0) (.wpwait (fld w 21 4) s)
  | _ => .error .unassigned

/-- The instruction of a slot word in its slot (06 R123 to R127). -/
def decodeSlot (sl : Slot) (w : SlotWord) : Except DecodeError Instr :=
  match sl with
  | .sa => decodeSA w | .sb => decodeSB w | .l => decodeL w | .v => decodeV w
  | .x => decodeX w | .k => decodeK w | .m => decodeM w | .e => decodeE w

/-- The slot that `decodeTableWord` reads a word in: the first in slot order that decodes it. The
table gives a word no slot, and words of different slots share bit patterns (log 7). -/
def firstSlot (w : SlotWord) : List Slot → Option (Slot × Instr)
  | [] => none
  | sl :: rest => match decodeSlot sl w with
    | .ok i => some (sl, i)
    | .error _ => firstSlot w rest

/-- All slots in commit order (01 R19). -/
def Slot.all : List Slot := [.sa, .sb, .l, .v, .x, .k, .m, .e]

/-- The slot and instruction of a table word (log 7). -/
def tableWord (w : SlotWord) : Option (Slot × Instr) := firstSlot w Slot.all

/-- The instruction that the decoder reads from a word numbered as the opcode table numbers it. -/
def decodeTableWord (_nbits w : Nat) : Option Instr :=
  (tableWord (BitVec.ofNat 32 w)).map Prod.snd

/-! ### Encoding -/

/-- A flag as a bit. -/
def bit (b : Bool) : Nat := if b then 1 else 0

/-- Format SR (06 R123). -/
def encSR (op : Nat) (d a b : BitVec 5) (fn : Nat) : SlotWord :=
  BitVec.ofNat 32 (op * 2 ^ 26 + d.toNat * 2 ^ 21 + a.toNat * 2 ^ 16 + b.toNat * 2 ^ 11 + fn)
/-- Formats SI, X and E (06 R123). -/
def encSI (op : Nat) (d a : BitVec 5) (imm : Nat) : SlotWord :=
  BitVec.ofNat 32 (op * 2 ^ 26 + d.toNat * 2 ^ 21 + a.toNat * 2 ^ 16 + imm)
/-- Format SC (06 R123). -/
def encSC (op : Nat) (pd : BitVec 3) (c : Cond) (a : BitVec 5) (imm : Nat) : SlotWord :=
  BitVec.ofNat 32 (op * 2 ^ 26 + pd.toNat * 2 ^ 23 + c.code * 2 ^ 20 + a.toNat * 2 ^ 15 + imm)
/-- Formats SB and SL, whose first field is three bits wide (06 R123). -/
def encSL (op : Nat) (p : BitVec 3) (rest : Nat) : SlotWord :=
  BitVec.ofNat 32 (op * 2 ^ 26 + p.toNat * 2 ^ 23 + rest)
/-- The three predicate fields of `plog` (07 R148). -/
def encPlog (fn : Nat) (d a b : BitVec 3) : SlotWord :=
  BitVec.ofNat 32 (0x0C * 2 ^ 26 + d.toNat * 2 ^ 21 + a.toNat * 2 ^ 16 + b.toNat * 2 ^ 11 + fn * 2 ^ 6)
/-- Format VR (06 R123). -/
def encVR (op : Nat) (f : Fmt) (d a b : BitVec 5) (q : BitVec 3) (fn : Nat) : SlotWord :=
  BitVec.ofNat 32 (op * 2 ^ 26 + f.code * 2 ^ 23 + d.toNat * 2 ^ 18 + a.toNat * 2 ^ 13 + b.toNat * 2 ^ 8
    + q.toNat * 2 ^ 5 + fn)
/-- Mask logic: d, a and b name lane masks (08 R195). -/
def encQ (fn : Nat) (d a b : BitVec 3) : SlotWord :=
  BitVec.ofNat 32 (0x26 * 2 ^ 26 + d.toNat * 2 ^ 18 + a.toNat * 2 ^ 13 + b.toNat * 2 ^ 8 + fn)
/-- Format M (06 R123). -/
def encMW (op af bf : Nat) (t : BitVec 3) (sa sb : BitVec 5) (lo : Nat) : SlotWord :=
  BitVec.ofNat 32 (op * 2 ^ 26 + af * 2 ^ 23 + bf * 2 ^ 20 + t.toNat * 2 ^ 17 + sa.toNat * 2 ^ 12
    + sb.toNat * 2 ^ 7 + lo)
/-- Format K (06 R123). -/
def encKW (op : Nat) (k : BitVec 2) (s : BitVec 5) (imm : Nat) : SlotWord :=
  BitVec.ofNat 32 (op * 2 ^ 26 + k.toNat * 2 ^ 24 + s.toNat * 2 ^ 19 + imm)
/-- Format L (06 R123). -/
def encLW (op : Nat) (v s : BitVec 5) (q : BitVec 3) (imm : Nat) : SlotWord :=
  BitVec.ofNat 32 (op * 2 ^ 26 + v.toNat * 2 ^ 21 + s.toNat * 2 ^ 16 + q.toNat * 2 ^ 13 + imm)

/-- OP 0x00 with function `fn` (06 R123). -/
def encAlu (fn : Nat) (d a b : SReg) (w : Bool) : SlotWord := encSR 0 d a b (fn * 2 ^ 6 + bit w)

/-- The slot word of an instruction; 0 for an event, which has no word. -/
def encode : Instr → SlotWord
  | .add d a b w => encAlu 0 d a b w | .sub d a b w => encAlu 1 d a b w | .and d a b w => encAlu 2 d a b w
  | .or d a b w => encAlu 3 d a b w | .xor d a b w => encAlu 4 d a b w | .andn d a b w => encAlu 5 d a b w
  | .orn d a b w => encAlu 6 d a b w | .shl d a b w => encAlu 7 d a b w | .shr d a b w => encAlu 8 d a b w
  | .sar d a b w => encAlu 9 d a b w | .rotl d a b w => encAlu 10 d a b w | .min d a b w => encAlu 11 d a b w
  | .max d a b w => encAlu 12 d a b w | .minu d a b w => encAlu 13 d a b w | .maxu d a b w => encAlu 14 d a b w
  | .mul d a b w => encAlu 15 d a b w | .mulh d a b w => encAlu 16 d a b w | .mulhu d a b w => encAlu 17 d a b w
  | .div d a b w => encAlu 18 d a b w | .divu d a b w => encAlu 19 d a b w | .rem d a b w => encAlu 20 d a b w
  | .remu d a b w => encAlu 21 d a b w | .clz d a w => encAlu 22 d a 0 w | .ctz d a w => encAlu 23 d a 0 w
  | .popc d a w => encAlu 24 d a 0 w
  | .sel d a b p w => encSR 0 d a b (25 * 2 ^ 6 + p.toNat * 2 ^ 3 + bit w)
  | .addi d a i => encSI 1 d a i.toNat | .andi d a i => encSI 2 d a i.toNat | .ori d a i => encSI 3 d a i.toNat
  | .xori d a i => encSI 4 d a i.toNat | .shli d a m => encSI 5 d a m.toNat
  | .shri d a m => encSI 5 d a (1 * 2 ^ 14 + m.toNat) | .sari d a m => encSI 5 d a (2 * 2 ^ 14 + m.toNat)
  | .rotli d a m => encSI 5 d a (3 * 2 ^ 14 + m.toNat) | .li d i => encSI 6 d 0 i.toNat
  | .lsh d a i => encSI 7 d a i.toNat | .ext d a l p => encSI 8 d a (l.toNat * 2 ^ 6 + p.toNat)
  | .extS d a l p => encSI 8 d a (1 * 2 ^ 12 + l.toNat * 2 ^ 6 + p.toNat)
  | .ins d a l p => encSI 9 d a (l.toNat * 2 ^ 6 + p.toNat)
  | .cmp p c a b => encSC 0x0A p c a (b.toNat * 2 ^ 10) | .cmpi p c a i => encSC 0x0B p c a i.toNat
  | .pand d a b => encPlog 0 d a b | .por d a b => encPlog 1 d a b | .pxor d a b => encPlog 2 d a b
  | .pandn d a b => encPlog 3 d a b | .pnot d a => encPlog 4 d a 0
  | .rdp d => encSI 0x0D d 0 0 | .wrp a => encSI 0x0E 0 a 0
  | .br p n o => encSL 0x10 p (bit n * 2 ^ 22 + o.toNat) | .call p n o => encSL 0x11 p (bit n * 2 ^ 22 + o.toNat)
  | .jr a => encSI 0x12 0 a 0 | .callr a => encSI 0x13 0 a 0
  | .lpush l a e => encSL 0x14 l (a.toNat * 2 ^ 18 + e.toNat) | .lbrk l => encSL 0x15 l 0
  | .lidx l d => encSL 0x16 l (d.toNat * 2 ^ 18) | .exit => encSI 0x17 0 0 0
  | .pause n => encSI 0x18 0 0 n.toNat | .trap n => encSI 0x19 0 0 n.toNat | .rett => encSI 0x1A 0 0 0
  | .brk n => encSI 0x1B 0 0 n.toNat | .rdsr d r => encSI 0x1C d 0 r.toNat | .wrsr a r => encSI 0x1D 0 a r.toNat
  | .rdtime d => encSI 0x1E d 0 0 | .mscal d a k => encSI 0x1F d a k.code | .msdefer d a => encSI 0x20 d a 0
  | .ddsync => encSI 0x21 0 0 0 | .lnch d a b => encSR 0x22 d a b 0 | .rlnch d a b => encSR 0x23 d a b 0
  | .ldB d a i => encSI 0x28 d a i.toNat | .ldH d a i => encSI 0x29 d a i.toNat
  | .ldW d a i => encSI 0x2A d a i.toNat | .ldD d a i => encSI 0x2B d a i.toNat
  | .ldBu d a i => encSI 0x2C d a i.toNat | .ldHu d a i => encSI 0x2D d a i.toNat
  | .ldWu d a i => encSI 0x2E d a i.toNat | .stB d a i => encSI 0x30 d a i.toNat
  | .stH d a i => encSI 0x31 d a i.toNat | .stW d a i => encSI 0x32 d a i.toNat
  | .stD d a i => encSI 0x33 d a i.toNat
  | .ldAcq d a sc z o => encSI 0x34 d a (sc.code * 2 ^ 13 + z.code * 2 ^ 11 + o.toNat)
  | .stRel d a sc z o => encSI 0x35 d a (sc.code * 2 ^ 13 + z.code * 2 ^ 11 + o.toNat)
  | .amo d a b o z sc q r =>
      encSR 0x36 d a b (o.code * 2 ^ 7 + 1 * 2 ^ 6 + bit z * 2 ^ 5 + sc.code * 2 ^ 2 + bit q * 2 + bit r)
  | .cas d a b z sc q r => encSR 0x37 d a b (1 * 2 ^ 6 + bit z * 2 ^ 5 + sc.code * 2 ^ 2 + bit q * 2 + bit r)
  | .fence sc k => encSI 0x38 0 0 (sc.code * 2 ^ 13 + k.code * 2 ^ 11)
  | .l1inv a b => encSR 0x39 0 a b 0 | .l1inva => encSI 0x3A 0 0 0 | .probe d a i => encSI 0x3B d a i.toNat
  | .rdwp d c => encSI 0x3C d 0 c.toNat
  | .vadd f d a b q s => encVR 0x00 f d a b q (bit s) | .vsub f d a b q s => encVR 0x01 f d a b q (bit s)
  | .vmul f d a b q => encVR 0x02 f d a b q 0 | .vfma f d a b q => encVR 0x03 f d a b q 0
  | .vfms f d a b q => encVR 0x04 f d a b q 0 | .vfnma f d a b q => encVR 0x05 f d a b q 0
  | .vmax f d a b q u => encVR 0x06 f d a b q (bit u) | .vmin f d a b q u => encVR 0x07 f d a b q (bit u)
  | .vabs f d a q => encVR 0x08 f d a 0 q 0 | .vneg f d a q => encVR 0x09 f d a 0 q 0
  | .vexp2 f d a q => encVR 0x0A f d a 0 q 0 | .vlog2 f d a q => encVR 0x0B f d a 0 q 0
  | .vrcp f d a q => encVR 0x0C f d a 0 q 0 | .vrsqrt f d a q => encVR 0x0D f d a 0 q 0
  | .vsqrt f d a q => encVR 0x0E f d a 0 q 0 | .vdiv f d a b q => encVR 0x0F f d a b q 0
  | .vand f d a b q => encVR 0x10 f d a b q 0 | .vor f d a b q => encVR 0x11 f d a b q 0
  | .vxor f d a b q => encVR 0x12 f d a b q 0 | .vnot f d a q => encVR 0x13 f d a 0 q 0
  | .vshl f d a b q => encVR 0x14 f d a b q 0 | .vshli f d a m q => encVR 0x14 f d a m q 1
  | .vshr f d a b q => encVR 0x15 f d a b q 0 | .vshri f d a m q => encVR 0x15 f d a m q 1
  | .vsar f d a b q => encVR 0x16 f d a b q 0 | .vsari f d a m q => encVR 0x16 f d a m q 1
  | .vrelu f d a q => encVR 0x17 f d a 0 q 0 | .vreluBwd f d a b q => encVR 0x17 f d a b q 1
  | .vcmp f d a b q k c => encVR 0x18 f (d.setWidth 5) a b q (k.toNat * 2 ^ 3 + c.code)
  | .vsel f d a b q => encVR 0x19 f d a b q 0
  | .vcvt f d a q k s => encVR 0x1A f d a 0 q (k.toNat * 2 ^ 3 + s.code)
  | .vround f d a q k => encVR 0x1B f d a 0 q k.code | .vbcast f d a q => encVR 0x1C f d a 0 q 0
  | .vmovs f d a l h => encVR 0x1D f d a l 0 h.toNat | .viota f d a q => encVR 0x1E f d a 0 q 0
  | .vmovv f d a q => encVR 0x1F f d a 0 q 0 | .vperm f d a b q => encVR 0x20 f d a b q 0
  | .vslide f d a b q u => encVR 0x21 f d a b q (bit u) | .vred f d a o => encVR 0x22 f d a 0 0 o.code
  | .vclass f d a q => encVR 0x23 f d a 0 q 0 | .vqnt d a k => encVR 0x24 .f32 d a 0 0 k.toNat
  | .vdeq d a k => encVR 0x25 .f32 d a 0 0 k.toNat
  | .qand d a b => encQ 0 d a b | .qor d a b => encQ 1 d a b | .qxor d a b => encQ 2 d a b
  | .qandn d a b => encQ 3 d a b | .qnot d a => encQ 4 d a 0 | .qmov d a => encQ 5 d a 0
  | .xpush v => encSI 0 v 0 0 | .xpop v => encSI 1 v 0 0 | .xst s i => encSI 2 0 s i.toNat
  | .xclr => encSI 3 0 0 0 | .xwid w => encSI 4 0 0 w.code
  | .mma af bf t sa sb g z ka kb => encMW 0 af.code bf.code t sa sb
      (g.toNat * 2 ^ 5 + bit z * 2 ^ 4 + ka.toNat * 2 ^ 2 + kb.toNat)
  | .mzero t => encMW 1 0 0 t 0 0 0 | .mrd t v s => encMW 2 0 0 t v s 0 | .mwr t v s => encMW 3 0 0 t v s 0
  | .mst f t sa g => encMW 4 f.af 0 t sa 0 (g.toNat * 2 ^ 5 + bit f.z * 2 ^ 4)
  | .mwait t => encMW 5 0 0 t 0 0 0
  | .mld f t sa g => encMW 6 f.af 0 t sa 0 (g.toNat * 2 ^ 5 + bit f.z * 2 ^ 4)
  | .kld k s o l => encKW 0 k s (o.toNat * 2 ^ 11 + l.toNat * 2 ^ 3) | .kband k s => encKW 1 k s 0
  | .kclr k => encKW 2 k 0 0
  | .vld v s q i => encLW 0 v s q i.toNat | .vst v s q i => encLW 1 v s q i.toNat
  | .vlds v s q t => encLW 2 v s q (t.toNat * 2 ^ 8) | .vsts v s q t => encLW 3 v s q (t.toNat * 2 ^ 8)
  | .vgth v s q x => encLW 4 v s q (x.toNat * 2 ^ 8) | .vsct v s q x => encLW 5 v s q (x.toNat * 2 ^ 8)
  | .vldh v h q i => encLW 6 v h q i.toNat | .vsth v h q i => encLW 7 v h q i.toNat
  | .kst v s t c f => encLW 8 v s 0 (t.toNat * 2 ^ 8 + c.code * 2 ^ 2 + f.code)
  | .vrelub v g s f => encLW 9 v s 0 (g.toNat * 2 ^ 8 + f.code)
  | .vmaxpb v g s w f => encLW 10 v s 0 (g.toNat * 2 ^ 8 + w.toNat * 2 ^ 2 + f.code)
  | .vldk v s p => encLW 11 v s 0 p.toNat | .vdeqk v s p => encLW 12 v s 0 p.toNat
  | .cbwait h n => encSI 0 h 0 n.toNat | .cbwaitProbe s => encSI 0 31 s 0 | .cbfree h n => encSI 1 h 0 n.toNat
  | .cbadvc h n => encSI 2 h 0 n.toNat | .cbadvp h n => encSI 3 h 0 n.toNat | .cbstat h d => encSI 4 h d 0
  | .qfence s m x c => encSI 5 (BitVec.ofNat 5 (bit s + bit m * 2 + bit x * 4)) 0 c.toNat
  | .bar => encSI 6 0 0 0 | .cred h s g o => encSI 7 h s (g.toNat * 2 ^ 8 + o.toNat)
  | .wpwait c s => encSI 8 (c.setWidth 5) s 0
  | _ => 0

/-- The slots that an instruction may stand in (06 R124 to R126); none for an event. -/
def Instr.inSlot (i : Instr) (sl : Slot) : Bool :=
  match sl with
  | .sa => match i with
    | .br .. | .call .. | .jr .. | .callr .. | .lpush .. | .lbrk .. | .lidx .. | .exit | .pause .. | .trap ..
    | .rett | .brk .. | .rdsr .. | .wrsr .. | .rdtime .. | .mscal .. | .msdefer .. | .ddsync | .lnch ..
    | .rlnch .. => true
    | _ => both i
  | .sb => match i with
    | .ldB .. | .ldH .. | .ldW .. | .ldD .. | .ldBu .. | .ldHu .. | .ldWu .. | .stB .. | .stH .. | .stW ..
    | .stD .. | .ldAcq .. | .stRel .. | .amo .. | .cas .. | .fence .. | .l1inv .. | .l1inva | .probe ..
    | .rdwp .. => true
    | _ => both i
  | .l => match i with
    | .vld .. | .vst .. | .vlds .. | .vsts .. | .vgth .. | .vsct .. | .vldh .. | .vsth .. | .kst .. | .vrelub ..
    | .vmaxpb .. | .vldk .. | .vdeqk .. => true
    | _ => false
  | .v => match i with
    | .vadd .. | .vsub .. | .vmul .. | .vfma .. | .vfms .. | .vfnma .. | .vmax .. | .vmin .. | .vabs .. | .vneg ..
    | .vexp2 .. | .vlog2 .. | .vrcp .. | .vrsqrt .. | .vsqrt .. | .vdiv .. | .vand .. | .vor .. | .vxor ..
    | .vnot .. | .vshl .. | .vshli .. | .vshr .. | .vshri .. | .vsar .. | .vsari .. | .vrelu .. | .vreluBwd ..
    | .vcmp .. | .vsel .. | .vcvt .. | .vround .. | .vbcast .. | .vmovs .. | .viota .. | .vmovv .. | .vperm ..
    | .vslide .. | .vred .. | .vclass .. | .vqnt .. | .vdeq .. | .qand .. | .qor .. | .qxor .. | .qandn ..
    | .qnot .. | .qmov .. => true
    | _ => false
  | .x => match i with
    | .xpush .. | .xpop .. | .xst .. | .xclr | .xwid .. => true
    | _ => false
  | .k => match i with
    | .kld .. | .kband .. | .kclr .. => true
    | _ => false
  | .m => match i with
    | .mma .. | .mzero .. | .mrd .. | .mwr .. | .mst .. | .mwait .. | .mld .. => true
    | _ => false
  | .e => match i with
    | .cbwait .. | .cbwaitProbe .. | .cbfree .. | .cbadvc .. | .cbadvp .. | .cbstat .. | .qfence .. | .bar
    | .cred .. | .wpwait .. => true
    | _ => false
where
  both : Instr → Bool
    | .add .. | .sub .. | .and .. | .or .. | .xor .. | .andn .. | .orn .. | .shl .. | .shr .. | .sar .. | .rotl ..
    | .min .. | .max .. | .minu .. | .maxu .. | .mul .. | .mulh .. | .mulhu .. | .div .. | .divu .. | .rem ..
    | .remu .. | .clz .. | .ctz .. | .popc .. | .sel .. | .addi .. | .andi .. | .ori .. | .xori .. | .shli ..
    | .shri .. | .sari .. | .rotli .. | .li .. | .lsh .. | .ext .. | .extS .. | .ins .. | .cmp .. | .cmpi ..
    | .pand .. | .por .. | .pxor .. | .pandn .. | .pnot .. | .rdp .. | .wrp .. => true
    | _ => false

end Sys2Proof
end

