-- ==== Sys2Proof/Machine/State.lean ====
section
/-! DEFINITION. The state of the device as plain data, and its value at reset. Rule labels name the
rule of the spec that gives each piece of state. -/

namespace Sys2Proof.Machine

/-! ### Tables by number -/

/-- A sparse table by number; an absent entry reads as the default that the reader names. -/
abbrev Tbl (α : Type) := List (Nat × α)

/-- The entry of key `k`, or `d`. -/
def tget {α : Type} (d : α) : Tbl α → Nat → α
  | [], _ => d
  | (j, a) :: t, k => if j = k then a else tget d t k

/-- Sets the entry of key `k`. -/
def tset {α : Type} : Tbl α → Nat → α → Tbl α
  | [], k, a => [(k, a)]
  | (j, b) :: t, k, a => if j = k then (k, a) :: t else (j, b) :: tset t k a

/-! ### Faults and refusals -/

/-- What stops the machine. -/
inductive Fault
  /-- A store from the host or a management core to a physical address that the memory map does not
  back (02 R45): raised by HOME_SLICE_STORE. Safe: the spec gives such a store no effect. -/
  | unbackedAddress (pa : Nat)
  deriving DecidableEq, Repr

/-- What the model does not do. -/
inductive Refusal
  /-- An instruction that has no meaning in this model yet, by its mnemonic. Safe. -/
  | notModelled (mnemonic : String)
  deriving DecidableEq, Repr

/-! ### Registers of a context -/

/-- A register that an interlock or the resume shadow names. -/
inductive RegId
  | s (n : SReg) | p (n : PReg) | v (n : VReg) | q (n : QReg)
  deriving DecidableEq, Repr

/-- The register files of a context (02 R32). -/
structure RegFile where
  s : Vector Word 32
  p : Vector Bool 8
  v : Vector VWord 32
  q : Vector QMask 8
  deriving DecidableEq, Repr

/-- Values from before the bundle of registers that its committed slots have written: what later
slots of the bundle read (06 R122), and the resume shadow of a re-entered bundle (07 R163). With them what those
slots have set for the end of the bundle: where a loop of count 0 skips to (07 R154), `exit` (07 R158), an instruction
of 14 R268 (log 38), `ddsync` (06 R133). -/
structure Saved where
  s : List (SReg × Word)
  p : List (PReg × Bool)
  v : List (VReg × VWord)
  q : List (QReg × QMask)
  skip : Option Word
  exiting : Bool
  marked : Bool
  sync : Bool
  deriving DecidableEq, Repr

/-- A level of the loop stack (01 R15, 07 R154): start and end are word addresses. -/
structure LoopLevel where
  start : Word
  stop : Word
  count : Word
  index : Word
  kind : Bool
  brk : Bool
  deriving DecidableEq, Repr

/-- The pending delay state (07 R161): delay bundles that remain, counting the present one. -/
structure Delay where
  left : Nat
  taken : Bool
  target : Word
  deriving DecidableEq, Repr

/-- An X-slot instruction held in the view history of the tongs (08 R196). -/
inductive XOp
  | push (row : BitVec 5) (data : VWord)
  | clear
  | width (w : XWidth)
  deriving DecidableEq, Repr

/-- The tongs (08 R196): rows and width as of four bundles back, the pointers, and the X-slot
instructions of the last three numbered bundles with their bundle numbers, oldest first. -/
structure Tongs where
  rows : BitVec 131072
  width : XWidth
  push : BitVec 5
  pop : BitVec 5
  hist : List (Nat × XOp)
  deriving DecidableEq, Repr

/-- What a restart point shadows (14 R267), and where execution resumes (14 R266). -/
structure Shadow where
  regs : RegFile
  loops : List LoopLevel
  fflags : BitVec 5
  fpend : List (Nat × BitVec 5)
  /-- Flags of kept readers that a post-issue stall will write after the shadow was taken (03 R79, R81). -/
  sflags : List (Nat × BitVec 5)
  tongs : Tongs
  delay : Option Delay
  bnum : Nat
  numbered : Bool
  pc : Word
  slot : Nat
  resume : Saved
  deriving DecidableEq, Repr

/-- The return state that the core monitor keeps for an outstanding user handler or redirect
(19 R333, R335). -/
structure Delivery where
  tcause : BitVec 10
  tval : Word
  tpcw : Word
  slotres : BitVec 3
  dly : BitVec 2
  dtk : Bool
  tdtgt : Word
  priv : Bool
  te : Bool
  resume : Saved
  deriving DecidableEq, Repr

/-! ### Queues of a context -/

/-- Page kinds (04 R85). -/
inductive PageKind | rc | so | un
  deriving DecidableEq, Repr

/-- What a waiting store writes (02 R42, 04 R87). -/
inductive StoreKind
  /-- A line of memory: physical line number, whether it is the header line of a `kst`. -/
  | line (pline : Nat) (kstHeader : Bool)
  /-- A release into a scratchpad: core and physical byte offset. -/
  | window (core : Nat) (off : Nat) (size : Nat)
  /-- A doubleword of the engine-register window at an offset. -/
  | engine (off : Nat)
  /-- Bytes of the dictionary aperture at an offset. -/
  | dict (off : Nat) (size : Nat)
  /-- A copy start on a channel. -/
  | start (chan : Nat)
  /-- The place of a `fence.rel` or `fence.full`, which holds later stores. -/
  | fence (full : Bool)
  deriving DecidableEq, Repr

/-- A store of a context that has committed and has not been performed: its place in the context's
order, whether its region is still open, what it writes (data and mask of a line), its page kind,
whether SB issued it, its release scope, the vector store it belongs to (0 for none), the entry of the
gated-store buffer that it takes part in (10 R232), whether it has been forwarded to a CXL port, whether
it committed at user privilege, when it committed, and the number under which it waits at its controller (21 R352;
0 before it has reached it). -/
structure Store where
  seq : Nat
  gated : Bool
  kind : StoreKind
  va : Nat
  data : Line
  mask : BitVec 64
  page : PageKind
  scalar : Bool
  rel : Option Scope
  grp : Nat
  entry : Nat
  fwd : Bool
  user : Bool
  time : Nat
  arr : Nat
  deriving DecidableEq, Repr

/-- A receiver of a multicast copy: member, claimed slot, whether it has faulted, lines landed. -/
structure Receiver where
  member : Nat
  slot : Option Nat
  failed : Bool
  lines : Nat
  deriving DecidableEq, Repr

/-- A queued copy (10 R244 to R248): start word, captured template, order in the context, slots
reserved when the start was performed, whether its claims are made and since when, WP when it began, the
time of its last landing and the line that landed then, whether it was started at user privilege, and the lines that a
multicast copy has read. -/
structure Copy where
  start : Word
  tmpl : Line
  seq : Nat
  srcSlot : Option Nat
  dstSlot : Option Nat
  begun : Bool
  wp0 : Word
  held : Bool
  nbDone : Bool
  probe : Option Nat
  recv : List Receiver
  user : Bool
  began : Nat
  last : Nat
  lastN : Nat
  mdata : List Line
  deriving DecidableEq, Repr

/-- M operations (09). -/
inductive MKind | mma | mzero | mwr | mrd | mst | mld
  deriving DecidableEq, Repr

/-- A scale buffer (09 R217): byte i is bits 8i+7:8i. -/
structure KBuf where
  bytes : BitVec 131072
  bnd0 : BitVec 16
  bnd1 : BitVec 16
  deriving DecidableEq, Repr

/-- An operation of the M queue with its word and what it captured at its commit (09 R202, R207): whether it
committed at user privilege, the scratchpad as it stood then (09 R210), and whether its scale buffers then held an error
(24 R381). `plainA` says that its A operand has been found to be no kept tile; `frames` gives the physical page of each virtual
page of its global operands, as the page tables stood at its commit (04 R84; log 49). -/
structure MOp where
  word : SlotWord
  kind : MKind
  tile : BitVec 3
  af : MFmt
  bf : MFmt
  tf : TFmt
  z : Bool
  addrA : Word
  addrB : Word
  gset : Line
  bufA : KBuf
  bufB : KBuf
  data : VWord
  row : Nat
  seq : Nat
  time : Nat
  flags : BitVec 5
  held : Option (Nat × Word)
  user : Bool
  snap : List Host.Cell
  badA : Bool
  badB : Bool
  plainA : Bool
  frames : List (Nat × Nat)
  deriving DecidableEq, Repr

/-- A collective of the X queue (10 R256, R257); `k` counts the context's collectives on its group. -/
structure Cred where
  k : Nat
  op : BitVec 4
  h : Nat
  slot : Nat
  group : Nat
  addr : Nat
  size : Nat
  seq : Nat
  read : Option (List Byte)
  time : Nat
  deriving DecidableEq, Repr

/-- What the members of a group have given for the `k`-th collective on it: member, op, size, and the
contribution, `none` for a member that differs from the reference member (10 R257); `recv` holds what has arrived of the contributions of
members on other devices. -/
structure Coll where
  part : Nat
  group : Nat
  k : Nat
  got : List (Nat × Nat × Nat × Option (List Byte))
  recv : List (Nat × List Byte)
  taken : List Nat
  last : Nat
  deriving DecidableEq, Repr

/-- A K-slot write (09 R218, R219). -/
inductive KWrite
  | load (off len : Nat) (data : List Byte)
  | band (w : Word)
  | clear
  deriving DecidableEq, Repr

/-- A K write that has not landed: the bundle at whose end it lands, its buffer. -/
structure KPend where
  due : Nat
  buf : BitVec 2
  write : KWrite
  deriving DecidableEq, Repr

/-- A `qfence` that still joins its queues (04 R91). -/
structure Join where
  seq : Nat
  s : Bool
  m : Bool
  x : Bool
  chans : BitVec 16
  deriving DecidableEq, Repr

/-- A post-issue stall (01 R20, R21): when it began, the earliest end, cycles that LATCNT leaves
out, the physical lines it waits for, the results that become readable so many cycles after its end
(10 R222), the flags that are then ORed (03 R79), and the openings of the slots that a line's request overran. -/
structure Stall where
  since : Nat
  earliest : Nat
  free : Nat
  lines : List Nat
  regs : List (RegId × Nat)
  flags : List (Nat × BitVec 5)
  overrun : List Nat
  deriving DecidableEq, Repr

/-- The access of a bundle in issue that waits at its memory controller, or at a CXL port, for its turn (21 R352,
02 R56): since when, the physical line, its number among the requests that have arrived, whether it still waits. -/
structure Hold where
  since : Nat
  line : Nat
  arr : Nat
  waits : Bool
  deriving DecidableEq, Repr

/-- A line that an engine has asked for: one that waits at its controller has a number among the requests that have
arrived (0 for one that has gone out), and keeps what it read when it went out (21 R352); `due` is the earliest time of its answer,
until which it is outstanding (02 R56). -/
structure Asked where
  line : Nat
  arr : Nat
  data : Option Line
  due : Nat
  deriving DecidableEq, Repr

/-- An extent in the layout of 19 R325, with the level of the leaf that it was formed from and the number of its
entry in the table (20 R345). -/
structure Extent where
  bits : BitVec 256
  level : Nat
  entry : Nat
  deriving DecidableEq, Repr

/-- What a walk for the bundle in issue, or for an engine, answered: the queue that asked (0 S, 1 M, 16 + n Cn), its page and
the range it was for, the cause (0 for success), the level that ended it, the extent it formed. -/
structure Walked where
  unit : Nat
  page : Nat
  no : Nat
  parm : Bool
  code : Bool
  cause : Nat
  level : Nat
  ext : Extent
  deriving DecidableEq, Repr

/-- Kinds of access that a walk serves (18 R315, 19 R321). -/
inductive AccKind | read | write | readWrite | fetch
  deriving DecidableEq, Repr

/-- A walk that an access of a queue (0 S, 1 M, 16 + n Cn) waits for (19 R326). -/
structure WalkReq where
  unit : Nat
  va : Nat
  kind : AccKind
  slot : Nat
  since : Nat
  posted : Bool
  deriving DecidableEq, Repr

/-- A dictionary store that has been performed, with the unit's old value and the words issued
since (06 R133). -/
structure DictPend where
  entry : Nat
  dword : Nat
  old : BitVec 64
  words : Nat
  deriving DecidableEq, Repr

/-- A line of the instruction buffer (14 R264, 15 R281): virtual and physical line number, bytes, and
whether user privilege may fetch it (19 R321). -/
structure CodeLine where
  vline : Nat
  pline : Nat
  data : Line
  user : Bool
  deriving DecidableEq, Repr

/-! ### Launches, blocks, kernels -/

/-- A loop-table entry (15 R278): kind 0 D, 1 C, 2 T. -/
structure LoopEnt where
  count : Nat
  kind : Nat
  gang : Bool
  pre : Bool
  rest : Nat
  deriving DecidableEq, Repr

/-- A launch range (18 R297). -/
structure Range where
  base : Nat
  len : Nat
  flags : BitVec 8
  resv : BitVec 8
  deriving DecidableEq, Repr

/-- A launch record (18 R297). -/
structure LRec where
  cmd : Nat
  nlev : Nat
  flags : BitVec 16
  tokens : Nat
  kobj : Nat
  param : Nat
  cseg : Nat
  tstore : Nat
  rest : Nat
  runest : Nat
  scratch : Nat
  tiles : Nat
  kbufs : Nat
  asid : Nat
  plen : Nat
  lt : List LoopEnt
  rng : List Range
  resv : Bool
  deriving DecidableEq, Repr

/-- A kernel record of the loaded image (15 R278), with the arrays it names. -/
structure Kernel where
  entry : Word
  scratch : Nat
  pbase : Nat
  pslots : Nat
  tiles : Nat
  kbufs : Nat
  dict : List Line
  tmpl : List Line
  gset : List Line
  handles : List Word
  rng : List (BitVec 8)
  lt : List LoopEnt
  deriving DecidableEq, Repr

/-- The block that a context holds (01 R13, 02 R33, 04 R97): its shares of the core's resources are
given by their first physical index. -/
structure Block where
  part : Nat
  queue : Nat
  key : Nat
  lid : BitVec 32
  b : Nat
  member : Nat
  gang : Nat
  gangCore : Nat
  parity : Nat
  wid : BitVec 12
  lrec : LRec
  kernel : Kernel
  scratchBase : Nat
  tileBase : Nat
  kbufBase : Nat
  dispatchT : Nat
  deriving DecidableEq, Repr

/-- What a context does (07 R158, 19 R332, R336). -/
inductive Status
  | free
  | running
  /-- After `exit`, while its engine queues drain. -/
  | exiting
  /-- Suspended by a fault that is not fatal. -/
  | suspended
  /-- Removal, at step 1 to 5 of 19 R336, since a time. -/
  | removing (step : Nat) (since : Nat)
  /-- Waiting for the image of a restore. -/
  | restoring
  deriving DecidableEq, Repr

/-- The pre-emption choice that a context carries: a checkpoint to its next boundary, a kill to its next yield point
(18 R307, R313). -/
inductive Preempt | none | drain | kill | checkpoint
  deriving DecidableEq, Repr

/-- A fault record (19 R334), and the partition whose queue it goes to. -/
structure FaultRec where
  part : Nat
  ptime : Nat
  code : Nat
  cls : Nat
  src : Nat
  chan : Nat
  lid : BitVec 32
  block : Nat
  wid : BitVec 12
  flags : BitVec 16
  tval : Word
  whr : Word
  wp : Word
  aux : Word
  deriving DecidableEq, Repr

/-! ### The bundle in issue -/

/-- A decoded slot. -/
structure SlotOp where
  slot : Nat
  word : SlotWord
  op : Instr
  deriving DecidableEq, Repr

/-- Why the bundle in issue goes no further. -/
inductive Stop
  | go
  /-- A fault has been taken, or the block has ended. -/
  | trapped
  /-- The slot waits and is tried again. -/
  | held
  deriving DecidableEq, Repr

/-- The bundle in issue, for its slots: address, address of the next bundle, its header, the slot
and its word, whether it holds a transfer, the privilege and TE that it issued with (07 R164, 08 R197). -/
structure Issue where
  pc : Word
  next : Word
  hdr : SlotWord
  db : Bool
  entry : BitVec 10
  slot : Nat
  word : SlotWord
  stop : Stop
  transfer : Bool
  after2 : Word
  rett : Bool
  user : Bool
  te : Bool
  deriving DecidableEq, Repr

/-- A bundle that has issued and goes on: its issue record and its slots as they were decoded when it issued, which no
later store to the dictionary or the code changes (06 R120, R132, R133; 15 R283). -/
structure InIssue where
  issue : Issue
  ops : List SlotOp
  deriving DecidableEq, Repr

/-! ### A context -/

/-- A line that a store was directed to: its queue (0 S, 1 M, 2 X, 16 + n Cn) and order, whether its page is UN, and what a
wait names it by: of M the tile, of Cn the channel's WP after it (04 R92, R93, R97). -/
structure Directed where
  line : Nat
  queue : Nat
  seq : Nat
  un : Bool
  mark : Nat
  deriving DecidableEq, Repr

/-- A context: what 02 R32 lists as owned per context, the system registers of 07 R164, the engine
state behind it, and the state of its issue. `directed` lists the lines that its stores were directed
to (04 R97). `extents` stand by last use,
the latest first (19 R326), as `ages` does for the probe slots (02 R52). `bnum` counts numbered bundles (08 R197);
`bpeak` is the highest number before a rollback; `numbered` says that the bundle at `pc` has its
number (log 16). `fresh` lists the physical lines that the context's own L-slot stores and atomics have changed behind
an L1 or RDC line, which therefore does not serve the context's loads (04 R84; log 41); until `l1busy` the L1 serves
none of them (10 R236). `hold` is an access that waits at its controller; `posted` says that the bundle at `pc` holds
the issue stage (01 R20); `inIssue` is that bundle once it has issued, at privilege `iuser` and TE `ite`, while slots of it
remain; `lat0` is the time up to which LATCNT has counted; `closed` that the region
has been closed for the bundle that waits at `pc` (10 R241). `engReqs` and `engAns` are walks that engines wait for
under host walking, and the host's refusals (18 R315); `overruns` gives each queue's last reported slot (21 R353);
`dropAt` the word where the last prefetch was dropped (07 R153); `asked` the lines that M (1) and Cn (16 + n) have asked
for: those of the CXL tier (02 R56), those that wait at their controllers (21 R352). `tileT`
gives the time at which each tile's busy bit last cleared (09 R208). `barHold` says that accesses after a barrier wait for what the gang's members
ordered before theirs, which are the stores of order below `barSeq` (04 R99). `barOpen` says that the gang has reached the barrier that the context waits at, `credN`
counts its collectives by group, `atBound` says that it stands at a pre-emptible iteration boundary (01 R28). `pret` names
the block (partition, record, number) that the context's extents have been formed for (19 R325), `sliceWait` the slice in which
no candidate fitted the free context (18 R305). -/
structure Ctx where
  regs : RegFile
  pc : Word
  slot : Nat
  resume : Saved
  reentered : Bool
  loops : List LoopLevel
  delay : Option Delay
  priv : Bool
  ppriv : Bool
  te : Bool
  pte : Bool
  dly : BitVec 2
  dtk : Bool
  slotres : BitVec 3
  tresume : Saved
  tcause : BitVec 10
  tval : Word
  tpcw : Word
  tvec : Word
  mval : Bool
  macc : BitVec 3
  mrow : BitVec 7
  tdtgt : Word
  upcw : Word
  fflags : BitVec 5
  fpend : List (Nat × BitVec 5)
  latcnt : Word
  pausecnt : Word
  specdrop : Word
  msdef : Word
  uhvec : Word
  ucause : BitVec 13
  uval : Word
  dict : Tbl Line
  dictPend : List DictPend
  tmpl : Tbl Line
  gset : Tbl Line
  handles : Tbl Line
  tags : Tbl Line
  ages : List Nat
  extents : List Extent
  tongs : Tongs
  bnum : Nat
  bpeak : Nat
  numbered : Bool
  stores : List Store
  directed : List Directed
  seq : Nat
  shadow : Shadow
  chans : Tbl (List Copy)
  wps : Tbl Word
  mq : List MOp
  mfreeze : Bool
  xq : List Cred
  kpend : List KPend
  joins : List Join
  fresh : List Nat
  l1busy : Nat
  hold : Option Hold
  posted : Bool
  inIssue : Option InIssue
  iuser : Bool
  ite : Bool
  lat0 : Nat
  closed : Bool
  engReqs : List WalkReq
  engAns : List Walked
  overruns : List (Nat × Nat)
  dropAt : Option Nat
  asked : Tbl (List Asked)
  tileT : Tbl Nat
  barHold : Bool
  barSeq : Nat
  ddsync : Bool
  bars : Nat
  barHere : Bool
  barOpen : Bool
  credN : Tbl Nat
  pauseEnd : Nat
  yieldT : Nat
  yieldLat : Word
  run : Nat
  watchdog : Bool
  stall : Option Stall
  walkReq : Option WalkReq
  walked : List Walked
  ready : List (RegId × Nat)
  issuedAt : Option Nat
  delivery : Option Delivery
  bps : Vector Word 8
  halt : Bool
  halted : Bool
  step : Bool
  sq : Bool
  reason : BitVec 2
  busyRead : Bool
  terr : Bool
  kaddr : Word
  rfilter : BitVec 4096
  wfilter : BitVec 4096
  startT : Option Nat
  fbuf : Option FaultRec
  ebuf : Tbl FaultRec
  ibuf : List CodeLine
  preempt : Preempt
  atBound : Bool
  pret : Option (Nat × Nat × Nat)
  sliceWait : Option Nat
  status : Status
  block : Option Block
  deriving DecidableEq, Repr

/-! ### Cores, dies -/

/-- A line of the scalar L1, by address space and virtual line, with the physical line that it was loaded from (02 R43). -/
structure L1Line where
  asid : Nat
  vline : Nat
  pline : Nat
  data : Line
  deriving DecidableEq, Repr

/-- A part of a core's SRAM where an uncorrectable error stands (24 R381): a scratchpad doubleword, a row of a tile, a
doubleword of a scale buffer (2,048: its band scales), a line of the L1. -/
inductive Sram
  | dword (n : Nat)
  | row (tile n : Nat)
  | scale (buf n : Nat)
  | line (asid vline : Nat)
  deriving DecidableEq, Repr

/-- A store to a scratchpad that a bank has served in a cycle: its line and bytes, its place in the bank order (1 M, 2 L, 3 S,
4 copy landings, 5 other cores), the context that made it (02 R40, 04 R97). -/
structure Served where
  line : Nat
  mask : BitVec 64
  order : Nat
  cx : Nat
  deriving DecidableEq, Repr

/-- State that the two contexts of a core share (02 R32). Row r of a tile is bits 4096r+4095:4096r
(09 R207). The L1 lists its lines by last use, the latest first. `landT` and
`landN` are the time and the number of the copy landings of the latest cycle that had one (10 R245), `servedT` and `served`
the time and the stores of the latest cycle that had one to the scratchpad (04 R97). `bad` lists what ECC cannot correct. -/
structure Core where
  scratch : List Host.Cell
  tiles : Vector (BitVec 262144) 8
  kbufs : Vector KBuf 4
  l1 : List L1Line
  slotA : Word
  slotB : Word
  newA : Word
  newB : Word
  newAt : Option Nat
  landT : Nat
  landN : Nat
  servedT : Nat
  served : List Served
  bad : List Sram
  deriving DecidableEq, Repr

/-- A line of a remote-data cache (02 R48). -/
structure RdcLine where
  part : Nat
  pline : Nat
  data : Line
  deriving DecidableEq, Repr

/-- A walk-cache entry (19 R324). -/
structure WalkEnt where
  part : Nat
  asid : Nat
  gen : BitVec 16
  level : Nat
  pfx : Nat
  entry : Word
  deriving DecidableEq, Repr

/-- A read under way at a home slice, with its merging window, which has been shut when it expired (02 R49). -/
structure Window where
  pline : Nat
  opened : Nat
  readers : Nat
  shut : Bool
  deriving DecidableEq, Repr

/-- A line of an L2 slice: the slice's number on its die, the physical line (02 R47). -/
structure L2Line where
  slice : Nat
  pline : Nat
  deriving DecidableEq, Repr

/-- A compute die: its RDC, the lines its home slices hold, its open merging windows, its walk
caches by last use. -/
structure Die where
  rdc : List RdcLine
  l2 : List L2Line
  windows : List Window
  walks : List WalkEnt
  deriving DecidableEq, Repr

/-- A CXL port (02 R56, 21 R385). -/
structure Port where
  up : Bool
  pages : Nat
  deriving DecidableEq, Repr

/-! ### Partitions -/

/-- A queue (18 R299), its aging state (18 R306), the identities drawn for records that have
entered it (18 R300), oldest first, and the key of the record last taken from it, if that was accepted (18 R301). -/
structure Queue where
  base : Word
  en : Bool
  own : Bool
  log2n : Nat
  rank : Nat
  tail : Nat
  head : Nat
  cbase : Word
  ctail : Nat
  chead : Nat
  entered : List (BitVec 32)
  prevKey : Option Nat
  waitT : Option Nat
  level : Nat
  deriving DecidableEq, Repr

/-- The state of a block of a launch (18 R301, R307; 16 R292). -/
inductive BState
  | pending
  | running (cx : Nat)
  | saved (slot : Nat) (t : Nat)
  | done
  | skipped
  | removed
  deriving DecidableEq, Repr

/-- An accepted record that has not posted its completion (18 R301, R302): the key of the record before it in its queue,
if that one was accepted, whether it is serial, whether
the device appended it, whether a block of it was removed, and the lines that blocks which have ended
directed stores to, for the release of its completion. -/
structure Launch where
  key : Nat
  prev : Option Nat
  lid : BitVec 32
  queue : Nat
  lrec : LRec
  ser : Bool
  dev : Bool
  relaunch : Bool
  decided : Bool
  stopped : Bool
  lines : List Nat
  blocks : List BState
  deriving DecidableEq, Repr

/-- What the device keeps of a launch that holds a trace (16 R289, R290, R292). -/
structure Trace where
  lid : BitVec 32
  lrec : LRec
  nblk : Nat
  broken : Bool
  nrun : Nat
  deriving DecidableEq, Repr

/-- An address-space entry as last read by the translators (19 R317, R327): by the latest ASTSYNC (`key` none), or for the
launch of a key. -/
structure Asid where
  asid : Nat
  key : Option Nat
  root : Nat
  gen : BitVec 16
  valid : Bool
  deriving DecidableEq, Repr

/-- What the device keeps of a context whose image it has written to the pool (19 R338), beside the image's bytes: what no
section has a place for (log 12). -/
structure Image where
  ctx : Ctx
  ptime : Nat
  deriving DecidableEq, Repr

/-- A command register pair with its busy and error bits. -/
structure Cmd where
  busy : Bool
  err : Bool
  arg : Word
  deriving DecidableEq, Repr

/-- A receive window (23 R368). -/
structure RxWin where
  base : Nat
  w : Bool
  r : Bool
  pages : Nat
  deriving DecidableEq, Repr

/-- A link transfer under way (23 R367, R369): its number, by which answers name it, index and fields of its descriptor,
lines sent or asked for, lines performed, its status once that is fixed. -/
structure Transfer where
  no : Nat
  index : Nat
  op : Nat
  dev : Nat
  loc : Nat
  rem : Nat
  lines : Nat
  sent : Nat
  done : Nat
  status : Option Nat
  deriving DecidableEq, Repr

/-- A virtual function (18 R308, R311). `svcWant` is the mode that a waiting service request asks for (18 R309). -/
structure Part where
  cl : BitVec 32
  sl : Vector Word 4
  pcg : Word
  noc : Word
  mode : Nat
  ageUs : Nat
  kill : Nat
  drain : Nat
  grp : Word
  fqBase : Word
  fqLost : Nat
  fqHead : Nat
  fqTail : Nat
  fqWait : List FaultRec
  nextq : Nat
  astBase : Word
  nas : Nat
  astBusy : Option Nat
  asids : List Asid
  ctxcmd : Cmd
  ctxarg : Word
  ckBase : Word
  ckCount : Nat
  images : Tbl Image
  extcmd : Cmd
  extdata : Vector Word 4
  queues : Tbl Queue
  lidNext : BitVec 32
  keyNext : Nat
  launches : List Launch
  traces : List Trace
  xferq : Queue
  xfer : Option Transfer
  rx : Tbl RxWin
  vectors : List Nat
  svcMode : Nat
  svcWant : Nat
  svcErr : Bool
  svcReq : Bool
  wantRecovery : Bool
  deriving DecidableEq, Repr

/-! ### The package -/

/-- The calendar in force (21 R347). -/
structure Cal where
  bgper : Nat
  bglen : Nat
  bgstep : Nat
  bgph : Nat
  hot : Bool
  mjlog : Nat
  mjlen : Nat
  swlog : Nat
  swlen : Nat
  ablen : Nat
  defmax : Nat
  lead : Nat
  deriving DecidableEq, Repr

/-- Deferrals of a pseudo-channel (21 R354, R355): used counts of the eight groups, deferred slots
by group and nominal opening time, the forced refresh's opening time. -/
structure PchCal where
  used : Vector Nat 8
  deferred : List (Nat × Nat)
  forced : Option Nat
  deriving DecidableEq, Repr

/-- Shadow entries of a partition (18 R311). -/
structure PartShadow where
  cl : BitVec 32
  sl : Vector Word 4
  pcg : Word
  noc : Word
  deriving DecidableEq, Repr

/-- A fabric link (23 R363 to R366, R372): last SEQ sent and received in order, whether the next flit sent
carries NAK, flits not yet acknowledged, flits received and not drained by lane, the ON bits sent and
last received, the run of NAKs of one SEQ, retries, the major slots opened since a heartbeat was heard, whether a loss
has been reported, whether the partner carries its traffic, the partitions whose traffic it has carried, whether the
next flit owes the neighbour an answer, the flits that wait for a slot to end (23 R371). -/
structure Link where
  up : Bool
  txSeq : BitVec 12
  rxSeq : BitVec 12
  nak : Bool
  replay : List (BitVec 2048)
  skid : Vector (List (BitVec 2048)) 4
  onSent : BitVec 4
  onSeen : BitVec 4
  nakRun : Nat
  nakSeq : BitVec 12
  retries : Nat
  missed : Nat
  lost : Bool
  failover : Bool
  carried : List Nat
  owed : Bool
  waits : List (BitVec 2048)
  deriving DecidableEq, Repr

/-- Lines that a transfer has asked a peer for, and that have had no answer: the device, the first line's address there,
the partition and the number of its transfer (23 R369). -/
structure PeerRead where
  dev : Nat
  addr : Nat
  lines : Nat
  part : Nat
  no : Nat
  deriving DecidableEq, Repr

/-- A failure record of bring-up (24 R378). -/
structure FailRec where
  ptime : Nat
  fail : Nat
  unit : Nat
  detail : Nat
  deriving DecidableEq, Repr

/-- The states of DEVST (24 R375); `off` without power, `start` with every field at its reset value
of 0. -/
inductive DevState | off | start | booting | selfTest | ready | safe
  deriving DecidableEq, Repr

/-- Registers of the physical function and what the package controller holds. `retireReq` lists the pseudo-channels whose
retirement waits (21 R358), `peerReads` what transfers have asked peers for; `scrubbed` gives, for lines that cannot be
corrected, the latest pass of patrol scrub that met them (24 R382). -/
structure Package where
  dev : DevState
  stage : Nat
  fail : Nat
  rxPart : Tbl PartShadow
  resize : Bool
  resizeErr : Bool
  duty : BitVec 6
  dutyNew : Option (BitVec 6)
  wtroot : Vector Word 5
  dwsel : Word
  dwread : Word
  cal : Cal
  calNext : Option Cal
  mscalh0 : Word
  mscalh1 : Word
  mscalhErr : Bool
  link : Cmd
  rep : Cmd
  retirePch : Nat
  retireReq : List Nat
  retireErr : Bool
  retired : List Nat
  modesNext : List (Nat × Nat)
  pch : Tbl PchCal
  temps : Vector Nat 8
  majorT : Option Nat
  endT : Option Nat
  rowLines : List (Nat × Nat)
  candidates : List Nat
  repaired : List Nat
  corrected : Vector Nat 8
  uncorrected : Vector Nat 8
  sramFixed : Nat
  poisoned : List Nat
  scrubbed : List (Nat × Nat)
  ports : Vector Port 4
  links : Vector Link 12
  peerReads : List PeerRead
  devNum : Nat
  torus : Nat × Nat × Nat
  offsets : List Int
  offsetFlag : Bool
  meanPower : Nat
  hold : Bool
  telem : List Nat
  pcr : Vector (BitVec 512) 8
  svn : BitVec 16
  svnMin : BitVec 16
  numVFs : Nat
  mbOp : Option (CmdPath × Nat)
  mbOpcode : BitVec 16
  mbSts : Nat
  buffer : BitVec 32768
  failures : List FailRec
  pfVectors : List Nat
  kernels : Tbl Kernel
  deriving DecidableEq, Repr

/-! ### The state -/

/-- A soft error as it arises (24 R381, R382; log 4): uncorrectable in a line of memory, or in a line of the L2 that holds
stores; in a core's SRAM; in a context's control state; one in a line of memory that is corrected; one in SRAM that is
corrected or stood in a clean line of L2 or RDC, which is read again from its home. -/
inductive Upset
  | memory (line : Nat)
  | sram (core : Nat) (x : Sram)
  | control (cx : Nat)
  | corrected (line : Nat)
  | fixed
  deriving DecidableEq, Repr

/-- An agent's move in the agenda (log 5). -/
inductive Turn
  | issue
  | event (i : Instr)
  | upset (u : Upset)
  /-- The arbiter: turns that may place blocks. -/
  | place
  /-- The issue stages choose the contexts that issue in this cycle. -/
  | pick
  /-- The chosen contexts have issued. -/
  | done
  | tick
  deriving DecidableEq, Repr

/-- A request from outside the cores that waits at the controller of a line (21 R352): a store, a request of a peer, lines that
a peer's answer brings to a transfer over a link, the source lines of a partition's transfer. -/
inductive Outside
  | store (o : StoreOrigin)
  | peer (r : PeerReq)
  | answer (link pa n : Nat)
  | source (part pa n : Nat)
  deriving DecidableEq, Repr

/-- The device. `cur` is the context whose bundle is in issue, `core × 2 + context`. `agenda` and
`issueQ` say which agent moves next; `late` holds the requests from outside the cores that wait at a controller, each with its
number among the requests that have arrived (21 R352, R356); `free` counts free values; `noRoom` says that a unit would post a record while its buffer is full
(log entries 5 and 6). -/
structure State where
  ptime : Nat
  cur : Nat
  issue : Issue
  ctxs : Tbl Ctx
  cores : Tbl Core
  dies : Tbl Die
  mem : List Host.Cell
  tags : Tbl (BitVec 13)
  parts : Tbl Part
  colls : List Coll
  pkg : Package
  agenda : List Turn
  issueQ : List Nat
  late : List (Nat × Outside)
  free : Nat
  noRoom : Bool
  deriving DecidableEq, Repr

/-! ### Reset -/

/-- Registers at reset: no value given (log 2), and zero at block entry (01 R13). -/
def RegFile.zero : RegFile :=
  { s := Vector.replicate 32 0, p := Vector.replicate 8 false, v := Vector.replicate 32 0,
    q := Vector.replicate 8 0 }

/-- Nothing saved. -/
def Saved.none : Saved := { s := [], p := [], v := [], q := [], skip := Option.none, exiting := false, marked := false, sync := false }

/-- The tongs at block entry (08 R196). -/
def Tongs.zero : Tongs := { rows := 0, width := .w32, push := 0, pop := 0, hist := [] }

/-- The shadow of the entry state. -/
def Shadow.zero : Shadow :=
  { regs := .zero, loops := [], fflags := 0, fpend := [], sflags := [], tongs := .zero, delay := none, bnum := 0,
    numbered := false, pc := 0, slot := 0, resume := .none }

/-- A context at device reset; the system registers as 07 R164 gives them, the others log 2. -/
def Ctx.reset : Ctx :=
  { regs := .zero, pc := 0, slot := 0, resume := .none, reentered := false, loops := [], delay := none,
    priv := false, ppriv := false, te := true, pte := false, dly := 0, dtk := false, slotres := 0,
    tresume := .none, tcause := 0, tval := 0, tpcw := 0, tvec := Config.monitorEntry,
    mval := false, macc := 0, mrow := 0, tdtgt := 0, upcw := 0, fflags := 0, fpend := [], latcnt := 0,
    pausecnt := 0, specdrop := 0, msdef := 0, uhvec := 0, ucause := 0, uval := 0,
    dict := [], dictPend := [], tmpl := [], gset := [], handles := [], tags := [], ages := [], extents := [],
    tongs := .zero, bnum := 0, bpeak := 0, numbered := false, stores := [], directed := [], seq := 0, shadow := .zero, chans := [], wps := [], mq := [], mfreeze := false,
    xq := [], kpend := [], joins := [], fresh := [], l1busy := 0, hold := none, posted := false, inIssue := none, iuser := true, ite := true, lat0 := 0, closed := false,
    engReqs := [], engAns := [], overruns := [], dropAt := none, asked := [], tileT := [], barHold := false, barSeq := 0, ddsync := false, bars := 0, barHere := false, barOpen := false, credN := [], pauseEnd := 0,
    yieldT := 0, yieldLat := 0, run := 0, watchdog := false, stall := none, walkReq := none, walked := [],
    ready := [], issuedAt := none, delivery := none, bps := Vector.replicate 8 0, halt := false, halted := false, step := false,
    sq := false, reason := 0, busyRead := false, terr := false, kaddr := 0, rfilter := 0, wfilter := 0,
    startT := none, fbuf := none, ebuf := [], ibuf := [], preempt := .none, atBound := false, pret := none, sliceWait := none, status := .free, block := none }

/-- A scale buffer of zeros (09 R217). -/
def KBuf.zero : KBuf := { bytes := 0, bnd0 := 0, bnd1 := 0 }

/-- A core at reset: slot tables as 18 R303 gives them; tiles log 2. -/
def Core.reset : Core :=
  { scratch := [], tiles := Vector.replicate 8 0, kbufs := Vector.replicate 4 .zero, l1 := [],
    slotA := 0xAAAAAAAAAAAAAAAA, slotB := 0xAAAAAAAAAAAAAAAA, newA := 0xAAAAAAAAAAAAAAAA,
    newB := 0xAAAAAAAAAAAAAAAA, newAt := none, landT := 0, landN := 0, servedT := 0, served := [], bad := [] }

/-- A die with empty caches. -/
def Die.reset : Die := { rdc := [], l2 := [], windows := [], walks := [] }

/-- A port before training. -/
def Port.reset : Port := { up := false, pages := 0 }

/-- A queue at reset (18 R299). -/
def Queue.reset : Queue :=
  { base := 0, en := false, own := false, log2n := 4, rank := 0, tail := 0, head := 0, cbase := 0, ctail := 0,
    chead := 0, entered := [], prevKey := none, waitT := none, level := 0 }

def Cmd.reset : Cmd := { busy := false, err := false, arg := 0 }

/-- A partition at reset (18 R308, R311; 19 R317, R335, R337; 23 R368). -/
def Part.reset : Part :=
  { cl := 0, sl := Vector.replicate 4 0, pcg := 0, noc := 0, mode := 1, ageUs := 1000, kill := 0xFFFFFFFF,
    drain := 65536, grp := 0, fqBase := 0, fqLost := 0, fqHead := 0, fqTail := 0, fqWait := [], nextq := 0,
    astBase := 0, nas := 0, astBusy := none, asids := [], ctxcmd := .reset, ctxarg := 0, ckBase := 0,
    ckCount := 0, images := [], extcmd := .reset, extdata := Vector.replicate 4 0, queues := [], lidNext := 1,
    keyNext := 0, launches := [], traces := [], xferq := .reset, xfer := none, rx := [], vectors := [],
    svcMode := 0, svcWant := 0, svcErr := false, svcReq := false, wantRecovery := false }

/-- The calendar at reset (21 R347). -/
def Cal.reset : Cal :=
  { bgper := 2340, bglen := 144, bgstep := 288, bgph := 12, hot := false, mjlog := 20, mjlen := 1536, swlog := 16,
    swlen := 64, ablen := 420, defmax := 8, lead := 48 }

/-- A pseudo-channel with its whole allowance (21 R355). -/
def PchCal.reset : PchCal := { used := Vector.replicate 8 0, deferred := [], forced := none }

def PartShadow.reset : PartShadow := { cl := 0, sl := Vector.replicate 4 0, pcg := 0, noc := 0 }

/-- A link before training. -/
def Link.reset : Link :=
  { up := false, txSeq := 0xFFF, rxSeq := 0xFFF, nak := false, replay := [], skid := Vector.replicate 4 [], onSent := 0xF,
    onSeen := 0xF, nakRun := 0, nakSeq := 0, retries := 0, missed := 0, lost := false, failover := false, carried := [],
    owed := false, waits := [] }

/-- MSCAL0 of a calendar (21 R347). -/
def Cal.word0 (c : Cal) : Word :=
  BitVec.ofNat 64 (c.bgper * 2 ^ 40 + c.bglen * 2 ^ 28 + c.bgstep * 2 ^ 16 + c.bgph * 2 ^ 8 + bit c.hot)

/-- MSCAL1 of a calendar (21 R347). -/
def Cal.word1 (c : Cal) : Word :=
  BitVec.ofNat 64 (c.mjlog * 2 ^ 48 + c.mjlen * 2 ^ 37 + c.swlog * 2 ^ 32 + c.swlen * 2 ^ 25 + c.ablen * 2 ^ 16
    + c.defmax * 2 ^ 12 + c.lead * 2 ^ 4)

/-- The package right after reset: bring-up has not begun its first stage (24 R374, R375). -/
def Package.reset : Package :=
  { dev := .start, stage := 0, fail := 0, rxPart := [], resize := false, resizeErr := false, duty := 0,
    dutyNew := none, wtroot := Vector.replicate 5 0, dwsel := 0, dwread := 0, cal := .reset, calNext := none,
    mscalh0 := Cal.reset.word0, mscalh1 := Cal.reset.word1, mscalhErr := false, link := .reset,
    rep := .reset, retirePch := 0, retireReq := [], retireErr := false, retired := [], modesNext := [], pch := [],
    temps := Vector.replicate 8 0, majorT := none, endT := none, rowLines := [], candidates := [], repaired := [], corrected := Vector.replicate 8 0,
    uncorrected := Vector.replicate 8 0, sramFixed := 0, poisoned := [], scrubbed := [], ports := Vector.replicate 4 .reset,
    links := Vector.replicate 12 .reset, peerReads := [], devNum := 0, torus := (1, 1, 1), offsets := [], offsetFlag := false,
    meanPower := 0, hold := false, telem := [], pcr := Vector.replicate 8 0, svn := 0, svnMin := 0, numVFs := 0, mbOp := none, mbOpcode := 0,
    mbSts := 0, buffer := 0, failures := [], pfVectors := [], kernels := [] }

/-- No bundle in issue. -/
def Issue.idle : Issue :=
  { pc := 0, next := 0, hdr := 0, db := false, entry := 0, slot := 0, word := 0, stop := .go,
    transfer := false, after2 := 0, rett := false, user := true, te := true }

/-- The device right after reset. Memory lists nothing; every line is sealed with tag 0 (04 R97). -/
def State.reset : State :=
  { ptime := 0, cur := 0, issue := .idle, ctxs := [], cores := [], dies := [], mem := [], tags := [], parts := [], colls := [],
    pkg := .reset, agenda := [], issueQ := [], late := [], free := 0, noRoom := false }

end Sys2Proof.Machine
end

