-- ==== Sys2Proof/Machine/Mem.lean ====
section
/-! DEFINITION. Bit fields, bytes, memory in canonical form, and access to the parts of the state. -/

namespace Sys2Proof.Machine

/-! ### Bit fields and bytes -/

/-- Bits `lo` to `lo + len - 1` of `x` as a number. -/
def getF {n : Nat} (x : BitVec n) (lo len : Nat) : Nat := (x.extractLsb' lo len).toNat

/-- `x` with bits `lo` to `lo + len - 1` replaced by `v`. -/
def setF {n : Nat} (x : BitVec n) (lo len v : Nat) : BitVec n :=
  (x &&& ~~~(BitVec.ofNat n (2 ^ len - 1) <<< lo)) ||| (BitVec.ofNat n (v % 2 ^ len) <<< lo)

/-- Bit `i` of `x`. -/
def getB {n : Nat} (x : BitVec n) (i : Nat) : Bool := x.getLsbD i

/-- Little-endian bytes to a number (00 R4). -/
def bytesNat : List Byte → Nat
  | [] => 0
  | b :: bs => b.toNat + 256 * bytesNat bs

/-- A number as `n` little-endian bytes. -/
def natBytes : Nat → Nat → List Byte
  | 0, _ => []
  | n + 1, x => BitVec.ofNat 8 x :: natBytes n (x / 256)

/-- Sign extension of the low `n` bits of `x` to 64 bits. -/
def sext (x n : Nat) : Word :=
  let y := x % 2 ^ n
  if 2 ^ (n - 1) ≤ y then BitVec.ofNat 64 (2 ^ 64 - 2 ^ n + y) else BitVec.ofNat 64 y

/-- The low `n` bits of `x` as a signed number. -/
def toInt (x n : Nat) : Int :=
  let y := x % 2 ^ n
  if 2 ^ (n - 1) ≤ y then (y : Int) - 2 ^ n else y

/-! ### Memory -/

/-- The canonical form: addresses strictly rising, no byte equal to 0, which an unlisted address
reads as (log 1). -/
def Memory.wf : List Host.Cell → Bool
  | [] => true
  | [(_, b)] => b != 0
  | (a, b) :: (a', b') :: m => b != 0 && decide (a < a') && Memory.wf ((a', b') :: m)

/-- The byte at an address; 0 where nothing is listed (log 1). -/
def memByte : List Host.Cell → Nat → Byte
  | [], _ => 0
  | (a, b) :: m, k => if a = k then b else memByte m k

/-- Writes a byte, keeping the canonical form. -/
def memSet : List Host.Cell → Nat → Byte → List Host.Cell
  | [], k, v => if v = 0 then [] else [(k, v)]
  | (a, b) :: m, k, v =>
    if k < a then (if v = 0 then (a, b) :: m else (k, v) :: (a, b) :: m)
    else if k = a then (if v = 0 then m else (k, v) :: m)
    else (a, b) :: memSet m k v

/-- Writes bytes at rising addresses. -/
def memWrite : List Host.Cell → Nat → List Byte → List Host.Cell
  | m, _, [] => m
  | m, a, b :: bs => memWrite (memSet m a b) (a + 1) bs

/-- Reads `n` bytes. -/
def memRead (m : List Host.Cell) (a : Nat) : Nat → List Byte
  | 0 => []
  | n + 1 => memByte m a :: memRead m (a + 1) n

/-- Reads an `n`-byte little-endian number. -/
def memNat (m : List Host.Cell) (a n : Nat) : Nat := bytesNat (memRead m a n)

/-- Reads a 64-byte line by its line number. -/
def memLine (m : List Host.Cell) (l : Nat) : Line := BitVec.ofNat 512 (memNat m (64 * l) 64)

/-- Writes the bytes of a line that a mask selects, from byte `i` on. -/
def memMask : List Host.Cell → Nat → Line → BitVec 64 → Nat → List Host.Cell
  | m, _, _, _, 0 => m
  | m, l, d, k, n + 1 =>
    let i := 63 - n
    memMask (if getB k i then memSet m (64 * l + i) (d.extractLsb' (8 * i) 8) else m) l d k n

/-- Writes the masked bytes of a line. -/
def memWriteLine (m : List Host.Cell) (l : Nat) (d : Line) (k : BitVec 64) : List Host.Cell := memMask m l d k 64

/-- `old` with the masked bytes of `new`, from byte `i` on. -/
def mergeFrom (old new : Line) (k : BitVec 64) : Nat → Line
  | 0 => old
  | n + 1 =>
    let i := 63 - n
    mergeFrom (if getB k i then setF old (8 * i) 8 (getF new (8 * i) 8) else old) new k n

/-- `old` with the masked bytes of `new`. -/
def mergeLine (old new : Line) (k : BitVec 64) : Line := mergeFrom old new k 64

/-! ### Parts of the state -/

/-- Context `i`, numbered core × 2 + context. -/
def State.ctxAt (s : State) (i : Nat) : Ctx := tget Ctx.reset s.ctxs i
/-- Replaces context `i`. -/
def State.setCtxAt (s : State) (i : Nat) (c : Ctx) : State := { s with ctxs := tset s.ctxs i c }
/-- Updates context `i`. -/
def State.modCtxAt (s : State) (i : Nat) (f : Ctx → Ctx) : State := s.setCtxAt i (f (s.ctxAt i))
/-- The context whose bundle is in issue. -/
def State.ctx (s : State) : Ctx := s.ctxAt s.cur
/-- Updates the context whose bundle is in issue. -/
def State.modCtx (s : State) (f : Ctx → Ctx) : State := s.modCtxAt s.cur f

/-- Core `c`, by its global number (19 R340). -/
def State.coreAt (s : State) (c : Nat) : Core := tget Core.reset s.cores c
def State.modCoreAt (s : State) (c : Nat) (f : Core → Core) : State :=
  { s with cores := tset s.cores c (f (s.coreAt c)) }

/-- Compute die `d`. -/
def State.dieAt (s : State) (d : Nat) : Die := tget Die.reset s.dies d
def State.modDieAt (s : State) (d : Nat) (f : Die → Die) : State :=
  { s with dies := tset s.dies d (f (s.dieAt d)) }

/-- Partition `p`. -/
def State.partAt (s : State) (p : Nat) : Part := tget Part.reset s.parts p
def State.modPartAt (s : State) (p : Nat) (f : Part → Part) : State :=
  { s with parts := tset s.parts p (f (s.partAt p)) }

/-- Whether partition `p` is there, of the 16 virtual functions (00 R1), and in service (24 R374, R376). -/
def State.serves (s : State) (p : Nat) : Bool := s.pkg.dev == .ready && decide (p < 16)
/-- Whether memory carries traffic: not without power and not in the safe state (24 R376). -/
def State.powered (s : State) : Bool := s.pkg.dev != .off && s.pkg.dev != .safe

def State.modPkg (s : State) (f : Package → Package) : State := { s with pkg := f s.pkg }
def State.modIssue (s : State) (f : Issue → Issue) : State := { s with issue := f s.issue }

/-- Queue `q` of a partition. -/
def Part.queueAt (p : Part) (q : Nat) : Queue := tget Queue.reset p.queues q
def Part.modQueueAt (p : Part) (q : Nat) (f : Queue → Queue) : Part :=
  { p with queues := tset p.queues q (f (p.queueAt q)) }

/-- The core of a context number. -/
def coreOf (i : Nat) : Nat := i / 2
/-- The die of a context number: 384 cores to a die (00 R1). -/
def dieOf (i : Nat) : Nat := i / 2 / 384
/-- The other context of the same core. -/
def partner (i : Nat) : Nat := if i % 2 = 0 then i + 1 else i - 1

/-- Whether the context is being removed, so that its engines take no further operation (19 R336). -/
def Ctx.leaving (c : Ctx) : Bool := match c.status with | .removing _ _ => true | _ => false

/-- The partition of a context's block; 0 without a block. -/
def Ctx.part (c : Ctx) : Nat := match c.block with | some b => b.part | none => 0
/-- The address space of a context's block. -/
def Ctx.asid (c : Ctx) : Nat := match c.block with | some b => b.lrec.asid | none => 0
/-- The key of the launch of a context's block. -/
def Ctx.lkey (c : Ctx) : Nat := match c.block with | some b => b.key | none => 0
/-- The writer identity of a context's block (04 R97). -/
def Ctx.wid (c : Ctx) : BitVec 12 := match c.block with | some b => b.wid | none => 0

/-- Sets an entry of a vector by number; a number beyond the vector changes nothing. -/
def vset {α : Type} {n : Nat} (v : Vector α n) (i : Nat) (a : α) : Vector α n :=
  if h : i < n then v.set i a h else v

/-- An entry of a vector by number; `d` beyond the vector. -/
def vget {α : Type} {n : Nat} (d : α) (v : Vector α n) (i : Nat) : α :=
  if h : i < n then v[i] else d

/-- The first `n` numbers from `a`. -/
def range (a : Nat) : Nat → List Nat
  | 0 => []
  | n + 1 => a :: range (a + 1) n

/-- Without the element at a position. -/
def dropAt {α : Type} : List α → Nat → List α
  | [], _ => []
  | _ :: t, 0 => t
  | a :: t, n + 1 => a :: dropAt t n

/-- With the element at a position replaced. -/
def setAt {α : Type} : List α → Nat → α → List α
  | [], _, _ => []
  | _ :: t, 0, b => b :: t
  | a :: t, n + 1, b => a :: setAt t n b

/-- The element at a position. -/
def nth {α : Type} : List α → Nat → Option α
  | [], _ => none
  | a :: _, 0 => some a
  | _ :: t, n + 1 => nth t n

/-! ### Errors in a scratchpad (24 R381) -/

/-- Whether an uncorrectable error stands in the bytes from `off` on (24 R381). -/
def Core.badBytes (k : Core) (off n : Nat) : Bool :=
  k.bad.any (fun b => match b with | .dword w => decide (off < 8 * w + 8 ∧ 8 * w < off + n) | _ => false)

/-- Whether one stands in the bytes of line `l` that `m` names. -/
def Core.badLine (k : Core) (l : Nat) (m : BitVec 64) : Bool :=
  k.bad.any (fun b => match b with | .dword w => w / 8 == l && m.extractLsb' (8 * (w % 8)) 8 != 0 | _ => false)

/-- The errors that `p` keeps. -/
def Core.keepErrors (k : Core) (p : Sram → Bool) : Core := { k with bad := k.bad.filter p }

/-- A write of `n` bytes ends the errors of the doublewords that it covers. -/
def Core.mend (k : Core) (off n : Nat) : Core :=
  { k with bad := k.bad.filter (fun b => match b with | .dword w => !decide (off ≤ 8 * w ∧ 8 * w + 8 ≤ off + n) | _ => true) }
def Core.mendLine (k : Core) (l : Nat) (m : BitVec 64) : Core :=
  { k with bad := k.bad.filter (fun b => match b with
      | .dword w => !(w / 8 == l && m.extractLsb' (8 * (w % 8)) 8 == BitVec.allOnes 8)
      | _ => true) }

/-- The bytes of a line that stores of this cycle which the bank serves after one of context `cx` in place `order` have
written: racing stores are applied in the bank order (02 R40, 04 R97). A context's own accesses through L and S are in
program order (02 R41). -/
def Core.later (k : Core) (now cx order l : Nat) : BitVec 64 :=
  if k.servedT = now then
    k.served.foldl (fun x e =>
      if e.line = l ∧ order < e.order ∧ !(e.cx == cx && order == 2 && e.order == 3) then x ||| e.mask else x) 0
  else 0

/-- A bank serves a store to bytes of a line of a scratchpad. -/
def Core.serve (k : Core) (now cx order l : Nat) (d : Line) (m : BitVec 64) : Core :=
  let old := if k.servedT = now then k.served else []
  ({ k with scratch := memWriteLine k.scratch l d (m &&& ~~~k.later now cx order l),
            servedT := now, served := { line := l, mask := m, order := order, cx := cx } :: old } : Core).mendLine l m

/-- Writes bytes of a scratchpad. -/
def Core.putBytes (k : Core) (off : Nat) (bs : List Byte) : Core :=
  ({ k with scratch := memWrite k.scratch off bs } : Core).mend off bs.length

end Sys2Proof.Machine
end

