-- ==== Sys2Proof/Machine/Homes.lean ====
section
/-! DEFINITION. Registers of a context, sticky flags, handle descriptors, the physical map, traced granules, write times,
writer tags, home slices, the bank order of a scratchpad, the device's own writes (02 R40, R45, R47; 03 R78 to R81; 04 R97;
06 R122; 10 R249; 16 R284 to R288). -/

namespace Sys2Proof.Machine

/-! ### Registers (06 R122, 07 R139) -/

def RegFile.getS (r : RegFile) (n : SReg) : Word := r.s[n.toNat]'n.isLt
def RegFile.getP (r : RegFile) (n : PReg) : Bool := r.p[n.toNat]'n.isLt
def RegFile.getV (r : RegFile) (n : VReg) : VWord := r.v[n.toNat]'n.isLt
def RegFile.getQ (r : RegFile) (n : QReg) : QMask := r.q[n.toNat]'n.isLt
def RegFile.setS (r : RegFile) (n : SReg) (x : Word) : RegFile := { r with s := r.s.set n.toNat x n.isLt }
def RegFile.setP (r : RegFile) (n : PReg) (x : Bool) : RegFile := { r with p := r.p.set n.toNat x n.isLt }
def RegFile.setV (r : RegFile) (n : VReg) (x : VWord) : RegFile := { r with v := r.v.set n.toNat x n.isLt }
def RegFile.setQ (r : RegFile) (n : QReg) (x : QMask) : RegFile := { r with q := r.q.set n.toNat x n.isLt }

/-- The value saved for a register number, if any. -/
def savedOf {n : Nat} {α : Type} : List (BitVec n × α) → BitVec n → Option α
  | [], _ => none
  | (k, a) :: t, r => if k = r then some a else savedOf t r

/-- Keeps the first value saved for a register number. -/
def saveFirst {n : Nat} {α : Type} (l : List (BitVec n × α)) (r : BitVec n) (a : α) : List (BitVec n × α) :=
  match savedOf l r with
  | some _ => l
  | none => (r, a) :: l

/-- S[n] as it stood before the bundle; s0 reads 0 (02 R32, 06 R122, 07 R163). -/
def Ctx.readS (c : Ctx) (n : SReg) : Word :=
  if n = 0 then 0 else match savedOf c.resume.s n with | some x => x | none => c.regs.getS n
/-- P[n] as it stood before the bundle; p0 reads true. -/
def Ctx.readP (c : Ctx) (n : PReg) : Bool :=
  if n = 0 then true else match savedOf c.resume.p n with | some x => x | none => c.regs.getP n
/-- V[n] as it stood before the bundle. -/
def Ctx.readV (c : Ctx) (n : VReg) : VWord :=
  match savedOf c.resume.v n with | some x => x | none => c.regs.getV n
/-- Q[n] as it stood before the bundle; q0 reads all ones. -/
def Ctx.readQ (c : Ctx) (n : QReg) : QMask :=
  if n = 0 then BitVec.allOnes 128 else match savedOf c.resume.q n with | some x => x | none => c.regs.getQ n

/-- The time at which a register's last result becomes readable (01 R20); 0 when it is readable. -/
def Ctx.readyAt (c : Ctx) (r : RegId) : Nat :=
  match c.ready.find? (fun e => e.1 == r) with | some e => e.2 | none => 0

/-- Records when a result becomes readable. -/
def Ctx.noteReady (c : Ctx) (r : RegId) (t : Nat) : Ctx :=
  { c with ready := (r, t) :: c.ready.filter (fun e => e.1 != r) }

/-- Writes S[n], readable from time `t`; a write to s0 is discarded (07 R139). -/
def Ctx.writeS (c : Ctx) (t : Nat) (n : SReg) (x : Word) : Ctx :=
  if n = 0 then c
  else ({ c with regs := c.regs.setS n x,
                 resume := { c.resume with s := saveFirst c.resume.s n (c.regs.getS n) } } : Ctx).noteReady (.s n) t
/-- Writes P[n]; a write to p0 is discarded. -/
def Ctx.writeP (c : Ctx) (t : Nat) (n : PReg) (x : Bool) : Ctx :=
  if n = 0 then c
  else ({ c with regs := c.regs.setP n x,
                 resume := { c.resume with p := saveFirst c.resume.p n (c.regs.getP n) } } : Ctx).noteReady (.p n) t
/-- Writes V[n]. -/
def Ctx.writeV (c : Ctx) (t : Nat) (n : VReg) (x : VWord) : Ctx :=
  ({ c with regs := c.regs.setV n x,
            resume := { c.resume with v := saveFirst c.resume.v n (c.regs.getV n) } } : Ctx).noteReady (.v n) t
/-- Writes Q[n]; q0 is never a destination of a decoded word (07 R139). -/
def Ctx.writeQ (c : Ctx) (t : Nat) (n : QReg) (x : QMask) : Ctx :=
  if n = 0 then c
  else ({ c with regs := c.regs.setQ n x,
                 resume := { c.resume with q := saveFirst c.resume.q n (c.regs.getQ n) } } : Ctx).noteReady (.q n) t

/-- Whether a context runs at user privilege. -/
def Ctx.user (c : Ctx) : Bool := !c.priv

/-- Register reads of the context in issue. -/
def State.rS (s : State) (n : SReg) : Word := s.ctx.readS n
def State.rP (s : State) (n : PReg) : Bool := s.ctx.readP n
def State.rV (s : State) (n : VReg) : VWord := s.ctx.readV n
def State.rQ (s : State) (n : QReg) : QMask := s.ctx.readQ n

/-- Register writes of the context in issue, readable after `lat` cycles (07 R141, 08 R176). -/
def State.wS (s : State) (lat : Nat) (n : SReg) (x : Word) : State := s.modCtx (·.writeS (s.ptime + lat) n x)
def State.wP (s : State) (lat : Nat) (n : PReg) (x : Bool) : State := s.modCtx (·.writeP (s.ptime + lat) n x)
def State.wV (s : State) (lat : Nat) (n : VReg) (x : VWord) : State := s.modCtx (·.writeV (s.ptime + lat) n x)
def State.wQ (s : State) (lat : Nat) (n : QReg) (x : QMask) : State := s.modCtx (·.writeQ (s.ptime + lat) n x)

/-! ### Sticky flags (03 R78 to R81) -/

/-- FFLAGS at a time: the flags of results written by then are ORed in (03 R79). -/
def Ctx.fflagsAt (c : Ctx) (t : Nat) : BitVec 5 :=
  c.fpend.foldl (fun f e => if e.1 ≤ t then f ||| e.2 else f) c.fflags

/-- ORs flags when a result is written at time `t`. -/
def Ctx.addFlags (c : Ctx) (t : Nat) (f : BitVec 5) : Ctx :=
  { c with fpend := c.fpend ++ [(t, f)] }

/-- ORs flags at once (kst, 05 R105). -/
def Ctx.orFlags (c : Ctx) (f : BitVec 5) : Ctx := { c with fflags := c.fflags ||| f }

/-- ORs the flags of an M operation into FFLAGS and its shadow, at a time (03 R80, R81). -/
def Ctx.orFlagsM (c : Ctx) (now : Nat) (f : BitVec 5) : Ctx :=
  { c with fpend := c.fpend ++ [(now, f)], shadow := { c.shadow with fpend := c.shadow.fpend ++ [(now, f)] } }

/-! ### Handle descriptors (10 R249) -/

/-- The bits of a handle descriptor, a geometry set and a copy template that are not reserved (10 R249, R242; 09 R200;
00 R5). -/
def handleBits : Line := BitVec.ofNat 512 (2 ^ 45 - 1) ||| BitVec.ofNat 512 (2 ^ 8 - 1) <<< 64 ||| BitVec.ofNat 512 (2 ^ 32 - 1) <<< 80
def gsetBits : Line :=
  BitVec.ofNat 512 (2 ^ 32 - 1) ||| 1 <<< 63 ||| BitVec.ofNat 512 (2 ^ 32 - 1) <<< 64 ||| BitVec.ofNat 512 (2 ^ 32 - 1) <<< 128
    ||| BitVec.ofNat 512 (2 ^ 32 - 1) <<< 192
def templateBits : Line :=
  BitVec.ofNat 512 (2 ^ 190 - 1) ||| BitVec.ofNat 512 (2 ^ 54 - 1) <<< 192 ||| BitVec.ofNat 512 (2 ^ 63 - 1) <<< 256
    ||| BitVec.ofNat 512 (2 ^ 63 - 1) <<< 320 ||| BitVec.ofNat 512 (2 ^ 48 - 1) <<< 384 ||| BitVec.ofNat 512 (2 ^ 64 - 1) <<< 448

def hBase (h : Line) : Nat := getF h 0 20
def hSize (h : Line) : Nat := getF h 20 20
def hCount (h : Line) : Nat := getF h 40 4 + 1
def hEn (h : Line) : Bool := getB h 44
def hPP (h : Line) : Nat := getF h 64 4
def hCP (h : Line) : Nat := getF h 68 4
/-- State of a slot: 0 free, 1 filling, 2 full, 3 draining. -/
def hState (h : Line) (i : Nat) : Nat := getF h (80 + 2 * i) 2
def hSetState (h : Line) (i v : Nat) : Line := setF h (80 + 2 * i) 2 v
def hSetPP (h : Line) (v : Nat) : Line := setF h 64 4 (v % hCount h)
def hSetCP (h : Line) (v : Nat) : Line := setF h 68 4 (v % hCount h)

def Ctx.handle (c : Ctx) (h : Nat) : Line := tget 0 c.handles h
def Ctx.setHandle (c : Ctx) (h : Nat) (d : Line) : Ctx := { c with handles := tset c.handles h d }

/-- Whether the block declares a probe region (02 R50). -/
def Ctx.probeSlots (c : Ctx) : Nat := match c.block with | some b => b.kernel.pslots | none => 0

/-- A handle that its instructions may name: EN = 1, and not h31 beside a probe region (02 R54). -/
def Ctx.handleOk (c : Ctx) (h : Nat) : Bool := hEn (c.handle h) && !(h == 31 && c.probeSlots != 0)

/-- A template that the kernel image does not define: ERR = 1 (10 R242). -/
def templateUndefined : Line := 1 <<< 183
/-- A geometry set that the image does not define: M = N = K = 0, ERR = 1 (09 R200). -/
def gsetUndefined : Line := 1 <<< 63

/-! ### The physical map (02 R45) -/

/-- Bytes of HBM of one die. -/
def dieBytes : Nat := 0x2540BE4000
/-- First physical address above HBM. -/
def hbmTop : Nat := 4 * dieBytes
/-- The CXL port of a physical address. -/
def cxlPort (pa : Nat) : Option Nat :=
  if 0x100000000000 ≤ pa ∧ pa < 0x100000000000 + 4 * 0x20000000000 then some ((pa - 0x100000000000) / 0x20000000000)
  else none
/-- Whether an address lies in HBM. -/
def isHbm (pa : Nat) : Bool := decide (pa < hbmTop)
/-- The home die of an HBM address. -/
def homeDie (pa : Nat) : Nat := pa / dieBytes

/-- The pseudo-channel (stack × 64 + channel × 2 + pseudo-channel), bank group, bank and row of an
HBM address (02 R46). -/
def pchOf (pa : Nat) : Nat :=
  let i := homeDie pa
  let n := (pa - i * dieBytes) / 4096
  let j := n % 128
  (2 * i + j / 64) * 64 + (j % 64) / 2 * 2 + j % 2
def bgOf (pa : Nat) : Nat := (pa - homeDie pa * dieBytes) / 4096 / 128 % 8
def bankOf (pa : Nat) : Nat := (pa - homeDie pa * dieBytes) / 4096 / 1024 % 4
def rowOf (pa : Nat) : Nat := (pa - homeDie pa * dieBytes) / 4096 / 4096

/-- Whether the frame of an address is backed (02 R45, R57; 21 R358, R385). -/
def State.backed (s : State) (pa : Nat) : Bool :=
  if isHbm pa then !(s.pkg.retired.contains (pchOf pa))
  else match cxlPort pa with
    | some p =>
      let port := vget Port.reset s.pkg.ports p
      port.up && decide ((pa % 0x20000000000) / 4096 < port.pages)
    | none => false

/-! ### Traced granules and filters (16 R284, R288) -/

/-- Interval subtraction on (first, count) pairs. -/
def cutSeg (seg cut : Nat × Nat) : List (Nat × Nat) :=
  let a := seg.1; let b := seg.1 + seg.2; let x := cut.1; let y := cut.1 + cut.2
  let left := if a < Nat.min b x then [(a, Nat.min b x - a)] else []
  let right := if Nat.max a y < b then [(Nat.max a y, b - Nat.max a y)] else []
  if y ≤ a ∨ b ≤ x ∨ cut.2 = 0 then [seg] else left ++ right

def cutSegs (segs : List (Nat × Nat)) (cut : Nat × Nat) : List (Nat × Nat) :=
  segs.flatMap (fun g => cutSeg g cut)

/-- The length of the parameter block; 0 counts as 4,096 (18 R297). -/
def LRec.paramLen (r : LRec) : Nat := if r.plen = 0 then 4096 else r.plen
/-- TRACE, IDEM, STRICT and SER of a record (18 R297). -/
def LRec.trace (r : LRec) : Bool := getB r.flags 2
def LRec.idem (r : LRec) : Bool := getB r.flags 0
def LRec.strict (r : LRec) : Bool := getB r.flags 1
def LRec.ser (r : LRec) : Bool := getB r.flags 3
/-- Flags of a range: declared, traced, on demand, write, read (18 R297). -/
def Range.declared (r : Range) : Bool := getB r.flags 7
def Range.traced (r : Range) : Bool := getB r.flags 3
def Range.demand (r : Range) : Bool := getB r.flags 2
def Range.w (r : Range) : Bool := getB r.flags 1
def Range.r (r : Range) : Bool := getB r.flags 0
def Range.has (r : Range) (va : Nat) : Bool := decide (r.base ≤ va ∧ va < r.base + r.len)

/-- The granules that a launch traces, in the order of R288, as (first, count) pieces. -/
def LRec.granules (r : LRec) : List (Nat × Nat) :=
  let ranges := (r.rng.filter (fun g => g.declared && g.traced)).map (fun g =>
    (g.base / 4096, (g.base + g.len + 4095) / 4096 - g.base / 4096))
  let p0 := r.param / 4096
  let param := [(p0, (r.param + r.paramLen - 1) / 4096 + 1 - p0)]
  let fresh := ranges.foldl (fun (acc : List (Nat × Nat) × List (Nat × Nat)) g =>
    (acc.1 ++ acc.2.foldl cutSegs [g], acc.2 ++ [g])) ([], [])
  ranges.foldl cutSegs param ++ fresh.1

/-- The position of a granule in the order. -/
def granulePos : List (Nat × Nat) → Nat → Nat → Option Nat
  | [], _, _ => none
  | (a, n) :: t, g, k => if a ≤ g ∧ g < a + n then some (k + (g - a)) else granulePos t g (k + n)

/-- The number of granules. -/
def granuleCount (segs : List (Nat × Nat)) : Nat := segs.foldl (fun k g => k + g.2) 0

/-- The filter bit that covers an address (16 R288). -/
def LRec.filterBit (r : LRec) (va : Nat) : Option Nat :=
  let segs := r.granules
  let c := (granuleCount segs + 4095) / 4096
  (granulePos segs (va / 4096 % 2 ^ 45) 0).map (fun k => k / c)

/-- Sets the bits of an access performed in a traced launch: read, write (16 R288). -/
def Ctx.noteAccess (c : Ctx) (va : Nat) (rd wr : Bool) : Ctx :=
  match c.block with
  | none => c
  | some b =>
    if b.lrec.trace then
      match b.lrec.filterBit va with
      | none => c
      | some k => { c with rfilter := if rd then c.rfilter ||| (1 <<< k) else c.rfilter,
                           wfilter := if wr then c.wfilter ||| (1 <<< k) else c.wfilter }
    else c

/-! ### Write times (16 R285, R286) -/

/-- The address of the write-time entry of a frame; none when the frame is not tracked. -/
def State.timeEntry (s : State) (pa : Nat) : Option Nat :=
  let d := if isHbm pa then homeDie pa else 4
  let root := (vget 0 s.pkg.wtroot d).toNat / 4096 * 4096
  let leaf := memNat s.mem (root + 8 * (pa / 2 ^ 20)) 8
  if root = 0 ∨ leaf = 0 then none else some (leaf + 16 * (pa / 4096 % 256))

/-- Whether the entry of a frame stands in a line that cannot be read (24 R381). -/
def State.timeBad (s : State) (pa : Nat) : Bool :=
  match s.timeEntry pa with | some e => s.pkg.poisoned.contains (e / 64) | none => false

/-- Updates the write-time entry of a frame for a writer (launch identity, block number). One that cannot be read stays as
it is, and whoever reads it takes the error (24 R381; log 62). -/
def State.writeTime (s : State) (pa lid blk : Nat) : State :=
  match if s.timeBad pa then none else s.timeEntry pa with
  | none => s
  | some e =>
    let wt := memNat s.mem e 8
    let old := memNat s.mem (e + 8) 4 * 2 ^ 32 + memNat s.mem (e + 12) 4
    let new := lid * 2 ^ 32 + blk
    if wt < s.ptime ∨ (wt = s.ptime ∧ old < new) then
      { s with mem := memWrite s.mem e (natBytes 8 s.ptime ++ natBytes 4 lid ++ natBytes 4 blk) }
    else s

/-- The block number of the host, and of the device's own writes (16 R285; log 42), as a writer. -/
def hostBlock : Nat := 0xFFFFFFFF

/-- The writer pair of a context's block. -/
def Ctx.writer (c : Ctx) : Nat × Nat := match c.block with | some b => (b.lid.toNat, b.b) | none => (0, 0)

/-! ### Writer tags and seals (04 R97) -/

/-- The tag and seal of a line: bits 11:0 and bit 12; sealed with tag 0 when nothing is recorded. -/
def State.lineTag (s : State) (l : Nat) : BitVec 13 := tget 0x1000 s.tags l

/-- Seals lines. -/
def State.seal (s : State) (ls : List Nat) : State :=
  { s with tags := ls.foldl (fun t l => if isHbm (64 * l) then tset t l ((tget 0x1000 t l) ||| 0x1000) else t) s.tags }

/-- The rule for a plain store, copy landing or matrix store by writer `w`. -/
def State.tagAllows (s : State) (l : Nat) (w : BitVec 12) : Bool :=
  let t := s.lineTag l
  getB t 12 || decide ((t.setWidth 12) ≤ w)

/-! ### Home slices (02 R47) -/

/-- Whether an HBM frame lies in a group that a partition owns, on a die where it owns a slice (18 R311, R312). -/
def Part.owns (p : Part) (pa : Nat) : Bool :=
  let d := homeDie pa
  let j := (pa - d * dieBytes) / 4096 % 128
  getB p.pcg (16 * d + j / 8) && vget 0 p.sl d != 0

/-- The slices of a die that a mask names, in ascending order. -/
def slicesOf (m : Word) : List Nat := (range 0 64).filter (getB m)

/-- The home slice of an HBM address, by its number on the home die: an entry of the slice list of the partition that
owns the frame. A frame that no partition owns goes by the list of all 64 (log 9). -/
def State.homeSlice (s : State) (pa : Nat) : Nat :=
  let l := match s.parts.find? (fun e => e.2.owns pa) with
    | some e => slicesOf (vget 0 e.2.sl (homeDie pa))
    | none => range 0 64
  (nth l (pa / 64 % 4096 % l.length)).getD 0

/-- The set of a line in its slice: 2 MiB in 16 ways are 2,048 sets. The spec gives no index (log 9). -/
def l2Set (l : Nat) : Nat := l / 4096 % 2048

/-- A line joins its set; of a full set of 16 one gives way, by a free value (log 9). -/
def Die.l2Add (d : Die) (x : L2Line) (victim : Nat) : Die :=
  let mates := d.l2.filter (fun y => y.slice == x.slice && l2Set y.pline == l2Set x.pline)
  if d.l2.contains x then d
  else match if mates.length < 16 then none else nth mates (victim % mates.length) with
    | some v => { d with l2 := x :: d.l2.filter (fun y => y != v) }
    | none => { d with l2 := x :: d.l2 }

/-- A line stands in its home slice (02 R47). -/
def State.homeTouch (s : State) (l : Nat) : State :=
  if isHbm (64 * l) then
    let s := { s with free := s.free + 1 }
    s.modDieAt (homeDie (64 * l)) (·.l2Add { slice := s.homeSlice (64 * l), pline := l } (Config.victimWay s.free))
  else s

/-- A write of a whole line ends an error that could not be corrected in it (24 R381). -/
def State.renew (s : State) (l : Nat) (k : BitVec 64) : State :=
  if k = BitVec.allOnes 64 then s.modPkg (fun p => { p with poisoned := p.poisoned.filter (fun x => x != l) }) else s

/-- A store of the line's masked bytes by writer `w` at the home: applied or discarded (04 R97). A CXL line carries
no tag. -/
def State.applyLine (s : State) (l : Nat) (d : Line) (k : BitVec 64) (w : BitVec 12) : State :=
  let s := s.homeTouch l
  if isHbm (64 * l) then
    if s.tagAllows l w then
      ({ s with mem := memWriteLine s.mem l d k, tags := tset s.tags l (w.setWidth 13) } : State).renew l k
    else s
  else { s with mem := memWriteLine s.mem l d k }

/-- A store at the home with its write-time update (16 R286). -/
def State.storeLine (s : State) (l : Nat) (d : Line) (k : BitVec 64) (w : BitVec 12) (lid blk : Nat) : State :=
  (s.applyLine l d k w).writeTime (64 * l) lid blk

/-- A write that is applied whatever the tag and leaves the line sealed with tag `w`: atomics,
reducing landings, and the host, peers and management cores (04 R97, 10 R246). -/
def State.sealLine (s : State) (l : Nat) (d : Line) (k : BitVec 64) (w : BitVec 12) (lid blk : Nat) : State :=
  let s := ({ s with mem := memWriteLine s.mem l d k } : State).renew l k
  let s := if isHbm (64 * l) then { s with tags := tset s.tags l (0x1000 ||| w.setWidth 13) } else s
  s.writeTime (64 * l) lid blk

/-- Such a write through the home slice, where the line then stands. -/
def State.storeSealed (s : State) (l : Nat) (d : Line) (k : BitVec 64) (w : BitVec 12) (lid blk : Nat) : State :=
  (s.homeTouch l).sealLine l d k w lid blk

/-- The mask of `n` bytes from byte `i` of a line. -/
def byteMask (i n : Nat) : BitVec 64 := BitVec.ofNat 64 ((2 ^ n - 1) * 2 ^ i)

/-- Bytes as a line, the first at byte `i`. -/
def bytesLine (i : Nat) (bs : List Byte) : Line := BitVec.ofNat 512 (bytesNat bs * 2 ^ (8 * i))

/-- The place in the bank order of an access by context `i` through a unit of its core: accesses of other cores are last
(02 R40). -/
def bankOrder (i core unit : Nat) : Nat := if core = coreOf i then unit else 5

/-- Writes the masked bytes of a line of a core's scratchpad for context `i`, through unit 1 M, 2 L, 3 S or 4 of a copy. -/
def State.scratchLine (s : State) (i unit core off : Nat) (d : Line) (m : BitVec 64) : State :=
  s.modCoreAt core (·.serve s.ptime i (bankOrder i core unit) (off / 64) d m)

/-- Writes bytes within a line. -/
def State.scratchBytes (s : State) (i unit core off : Nat) (bs : List Byte) : State :=
  s.scratchLine i unit core off (bytesLine (off % 64) bs) (byteMask (off % 64) bs.length)

/-- A write of the lines that lie whole in a range ends the errors in them (24 R381). -/
def State.renewAll (s : State) (pa n : Nat) : State :=
  s.modPkg (fun p => { p with poisoned := p.poisoned.filter (fun l => !decide (pa ≤ 64 * l ∧ 64 * l + 64 ≤ pa + n)) })

/-- Bytes one by one, each with the tag of the device's own stores. -/
def State.dumpBytes (s : State) (pa : Nat) : List Byte → State
  | [] => s
  | b :: bs =>
    let s := { s with mem := memSet s.mem pa b,
                      tags := if isHbm pa then tset s.tags (pa / 64) 0x1FFF else s.tags }
    s.dumpBytes (pa + 1) bs

/-- Bytes that the device itself writes to memory, as a management core's stores are (04 R97), without an update of a
write time: trace dumps (16 R286). -/
def State.deviceDump (s : State) (pa : Nat) (bs : List Byte) : State := (s.dumpBytes pa bs).renewAll pa bs.length

/-- Bytes that the device writes in one frame or two: records and completion entries. Their writer is outside any
launch, as the host is (log 42). -/
def State.deviceWrite (s : State) (pa : Nat) (bs : List Byte) : State :=
  let s := (s.deviceDump pa bs).writeTime pa 0 hostBlock
  let last := pa + bs.length - 1
  if last / 4096 = pa / 4096 then s else s.writeTime last 0 hostBlock

end Sys2Proof.Machine
end

