-- ==== Sys2Proof/Machine/Calendar.lean ====
section
/-! DEFINITION. The calendar of quench slots as a function of package time, deferrals and the forced refresh, and the time at
which a request may start (21 R347 to R355). -/

namespace Sys2Proof.Machine

/-! ### Nominal slots (21 R348, R350, R351) -/

/-- The opening of slot `k` of bank group `g`. -/
def Cal.bgAt (c : Cal) (g k : Nat) : Nat := k * c.bgper + c.bgph + g * c.bgstep
/-- The number of group `g`'s first slot that has not ended at `t`. -/
def Cal.bgOpen (c : Cal) (g t : Nat) : Nat :=
  let o := c.bgph + g * c.bgstep + c.bglen
  if t < o then 0 else (t - o) / c.bgper + 1
/-- The number of group `g`'s first slot that opens at `t` or later. -/
def Cal.bgFrom (c : Cal) (g t : Nat) : Nat :=
  let o := c.bgph + g * c.bgstep
  if t ≤ o then 0 else (t - o + c.bgper - 1) / c.bgper

/-- The opening of the first sweep slot of a stack that has not ended at `t`. -/
def Cal.sweepNext (c : Cal) (stack t : Nat) : Nat :=
  let o := stack * 2 ^ c.swlog + 2 ^ (c.swlog - 1)
  let per := 8 * 2 ^ c.swlog
  if t < o + c.swlen then o else ((t - o - c.swlen) / per + 1) * per + o

/-- The opening of the first major slot that has not ended at `t`. -/
def Cal.majorNext (c : Cal) (t : Nat) : Nat :=
  if t < c.mjlen then 0 else ((t - c.mjlen) / 2 ^ c.mjlog + 1) * 2 ^ c.mjlog

/-! ### Deferrals (21 R354, R355) -/

/-- A pseudo-channel at a time: the end of its forced refresh restores its allowances. -/
def PchCal.at (p : PchCal) (c : Cal) (now : Nat) : PchCal :=
  match p.forced with
  | some f => if f + c.ablen ≤ now then .reset else p
  | none => p

/-- Pseudo-channel `p` at the present time. -/
def State.pchCal (s : State) (p : Nat) : PchCal := (tget PchCal.reset s.pkg.pch p).at s.pkg.cal s.ptime

/-- Whether the nominal window at `t` meets the forced window. -/
def PchCal.shut (p : PchCal) (c : Cal) (t : Nat) : Bool :=
  match p.forced with
  | some f => decide (t < f + c.ablen ∧ f < t + c.bglen)
  | none => false

/-- Whether group `g`'s slot at nominal time `t` opens: deferrals end with a forced refresh. -/
def PchCal.opens (p : PchCal) (c : Cal) (g t : Nat) : Bool :=
  let cleared := match p.forced with | some f => decide (f + c.ablen ≤ t) | none => false
  (cleared || !p.deferred.contains (g, t)) && !p.shut c t

/-- The first slot of group `g` from number `k` on that opens, among `n`. -/
def PchCal.firstOpen (p : PchCal) (c : Cal) (g : Nat) : Nat → Nat → Nat
  | 0, k => c.bgAt g k
  | n + 1, k => if p.opens c g (c.bgAt g k) then c.bgAt g k else p.firstOpen c g n (k + 1)

/-- The opening of group `g`'s next slot at time `t`, a forced refresh counting for every group (07 R168). -/
def PchCal.nextBg (p : PchCal) (c : Cal) (g t : Nat) : Nat :=
  let n := p.firstOpen c g 32 (c.bgOpen g t)
  match p.forced with
  | some f => if t < f + c.ablen then Nat.min f n else n
  | none => n

/-- The allowance of group `g`: 0 for every group while a forced refresh is due (21 R355). -/
def PchCal.allowance (p : PchCal) (c : Cal) (g : Nat) : Nat :=
  if p.forced.isSome then 0 else c.defmax - vget 0 p.used g

/-- The first slot of group `g` that is not deferred and opens at `t` or later. -/
def PchCal.firstFree (p : PchCal) (c : Cal) (g : Nat) : Nat → Nat → Nat
  | 0, k => c.bgAt g k
  | n + 1, k => if p.deferred.contains (g, c.bgAt g k) then p.firstFree c g n (k + 1) else c.bgAt g k

/-- A deferral of group `g` at time `t`; when it exhausts the allowance, the first slot of any group
that is not deferred becomes a forced refresh (21 R354, R355). -/
def PchCal.defer (p : PchCal) (c : Cal) (g t : Nat) : PchCal :=
  let d := p.firstFree c g 32 (c.bgFrom g (t + c.lead))
  let p := { p with used := vset p.used g (vget 0 p.used g + 1), deferred := (g, d) :: p.deferred }
  if vget 0 p.used g = c.defmax then
    let first := (range 1 7).foldl (fun m h => Nat.min m (p.firstFree c h 32 (c.bgFrom h (t + c.lead))))
      (p.firstFree c 0 32 (c.bgFrom 0 (t + c.lead)))
    { p with forced := some first }
  else p

def State.setPch (s : State) (p : Nat) (c : PchCal) : State :=
  s.modPkg (fun k => { k with pch := tset k.pch p c })

/-! ### Requests that meet a slot (21 R352, R353, R359) -/

/-- The stack of an HBM address. -/
def stackOf (pa : Nat) : Nat := pchOf pa / 64

/-- The next slots that affect an address, as (opening, length). -/
def State.slotsOf (s : State) (pa t : Nat) : List (Nat × Nat) :=
  let c := s.pkg.cal
  let major := (c.majorNext t, c.mjlen)
  if isHbm pa then
    let p := s.pchCal (pchOf pa)
    let g := bgOf pa
    let bg := (p.firstOpen c g 32 (c.bgOpen g t), c.bglen)
    let forced := match p.forced with
      | some f => if t < f + c.ablen then [(f, c.ablen)] else []
      | none => []
    [bg, (c.sweepNext (stackOf pa) t, c.swlen), major] ++ forced
  else [major]

/-- The end of a slot that is open, or in its drain lead, at `t`. -/
def State.heldBy (s : State) (pa t : Nat) : Option Nat :=
  match (s.slotsOf pa t).find? (fun w => decide (w.1 ≤ t + s.pkg.cal.lead)) with
  | some w => some (w.1 + w.2)
  | none => none

/-- The time at which a request that reaches the controller at `t` starts, over at most `n` slots. -/
def State.startFrom (s : State) (pa : Nat) : Nat → Nat → Nat
  | 0, t => t
  | n + 1, t => match s.heldBy pa t with
    | some e => s.startFrom pa n e
    | none => t

/-- The start of a request of an address at time `t` (21 R352). -/
def State.startAt (s : State) (pa t : Nat) : Nat := s.startFrom pa 16 t

/-- The end of a request that started at `t`, and the slots that it overruns, from an end and slots that are known, over at
most `n` more: a slot that opens before the end moves it (21 R353). -/
def State.overFrom (s : State) (pa t : Nat) : Nat → Nat → List (Nat × Nat) → Nat × List (Nat × Nat)
  | 0, e, ws => (e, ws)
  | n + 1, e, ws =>
    match ((t :: ws.map (fun w => w.1 + w.2)).flatMap (s.slotsOf pa)).find?
        (fun w => decide (t < w.1 ∧ w.1 < e) && !ws.contains w) with
    | some w => s.overFrom pa t n (Nat.max e (w.1 + w.2)) (ws ++ [w])
    | none => (e, ws)

/-- The earliest completion of a request that starts at `t` and takes `lat` cycles, and the openings of the slots
that open before it completes (21 R353). -/
def State.completeAt (s : State) (pa t lat : Nat) : Nat × List Nat :=
  let r := s.overFrom pa t 16 (t + lat) []
  (r.1, r.2.map Prod.fst)

/-- Whether a line is present in its home slice. -/
def State.inL2 (s : State) (pa : Nat) : Bool :=
  (s.dieAt (homeDie pa)).l2.contains { slice := s.homeSlice pa, pline := pa / 64 }

/-- Whether a slot holds a request of an address now; a line in the L2 does not reach the controller (21 R352). -/
def State.slotHolds (s : State) (pa : Nat) : Bool := !s.inL2 pa && (s.heldBy pa s.ptime).isSome

end Sys2Proof.Machine
end

