-- ==== Sys2Proof/Machine/Ops.lean ====
section
/-! DEFINITION. Fault records, waiting stores and what performs them, restart regions, taking an exception and returning from
one (02 R42; 04 R83 to R93; 07 R161 to R163; 14 R266, R267; 18 R308; 19 R329 to R334). -/

namespace Sys2Proof.Machine

/-! ### Fault records (18 R308, 19 R334) -/

/-- The 64 bytes of a record. -/
def FaultRec.bytes (r : FaultRec) : List Byte :=
  natBytes 8 r.ptime ++ natBytes 1 r.code ++ natBytes 1 r.cls ++ natBytes 1 r.src ++ natBytes 1 r.chan
    ++ natBytes 4 r.lid.toNat ++ natBytes 4 r.block ++ natBytes 2 r.wid.toNat ++ natBytes 2 r.flags.toNat
    ++ natBytes 8 r.tval.toNat ++ natBytes 8 r.whr.toNat ++ natBytes 8 r.wp.toNat ++ natBytes 8 r.aux.toNat
    ++ natBytes 8 0

/-- Whether a partition's fault queue is full. -/
def Part.fqFull (p : Part) : Bool := (p.fqTail + 1) % 4096 == p.fqHead

/-- Writes a record to the fault queue and raises vector 0. -/
def State.putRec (s : State) (p : Nat) (r : FaultRec) : State :=
  let q := s.partAt p
  let s := s.deviceWrite (q.fqBase.toNat / 64 * 64 + 64 * q.fqTail) r.bytes
  s.modPartAt p (fun q => { q with fqTail := (q.fqTail + 1) % 4096, vectors := 0 :: q.vectors })

/-- The records that wait in the buffers of a context and its engines. -/
def Ctx.recs (c : Ctx) : List FaultRec :=
  (match c.fbuf with | some r => [r] | none => []) ++ c.ebuf.map (fun e => e.2)

/-- Whether a record of the partition waits anywhere. -/
def State.recWaits (s : State) (p : Nat) : Bool :=
  !(s.partAt p).fqWait.isEmpty
    || s.ctxs.any (fun e => e.2.recs.any (fun r => r.part == p))

/-- Whether a slot holds the write of the fault queue's next record, or the update of its write time (21 R352). -/
def State.fqHeld (s : State) (p : Nat) : Bool :=
  let a := (s.partAt p).fqBase.toNat / 64 * 64 + 64 * (s.partAt p).fqTail
  s.slotHolds a || (match s.timeEntry a with | some e => s.slotHolds e | none => false)

/-- Whether a record can be posted at once. -/
def State.fqOpen (s : State) (p : Nat) : Bool := !(s.partAt p).fqFull && !s.fqHeld p && !s.recWaits p

/-- Posts a record that a context raises, or holds it in the context's buffer; `noRoom` when that is
full (18 R308). -/
def State.postCtx (s : State) (i : Nat) (r : FaultRec) : State :=
  if s.fqOpen r.part then s.putRec r.part r
  else if (s.ctxAt i).fbuf.isSome then { s with noRoom := true }
  else s.modCtxAt i (fun c => { c with fbuf := some r })

/-- Posts a record that engine `u` of a context raises (0 S, 1 M, 2 X, 16 + n Cn). -/
def State.postEng (s : State) (i u : Nat) (r : FaultRec) : State :=
  if s.fqOpen r.part then s.putRec r.part r
  else if (s.ctxAt i).ebuf.any (fun e => e.1 == u) then { s with noRoom := true }
  else s.modCtxAt i (fun c => { c with ebuf := c.ebuf ++ [(u, r)] })

/-- Posts a record of the package controller's own; it counts the records it cannot hold. -/
def State.postPkg (s : State) (p : Nat) (r0 : FaultRec) : State :=
  let r := { r0 with part := p }
  if s.fqOpen p then s.putRec p r
  else s.modPartAt p (fun q =>
    if q.fqWait.length < 1024 then { q with fqWait := q.fqWait ++ [r] }
    else { q with fqLost := (q.fqLost + 1) % 2 ^ 24 })

/-- A record of a context: cause, class, source, flags; the rest as its block gives it. -/
def State.ctxRec (s : State) (i code cls src : Nat) (flags : BitVec 16) (tval whr aux : Word) : FaultRec :=
  let c := s.ctxAt i
  { part := c.part, ptime := s.ptime, code := code, cls := cls, src := src, chan := 0,
    lid := match c.block with | some b => b.lid | none => 0,
    block := match c.block with | some b => b.b | none => 0,
    wid := c.wid, flags := flags, tval := tval, whr := whr, wp := 0, aux := aux }

/-- A record of the package controller. -/
def State.pkgRec (s : State) (code src : Nat) (aux : Word) : FaultRec :=
  { part := 0, ptime := s.ptime, code := code, cls := 3, src := src, chan := 0, lid := 0, block := 0, wid := 0, flags := 0,
    tval := 0, whr := 0, wp := 0, aux := aux }

/-- The record of a line that the package controller could not read, if there is one (24 R381). -/
def State.lineLost (s : State) (part : Nat) (l : Option Nat) : State :=
  match l with
  | some l => s.postPkg part { s.pkgRec 0x19 5 0 with tval := BitVec.ofNat 64 (64 * l) }
  | none => s

/-! ### Waiting stores (02 R42; 04 R83 to R87, R91) -/

/-- Whether operations of queue S, M, X and the channels named by a join that stand before it are
all performed (04 R91). Loads and atomics are performed where they issue. -/
def Ctx.joinDone (c : Ctx) (j : Join) : Bool :=
  c.stores.all (fun t => j.seq ≤ t.seq || !(j.s || (match t.kind with | .start n => getB j.chans n | _ => false)))
    && (!j.m || c.mq.all (fun o => j.seq ≤ o.seq))
    && (!j.x || c.xq.all (fun o => j.seq ≤ o.seq))
    && c.chans.all (fun e => !getB j.chans e.1 || e.2.all (fun o => j.seq ≤ o.seq))

/-- Whether no join holds an operation of order `n` in a queue that `names` picks. -/
def Ctx.joinsClear (c : Ctx) (n : Nat) (names : Join → Bool) : Bool :=
  c.joins.all (fun j => n ≤ j.seq || !names j || c.joinDone j)

/-- Drops the joins that are done; what their queues were directed to then counts as directed by
accesses of the S queue (04 R92, R97). -/
def Ctx.dropJoins (c : Ctx) : Ctx :=
  let gone := c.joins.filter (fun j => c.joinDone j)
  let moved := c.directed.map (fun e =>
    if gone.any (fun j => j.s && decide (e.seq < j.seq) &&
        ((e.queue == 1 && j.m) || (e.queue == 2 && j.x) || (decide (16 ≤ e.queue) && getB j.chans (e.queue - 16))))
    then { e with queue := 0 } else e)
  { c with joins := c.joins.filter (fun j => !c.joinDone j), directed := moved }

/-- Whether an earlier store `e` holds back store `t` (04 R84, R85, R87; 05 R108). A release or a fence holds alike
whatever its scope: parties outside the scope see its order too (log 43). `fence.rel` orders no access to UN pages. -/
def Store.holds (e t : Store) : Bool :=
  let memory (x : Store) : Bool := match x.kind with | .line _ _ => true | .window _ _ _ => true | _ => false
  let sameLine := match e.kind, t.kind with
    | .line a _, .line b _ => a == b
    | .window c a _, .window d b _ => c == d && a / 8 == b / 8
    | _, _ => false
  let header := match t.kind with | .line _ true => e.grp == t.grp && t.grp != 0 | _ => false
  let fenceE := match e.kind with | .fence full => full || !memory t || t.page != .un | _ => false
  let fenceT := match t.kind with
    | .fence full => full || (memory e && e.page != .un)
    | _ => false
  sameLine || header || fenceE || fenceT
    || (t.rel.isSome && memory e && e.page != .un)
    || (memory t && t.page == .so && memory e && e.page != .un)
    || (memory e && e.page == .so && memory t && t.page != .un)

/-! ### Geometry sets and the bytes of an M operation (09 R200, R203, R214, R216) -/

def gM (g : Line) : Nat := getF g 0 8
def gN (g : Line) : Nat := getF g 8 8
def gK (g : Line) : Nat := getF g 16 16
def gErr (g : Line) : Bool := getB g 63
def gLda (g : Line) : Nat := getF g 64 32
def gLdb (g : Line) : Nat := getF g 128 32
def gLdc (g : Line) : Nat := getF g 192 32

/-- Element width in bits of an operand, and of `mst` and `mld`. -/
def mfmtBits : MFmt → Nat
  | .bf16 | .f16 => 16
  | .e4m3 | .e5m2 => 8
  | .e2m1 => 4
def tfmtBits : TFmt → Nat
  | .f32 => 32
  | .bf16 | .f16 => 16
  | .e4m3 | .e5m2 => 8

/-- `m` rows of `bits` bits from a base, as address and length in bytes. -/
def rowSpans (base : Word) (ld m bits : Nat) : List (Word × Nat) :=
  (range 0 m).map (fun j => (base + BitVec.ofNat 64 (j * ld), (bits + 7) / 8))

/-- The bytes that an operation reads, or that an `mst` writes. A kept operand lies in one page. -/
def MOp.spans (o : MOp) : List (Word × Nat) :=
  let g := o.gset
  let tile (f : MFmt) (a : Word) : List (Word × Nat) := if f = .e2m1 then [(a, 4096 - a.toNat % 4096)] else []
  match o.kind with
  | .mma => rowSpans o.addrA (gLda g) (gM g) (gK g * mfmtBits o.af) ++ rowSpans o.addrB (gLdb g) (gN g) (gK g * mfmtBits o.bf)
      ++ tile o.af o.addrA ++ tile o.bf o.addrB
  | .mld | .mst => rowSpans o.addrA (gLdc g) (gM g) (gN g * tfmtBits o.tf)
  | _ => []

/-- Whether an operation reaches a byte that `m` names of the line of an address. -/
def MOp.meets (o : MOp) (va : Nat) (m : BitVec 64) : Bool :=
  let at_ (b : Nat) : Word := BitVec.ofNat 64 (va / 64 * 64 + b)
  o.spans.any (fun x => (range 0 64).any (fun b => getB m b && decide ((at_ b - x.1).toNat < x.2)))

/-- Whether an operation reaches a byte that `m` names of physical line `l`, by the address `va` or by another one of its
frame (log 49). -/
def MOp.meetsLine (o : MOp) (va l : Nat) (m : BitVec 64) : Bool :=
  o.meets va m || o.frames.any (fun f => f.2 == l / 64 && o.meets (4096 * f.1 + 64 * (l % 64)) m)

/-- Whether an operation of the M queue before order `n` reaches such a byte: the context's own accesses to one byte keep
program order (04 R84, 09 R210). -/
def Ctx.mHolds (c : Ctx) (n va l : Nat) (m : BitVec 64) : Bool :=
  c.mq.any (fun o => decide (o.seq < n) && o.meetsLine va l m)

/-- Whether a released store may be performed now. -/
def Ctx.storeReady (c : Ctx) (t : Store) : Bool :=
  !t.gated && !t.fwd && c.stores.all (fun e => t.seq ≤ e.seq || !e.holds t)
    && c.joinsClear t.seq (fun j => j.s) && (!c.barHold || t.page == .un || decide (t.seq < c.barSeq))
    && !(match t.kind with | .line l _ => c.mHolds t.seq t.va l t.mask | _ => false)

/-- Every access from now on starts after the stores of engines that `f` picks, which a wait covers: they then count as
directed by accesses of the S queue (04 R93, R97). -/
def Ctx.ordered (c : Ctx) (f : Directed → Bool) : Ctx :=
  { c with directed := c.directed.map (fun e => if f e then { e with queue := 0 } else e) }

/-- The lines that a release of order `n` seals: those that the stores ordered before it were directed to, of UN pages only
with a `fence.full` (04 R87, R97). -/
def Ctx.sealed (c : Ctx) (n : Nat) (full : Bool) : List Nat :=
  (c.directed.filter (fun e => e.queue == 0 && decide (e.seq < n) && (full || !e.un))).map Directed.line

/-- Whether a scope reaches the die or beyond. -/
def scopeWide : Scope → Bool
  | .ctx | .cl => false
  | _ => true

/-- The L1 line of an address, if present. -/
def Core.l1Find (k : Core) (asid va : Nat) : Option L1Line :=
  k.l1.find? (fun e => e.asid == asid && e.vline == va / 64)

/-- Updates the L1 line of an address that an SB store writes, which counts as a use, or invalidates it for an SO page
(02 R43, R44; 04 R85). The line of its address is that of its own ASID and VA (log 65). -/
def Core.l1Store (k : Core) (asid va : Nat) (d : Line) (m : BitVec 64) (so : Bool) : Core :=
  match k.l1Find asid va with
  | none => k
  | some x =>
    let rest := k.l1.filter (fun e => !(e.asid == asid && e.vline == va / 64))
    { k with l1 := if so then rest else { x with data := mergeLine x.data d m } :: rest }

/-- Updates the RDC line that an SB or L store writes, or invalidates it for an SO page (02 R48). -/
def Die.rdcStore (k : Die) (part l : Nat) (d : Line) (m : BitVec 64) (so : Bool) : Die :=
  let hit (e : RdcLine) : Bool := e.part == part && e.pline == l
  { k with rdc := if so then k.rdc.filter (fun e => !hit e)
                  else k.rdc.map (fun e => if hit e then { e with data := mergeLine e.data d m } else e) }

/-- A store to a doubleword of a geometry set (09 R201): whether the doubleword passes. -/
def gsetDwordOk (k : Nat) (v : Word) : Bool :=
  if k = 0 then
    decide (1 ≤ getF v 0 8 ∧ getF v 0 8 ≤ 64 ∧ 1 ≤ getF v 8 8 ∧ getF v 8 8 ≤ 128 ∧ 1 ≤ getF v 16 16
      ∧ getF v 16 16 ≤ 4096 ∧ getF v 32 31 = 0)
  else if k ≤ 3 then decide (getF v 0 6 = 0 ∧ getF v 32 32 = 0)
  else v == 0

/-- Performs a store to a geometry set. -/
def gsetStore (g : Line) (k : Nat) (v : Word) : Line :=
  if gsetDwordOk k v then setF (setF g (64 * k) 64 v.toNat) 63 1 0 else setF g 63 1 1

/-- Fields of a copy template (10 R242). -/
def tSBase (t : Line) : Nat := getF t 0 64
def tDBase (t : Line) : Nat := getF t 64 64
/-- A source count: dimension 0 to 3. -/
def tSC (t : Line) (i : Nat) : Nat := getF t (128 + 12 * i) 12 + 1
def tESize (t : Line) : Nat := getF t 176 2
def tConv (t : Line) : Nat := getF t 178 2
def tRed (t : Line) : Nat := getF t 180 2
def tRaw (t : Line) : Bool := getB t 182
def tErr (t : Line) : Bool := getB t 183
def tDhEn (t : Line) : Bool := getB t 184
def tDh (t : Line) : Nat := getF t 185 5
def tDC (t : Line) (i : Nat) : Nat := getF t (192 + 12 * i) 12 + 1
def tShEn (t : Line) : Bool := getB t 240
def tSh (t : Line) : Nat := getF t 241 5
/-- A signed stride in 64-byte units: dimension 1 to 3. -/
def tSS (t : Line) (i : Nat) : Int := toInt (getF t (256 + 21 * (i - 1)) 21) 21
def tDS (t : Line) (i : Nat) : Int := toInt (getF t (320 + 21 * (i - 1)) 21) 21
def tMC (t : Line) : BitVec 48 := t.extractLsb' 384 48
def tNB (t : Line) : Nat := getF t 448 64
/-- Source and destination element sizes in bytes. -/
def tSsz (t : Line) : Nat := 2 ^ tESize t
def tDsz (t : Line) : Nat := match tConv t with | 1 => 2 | 2 => 4 | 3 => 1 | _ => tSsz t

/-- Whether a template's fields pass the checks of 10 R243; `user` at user privilege, `pre` in a
block whose launch marks a level pre. -/
def templateOk (t : Line) (user pre : Bool) : Bool :=
  let e := tESize t; let cv := tConv t; let rd := tRed t
  decide (getF t 0 6 = 0 ∧ getF t 64 6 = 0)
    && decide (getF t 190 2 = 0 ∧ getF t 246 10 = 0 ∧ getF t 319 1 = 0 ∧ getF t 383 1 = 0 ∧ getF t 432 16 = 0)
    && !(tRaw t && (user || cv != 0 || rd != 0))
    && !((cv == 1 || cv == 3) && e != 2) && !(cv == 2 && e != 1)
    && !((rd == 1 || rd == 3) && !(cv == 2 || (cv == 0 && e == 2)))
    && !(rd == 2 && !(cv == 1 || (cv == 0 && e == 1)))
    && !(rd != 0 && pre)

/-- Performs a store to doubleword `k` of a template: refused with ERR set, or written; a store of
doubleword 2 with bit 55 set clears ERR (10 R243). -/
def templateStore (t : Line) (k : Nat) (v : Word) (user pre : Bool) : Line :=
  let err := tErr t
  let v' := if k = 2 then setF v 55 1 0 else v
  let new := setF t (64 * k) 64 v'.toNat
  if templateOk (setF new 183 1 0) (user && k == 2) pre then
    setF new 183 1 (bit (err && !(k == 2 && getB v 55)))
  else setF t 183 1 1

/-- Performs a store to the engine-register window (02 R37). -/
def Ctx.engineStore (c : Ctx) (off : Nat) (v : Word) (user : Bool) : Ctx :=
  let k := off % 64 / 8
  let pre := match c.block with | some b => b.lrec.lt.any (fun e => e.pre) | none => false
  if off < 0x4000 then
    let n := off / 64
    { c with tmpl := tset c.tmpl n (templateStore (tget templateUndefined c.tmpl n) k v user pre) }
  else if off < 0x4100 then
    let n := (off - 0x4000) / 64
    { c with gset := tset c.gset n (gsetStore (tget gsetUndefined c.gset n) k v) }
  else if off < 0x5800 then
    let n := (off - 0x5000) / 64
    let h := c.handle n
    if k = 0 then c.setHandle n (setF h 0 64 (getF v 0 45))
    else if k = 1 then c.setHandle n (setF h 64 64 0)
    else c
  else
    let n := (off - 0x6000) / 16
    if off % 16 = 0 then { c with tags := tset c.tags n (setF (tget 0 c.tags n) 45 2 0) } else c

/-- The bits of a dictionary entry that are not reserved: 480 and 367 to 0 (06 R128; 00 R5). -/
def dictBits : Line := 1 <<< 480 ||| BitVec.ofNat 512 (2 ^ 368 - 1)

/-- Performs a store of `n` bytes at an offset of the dictionary aperture, remembering the old
value of each 8-byte unit it writes (06 R132, R133). -/
def Ctx.dictStore (c : Ctx) (off n : Nat) (v : Nat) : Ctx :=
  let e := off / 64; let o := off % 64
  let old := tget 0 c.dict e
  { c with dict := tset c.dict e (setF old (8 * o) (8 * n) v &&& dictBits),
           dictPend := c.dictPend ++ [{ entry := e, dword := o / 8, old := old.extractLsb' (64 * (o / 8)) 64, words := 0 }] }

/-- The queue of a channel. -/
def Ctx.chan (c : Ctx) (n : Nat) : List Copy := tget [] c.chans n
def Ctx.setChan (c : Ctx) (n : Nat) (q : List Copy) : Ctx := { c with chans := tset c.chans n q }
def Ctx.wp (c : Ctx) (n : Nat) : Word := tget 0 c.wps n

/-- Performs a copy start: the copy takes its template and joins its channel's tail, and reserves
the slots of its handles (10 R239, R244, R251). -/
def Ctx.startCopy (c : Ctx) (n : Nat) (w : Word) (seq : Nat) (user : Bool) : Ctx :=
  let t := tget templateUndefined c.tmpl (getF w 0 8)
  let dh := c.handle (tDh t)
  let useD := tDhEn t && tMC t == 0
  let useS := tShEn t
  let dslot := hPP dh
  let c := if useD then c.setHandle (tDh t) (hSetPP dh (dslot + 1)) else c
  let sh := c.handle (tSh t)
  let sslot := hCP sh
  let c := if useS then c.setHandle (tSh t) (hSetCP sh (sslot + 1)) else c
  let copy : Copy :=
    { start := w, tmpl := t, seq := seq, srcSlot := (if useS then some sslot else none),
      dstSlot := (if useD then some dslot else none), begun := false, wp0 := c.wp n, held := false,
      nbDone := false, probe := none, recv := [], user := user, began := 0, last := 0, lastN := 0, mdata := [] }
  c.setChan n (c.chan n ++ [copy])

/-- Removes a store from a context's waiting stores. -/
def Ctx.dropStore (c : Ctx) (seq : Nat) (k : StoreKind) : Ctx :=
  { c with stores := c.stores.filter (fun t => !(t.seq == seq && t.kind == k)) }

/-- Adds a line that a queue's operation is directed to (04 R97). The earliest operation of each line and queue
suffices: a release seals what stands before it. -/
def Ctx.direct (c : Ctx) (d : Directed) : Ctx :=
  let same (e : Directed) : Bool := e.line == d.line && e.queue == d.queue && e.un == d.un && (d.queue != 1 || e.mark == d.mark)
  if c.directed.any (fun e => same e && decide (e.seq ≤ d.seq)) then c
  else { c with directed := d :: c.directed.filter (fun e => !same e) }

/-- An acquire at a scope: the L1 of the core at cluster scope or wider, the RDC lines of the partition
on the die at die scope or wider (02 R44, R48; 04 R87). -/
def State.acquire (s : State) (i : Nat) (sc : Scope) : State :=
  let part := (s.ctxAt i).part
  let s := if sc = .ctx then s else s.modCoreAt (coreOf i) (fun k => { k with l1 := [] })
  if scopeWide sc then s.modDieAt (dieOf i) (fun d => { d with rdc := d.rdc.filter (fun e => e.part != part) }) else s

/-- Notes that the context's own access has changed a line behind what the L1, or the RDC, holds of it (04 R84;
log 41). -/
def Ctx.noteFresh (c : Ctx) (l : Nat) : Ctx := { c with fresh := if c.fresh.contains l then c.fresh else l :: c.fresh }

/-- Performs one waiting store of context `i` (04 R83, R97; 02 R42 to R48). The write time of a CXL line is that of its
acknowledge (16 R286). An L-slot store to an SO page invalidates an L1 line as any SO store does (log 65). -/
def State.performStore (s : State) (i : Nat) (t : Store) : State :=
  let c := s.ctxAt i
  let s := s.modCtxAt i (·.dropStore t.seq t.kind)
  match t.kind with
  | .line l _ =>
    let s := if isHbm (64 * l) then s.storeLine l t.data t.mask c.wid c.writer.1 c.writer.2
             else s.applyLine l t.data t.mask c.wid
    let so := t.page == .so
    let k := s.coreAt (coreOf i)
    let behind := (!t.scalar && !so && (k.l1Find c.asid t.va).isSome)
      || k.l1.any (fun x => x.asid == c.asid && x.pline == l && x.vline != t.va / 64)
    let s := if t.scalar || so then s.modCoreAt (coreOf i) (·.l1Store c.asid t.va t.data t.mask so) else s
    let s := s.modDieAt (dieOf i) (·.rdcStore c.part l t.data t.mask so)
    let s := s.modCtxAt i (fun c => ((if behind then c.noteFresh l else c).noteAccess t.va false true).direct
      { line := l, queue := 0, seq := t.seq, un := t.page == .un, mark := 0 })
    (match t.rel with
     | some sc => if scopeWide sc then s.seal (c.sealed t.seq false) else s
     | none => s)
  | .window core off n =>
    let s := s.scratchBytes i 3 core off (natBytes n t.data.toNat)
    (match t.rel with
     | some sc => if scopeWide sc then s.seal (c.sealed t.seq false) else s
     | none => s)
  | .engine off => s.modCtxAt i (·.engineStore off (t.data.setWidth 64) t.user)
  | .dict off n => s.modCtxAt i (·.dictStore off n t.data.toNat)
  | .start n => s.modCtxAt i (·.startCopy n (t.data.setWidth 64) t.seq t.user)
  | .fence full => match t.rel with
    | some sc =>
      let s := if scopeWide sc then s.seal (c.sealed t.seq full) else s
      if full then s.acquire i sc else s
    | none => s

/-- Stores that the context performs itself once they are ready: every kind but a line of memory. -/
def Store.own (t : Store) : Bool := match t.kind with | .line _ _ => false | _ => true

/-- Performs the ready stores of the context's own, oldest first, at most `n` of them. -/
def State.settle (s : State) (i : Nat) : Nat → State
  | 0 => s
  | n + 1 =>
    let s := s.modCtxAt i (·.dropJoins)
    match (s.ctxAt i).stores.find? (fun t => t.own && (s.ctxAt i).storeReady t) with
    | some t => (s.performStore i t).settle i n
    | none => s

/-- Releases the gated stores of the open region and performs what can be performed (14 R266). -/
def State.release (s : State) (i : Nat) : State :=
  let s := s.modCtxAt i (fun c => { c with stores := c.stores.map (fun t => { t with gated := false }) })
  s.settle i (s.ctxAt i).stores.length

/-- Takes the shadow of the context, resuming at a bundle and slot (14 R266, R267). -/
def Ctx.takeShadow (c : Ctx) (pc : Word) (slot : Nat) (resume : Saved) : Ctx :=
  { c with shadow := { regs := c.regs, loops := c.loops, fflags := c.fflags, fpend := c.fpend,
                       sflags := (match c.stall with | some x => x.flags | none => []), tongs := c.tongs,
                       delay := c.delay, bnum := c.bnum, numbered := c.numbered, pc := pc, slot := slot, resume := resume } }

/-- A restart point: closes the region and takes the shadow (14 R266). -/
def State.restart (s : State) (i : Nat) (pc : Word) (slot : Nat) (resume : Saved) : State :=
  (s.release i).modCtxAt i (fun c => c.takeShadow pc slot resume)

/-- Restores the shadow and discards the region's gated stores (14 R266, R267). -/
def Ctx.rollback (c : Ctx) : Ctx :=
  { c with regs := c.shadow.regs, loops := c.shadow.loops, fflags := c.shadow.fflags, fpend := c.shadow.fpend,
           tongs := c.shadow.tongs, delay := c.shadow.delay, bpeak := Nat.max c.bpeak c.bnum, bnum := c.shadow.bnum,
           numbered := c.shadow.numbered, pc := c.shadow.pc, slot := c.shadow.slot, resume := c.shadow.resume,
           stall := (match c.stall with | some x => some { x with flags := c.shadow.sflags } | none => none),
           stores := c.stores.filter (fun t => !t.gated) }

/-! ### Taking an exception (07 R161; 19 R329, R332, R333) -/

/-- SUSP, FATAL, HELD and RECV of a record's flags. -/
def fSusp : BitVec 16 := 1
def fFatal : BitVec 16 := 2
def fHeld : BitVec 16 := 4
def fRecv : BitVec 16 := 8

/-- The registers of trap entry (07 R161): what is saved, the status and mode, the pc at TVEC. -/
def Ctx.enter (c : Ctx) (code cls : Nat) (tval tpcw : Word) (slotres : Nat) : Ctx :=
  { c with
    ppriv := c.priv, pte := c.te, priv := true, te := false,
    slotres := BitVec.ofNat 3 slotres,
    dly := (match c.delay with | some d => BitVec.ofNat 2 d.left | none => 0),
    dtk := (match c.delay with | some d => d.taken | none => false),
    tdtgt := (match c.delay with | some d => d.target | none => 0),
    delay := none,
    tresume := c.resume, resume := .none, slot := 0, reentered := false, posted := false, inIssue := none, hold := none, closed := false,
    tcause := BitVec.ofNat 10 (cls * 256 + code), tval := tval, tpcw := tpcw, pc := c.tvec }

/-- The M operation that is held at the head of the queue. -/
def Ctx.heldOp (c : Ctx) : Option MOp := match c.mq with
  | o :: _ => if o.held.isSome then some o else none
  | [] => none

/-- Discards the held M operation; its committed rows' flags are ORed (09 R213). -/
def Ctx.discardHeld (c : Ctx) (now : Nat) : Ctx := match c.mq with
  | o :: t => if o.held.isSome then ({ c with mq := t, tileT := tset c.tileT o.tile.toNat now } : Ctx).orFlagsM now o.flags else c
  | [] => c

/-- What a return does to a held M operation: with VAL = 1 it resumes from row MROW.ROW and VAL
clears (09 R212); with VAL = 0 it is discarded (09 R213). -/
def Ctx.resumeHeld (c : Ctx) (now : Nat) : Ctx := match c.mq with
  | o :: t =>
    if o.held.isSome then
      (if c.mval then { c with mq := { o with held := none, row := c.mrow.toNat } :: t, mval := false, mfreeze := false }
       else { c.discardHeld now with mfreeze := false })
    else { c with mfreeze := false }
  | [] => { c with mfreeze := false }

/-- The pending delay state from DLY, DTK and TDTGT (07 R162). DLY holds 0 to 2 (07 R165); for 3 the
spec states no number and the model takes a free one, `k` (log 19). -/
def delayOf (dly : BitVec 2) (dtk : Bool) (tgt : Word) (k : Nat) : Option Delay :=
  if dly = 0 then none
  else some { left := if dly = 3 then k % 3 else dly.toNat, taken := dtk, target := tgt }

/-- The return of 07 R162: status, delay state, re-entry of bundle TPCW at slot SLOTRES. -/
def Ctx.leave (c : Ctx) (now k : Nat) : Ctx :=
  ({ c with priv := c.ppriv, te := c.pte, delay := delayOf c.dly c.dtk c.tdtgt k, pc := c.tpcw,
            slot := c.slotres.toNat, resume := if c.slotres = 0 then .none else c.tresume,
            reentered := true } : Ctx).resumeHeld now

/-- Returns from an exception (07 R162). -/
def State.leaveTrap (s : State) (i : Nat) : State :=
  { s.modCtxAt i (·.leave s.ptime (Config.freeWord s.free).toNat) with free := s.free + 1 }

/-- The monitor's return from a user or redirected handler: a restart point (19 R333, 14 R266). -/
def State.returnDelivery (s : State) (i : Nat) (d : Delivery) : State :=
  let s := s.modCtxAt i (fun c =>
    ({ c with tcause := d.tcause, tval := d.tval, tpcw := d.tpcw, slotres := d.slotres, dly := d.dly, dtk := d.dtk,
              tdtgt := d.tdtgt, ppriv := d.priv, pte := d.te, tresume := d.resume, delivery := none,
              numbered := false } : Ctx))
  let s := (s.release i).leaveTrap i
  s.modCtxAt i (fun c => c.takeShadow c.pc c.slot c.resume)

/-- What the core monitor keeps for a delivery or a redirect (19 R333, R335). -/
def Ctx.keep (c : Ctx) : Delivery :=
  { tcause := c.tcause, tval := c.tval, tpcw := c.tpcw, slotres := c.slotres, dly := c.dly, dtk := c.dtk,
    tdtgt := c.tdtgt, priv := c.ppriv, te := c.pte, resume := c.tresume }

/-- Whether the monitor delivers the fault to the user handler (19 R333). -/
def Ctx.deliverable (c : Ctx) : Bool :=
  decide (getF c.tcause 8 2 ≤ 2) && !c.ppriv && c.uhvec != 0 && c.delivery.isNone && getF c.tcause 0 8 != 0x08

/-- Delivers to the handler at `pc` with a privilege and TE: entry is a restart point (14 R266). -/
def State.toHandler (s : State) (i : Nat) (pc : Word) (priv te : Bool) : State :=
  let s := s.modCtxAt i (fun c =>
    ({ c with delivery := some c.keep, priv := priv, te := te, pc := pc, slot := 0, resume := .none, delay := none,
              bnum := Nat.max c.bnum c.bpeak, numbered := false, reentered := false, inIssue := none } : Ctx))
  s.restart i pc 0 .none

/-- Who raised a fault of a class: the matrix unit for class C, else the context (19 R334). -/
def srcOf (cls : Nat) : Nat := if cls = 2 then 3 else 0

/-- Suspends a context with a record (19 R332); a fatal fault is followed by its removal (19 R336). -/
def State.suspendWith (s : State) (i code cls src : Nat) (fatal : Bool) (tval whr aux : Word) : State :=
  let r := s.ctxRec i code cls src (if fatal then fSusp ||| fFatal else fSusp) tval whr aux
  let s := s.modCtxAt i (fun c => ({ c with status := (if fatal then .removing 1 s.ptime else .suspended),
                                            posted := false, inIssue := none, hold := none, closed := false } : Ctx))
  s.postCtx i r

/-- The core monitor after entry at TVEC with FAULT = 0 (19 R332, R333). `aux` is the record's AUX. -/
def State.monitor (s : State) (i : Nat) (aux : Word) : State :=
  let c := s.ctxAt i
  let code := getF c.tcause 0 8
  match c.delivery with
  | some d =>
    if code = 0x1D ∧ c.tval = 0xFFFF then s.returnDelivery i d
    else s.suspendWith i code (getF c.tcause 8 2) (srcOf (getF c.tcause 8 2)) false c.tval c.tpcw aux
  | none =>
    if c.deliverable then
      let s := s.modCtxAt i (fun c =>
        ({ c with ucause := BitVec.ofNat 13 (c.slotres.toNat * 2 ^ 10 + c.tcause.toNat), uval := c.tval,
                  upcw := c.tpcw } : Ctx))
      s.toHandler i (s.ctxAt i).uhvec false true
    else s.suspendWith i code (getF c.tcause 8 2) (srcOf (getF c.tcause 8 2)) false c.tval c.tpcw aux

/-- Taking an exception: the one entry for every fault of class A, B or C, for `trap` and for `brk`
(07 R161, 19 R332). With TE = 0 the block is suspended and a record of class D is posted (log 13). A later slot in the bundle
of a `wrsr` enters with what it wrote to CSTAT and TVEC (log 63). -/
def State.takeTrap (s : State) (i code cls : Nat) (tval tpcw : Word) (slotres : Nat) (aux : Word) : State :=
  if (s.ctxAt i).te then
    let s := s.modCtxAt i (fun c => c.enter code cls tval tpcw slotres)
    if getB s.pkg.duty 1 then s.suspendWith i code cls (srcOf cls) false tval tpcw aux
    else if (s.ctxAt i).tvec = Config.monitorEntry then s.monitor i aux
    else s
  else s.suspendWith i code 3 (srcOf cls) true tval tpcw aux

/-- The bundle in issue goes no further. -/
def State.halted (s : State) : State := s.modIssue (fun k => { k with stop := .trapped })

/-- A class A fault of the slot in issue (07 R140). -/
def State.faultA (s : State) (code : Nat) (tval : Word) : State :=
  (s.takeTrap s.cur code 0 tval s.issue.pc s.issue.slot 0).halted

/-- A class B fault of the slot in issue: rollback to the last restart point (14 R266). After an
instruction of 14 R268 has committed in the bundle it is delivered in class A. -/
def State.faultB (s : State) (code : Nat) (tval : Word) : State :=
  if s.ctx.resume.marked then s.faultA code tval
  else
    let s := s.modCtx (·.rollback)
    (s.takeTrap s.cur code 1 tval s.ctx.shadow.pc s.ctx.shadow.slot s.issue.pc).halted

/-- TVAL of a decode fault (06 R121): entry, dictionary bundle, slot, word. -/
def Issue.tvalWord (k : Issue) : Word :=
  BitVec.ofNat 64 (k.entry.toNat * 2 ^ 36 + bit k.db * 2 ^ 35 + k.slot * 2 ^ 32 + k.word.toNat)

/-- A fault of cause 0x02 or 0x03 that a slot raises at issue, with the TVAL of 06 R121. -/
def State.faultWord (s : State) (code : Nat) : State := s.faultA code s.issue.tvalWord

/-- The slot in issue waits: it is tried again, and slots before it keep their effects. -/
def State.hold (s : State) : State := s.modIssue (fun k => { k with stop := .held })

/-- An instruction of 14 R268 commits: later slots of the bundle fault in class A, and the region
closes at once. -/
def State.mark (s : State) : State :=
  let s := s.modCtx (fun c => { c with resume := { c.resume with marked := true } })
  let s := s.release s.cur
  s.modCtx (fun c => c.takeShadow s.issue.pc (s.issue.slot + 1) c.resume)

end Sys2Proof.Machine
end

