-- ==== Sys2Proof/Machine/Flags.lean ====
section
/-! DEFINITION. Floating formats, exact values, the one rounding of every result, and the flags it
raises (03 R60 to R77). -/

namespace Sys2Proof.Machine

/-! ### Flags (03 R78) -/

def fNV : BitVec 5 := 0x10
def fDZ : BitVec 5 := 0x08
def fOF : BitVec 5 := 0x04
def fUF : BitVec 5 := 0x02
def fNX : BitVec 5 := 0x01

/-! ### Formats (03 R60) -/

/-- A floating format: field widths and bias; whether it has infinities and NaNs as IEEE formats do;
its canonical NaN. -/
structure FSpec where
  ebits : Nat
  mbits : Nat
  bias : Nat
  ieee : Bool
  nan : Nat
  deriving DecidableEq, Repr

def fsF32 : FSpec := { ebits := 8, mbits := 23, bias := 127, ieee := true, nan := 0x7FC00000 }
def fsF16 : FSpec := { ebits := 5, mbits := 10, bias := 15, ieee := true, nan := 0x7E00 }
def fsBF16 : FSpec := { ebits := 8, mbits := 7, bias := 127, ieee := true, nan := 0x7FC0 }
def fsE5M2 : FSpec := { ebits := 5, mbits := 2, bias := 15, ieee := true, nan := 0x7E }
def fsE4M3 : FSpec := { ebits := 4, mbits := 3, bias := 7, ieee := false, nan := 0x7F }
def fsE2M1 : FSpec := { ebits := 2, mbits := 1, bias := 1, ieee := false, nan := 0 }

/-- The format of a FMT code; the integer formats never ask for it. -/
def fmtSpec : Fmt → FSpec
  | .f32 => fsF32 | .bf16 => fsBF16 | .f16 => fsF16 | .e4m3 => fsE4M3 | .e5m2 => fsE5M2
  | .i32 | .i16 | .i8 => fsF32

/-- The sign bit's position. -/
def FSpec.signBit (f : FSpec) : Nat := f.ebits + f.mbits

/-- The largest finite magnitude's code (03 R60). -/
def FSpec.maxCode (f : FSpec) : Nat :=
  if f.ieee then (2 ^ f.ebits - 1) * 2 ^ f.mbits - 1
  else if f.ebits = 4 then 0x7E else 2 ^ (f.ebits + f.mbits) - 1

/-- The magnitude code of an infinity. -/
def FSpec.infCode (f : FSpec) : Nat := (2 ^ f.ebits - 1) * 2 ^ f.mbits

/-! ### Exact values -/

/-- An exact value: NaN, an infinity, or ± m × 2^e. -/
inductive FVal
  | nan
  | inf (neg : Bool)
  | fin (neg : Bool) (m : Nat) (e : Int)
  deriving DecidableEq, Repr

/-- The value of a code (03 R60, R61). -/
def FSpec.value (f : FSpec) (c : Nat) : FVal :=
  let neg := c / 2 ^ f.signBit % 2 == 1
  let ex := c / 2 ^ f.mbits % 2 ^ f.ebits
  let m := c % 2 ^ f.mbits
  if f.ieee ∧ ex = 2 ^ f.ebits - 1 then (if m = 0 then .inf neg else .nan)
  else if !f.ieee ∧ f.ebits = 4 ∧ ex = 15 ∧ m = 7 then .nan
  else if ex = 0 then .fin neg m (1 - (f.bias : Int) - f.mbits)
  else .fin neg (2 ^ f.mbits + m) ((ex : Int) - f.bias - f.mbits)

/-- A NaN whose most significant mantissa bit is clear, in F32, F16 and BF16 (03 R60). -/
def FSpec.signaling (f : FSpec) (c : Nat) : Bool :=
  f.ieee && decide (5 < f.mbits) && f.value c == .nan && !(c.testBit (f.mbits - 1))

/-- The invalid flag of a signaling input (03 R67). -/
def FSpec.snan (f : FSpec) (c : Nat) : BitVec 5 := if f.signaling c then fNV else 0

/-- Whether a value is a zero. -/
def FVal.isZero : FVal → Bool
  | .fin _ 0 _ => true
  | _ => false

/-- The sign of a value; NaN has none. -/
def FVal.neg : FVal → Bool
  | .nan => false | .inf n => n | .fin n _ _ => n

/-- The value with its sign changed. -/
def FVal.negate : FVal → FVal
  | .nan => .nan | .inf n => .inf (!n) | .fin n m e => .fin (!n) m e

/-- A finite value as a signed number of units 2^e. -/
def units (neg : Bool) (m : Nat) : Int := if neg then -(m : Int) else m

/-- The exact sum, with whether it is invalid; a zero sum of values that are not both −0 is +0. -/
def FVal.add : FVal → FVal → FVal × Bool
  | .nan, _ | _, .nan => (.nan, false)
  | .inf a, .inf b => if a = b then (.inf a, false) else (.nan, true)
  | .inf a, _ => (.inf a, false)
  | _, .inf b => (.inf b, false)
  | .fin a m e, .fin b n g =>
    let k := min e g
    let t := units a (m * 2 ^ (e - k).toNat) + units b (n * 2 ^ (g - k).toNat)
    (.fin (if t = 0 then a && b else decide (t < 0)) t.natAbs k, false)

/-- The exact product, with whether it is ∞ × 0. -/
def FVal.mul : FVal → FVal → FVal × Bool
  | .nan, _ | _, .nan => (.nan, false)
  | .inf a, .inf b => (.inf (a != b), false)
  | .inf a, .fin b n _ => if n = 0 then (.nan, true) else (.inf (a != b), false)
  | .fin a m _, .inf b => if m = 0 then (.nan, true) else (.inf (a != b), false)
  | .fin a m e, .fin b n g => (.fin (a != b) (m * n) (e + g), false)

/-! ### Rounding (03 R65, R66) -/

/-- The number of bits of a number. -/
def bitLen (m : Nat) : Nat := if m = 0 then 0 else m.log2 + 1

/-- `m` shifted right by `k`, rounded to nearest, ties to even; `sticky` says that the exact value
lies above `m` by less than one. Also whether anything was lost. -/
def shiftRound (m k : Nat) (sticky : Bool) : Nat × Bool :=
  if k = 0 then (m, sticky)
  else
    let n := m / 2 ^ k
    let r := m % 2 ^ k
    let half := 2 ^ (k - 1)
    let up := decide (half < r) || (r == half && (sticky || n % 2 == 1))
    (if up then n + 1 else n, r != 0 || sticky)

/-- Rounds ± (m + δ) × 2^e, with 0 < δ < 1 when `sticky` and δ = 0 otherwise, to a format: the code
and the flags. A caller with `sticky` gives `m` more bits than the format keeps. -/
def FSpec.round (f : FSpec) (neg : Bool) (m : Nat) (e : Int) (sticky : Bool) : Nat × BitVec 5 :=
  let sgn := if neg then 2 ^ f.signBit else 0
  if m = 0 ∧ !sticky then (sgn, 0)
  else
    let emin : Int := 1 - (f.bias : Int)
    let top : Int := (bitLen m : Int) - 1 + e
    let q := max (top - f.mbits) (emin - f.mbits)
    let (n, inexact) :=
      if q ≤ e then (m * 2 ^ (e - q).toNat, sticky) else shiftRound m (q - e).toNat sticky
    -- tininess after rounding: the result with an unbounded exponent lies below 2^emin
    let qu := top - f.mbits
    let nu := if qu ≤ e then m * 2 ^ (e - qu).toNat else (shiftRound m (qu - e).toNat sticky).1
    let tiny := decide (top < emin) && !(top == emin - 1 && nu == 2 ^ (f.mbits + 1))
    -- the code of n × 2^q: its exponent field is 0 for a subnormal
    let code : Nat :=
      if n < 2 ^ f.mbits then n
      else (q + f.mbits + f.bias).toNat * 2 ^ f.mbits + (n - 2 ^ f.mbits)
    if f.maxCode < code then
      (sgn + (if f.ieee then f.infCode else f.maxCode), fOF ||| fNX)
    else (sgn + code, (if inexact then fNX else 0) ||| (if tiny && inexact then fUF else 0))

/-- Rounds an exact value to a format (03 R65 to R67); an infinity narrowed to E4M3 saturates. -/
def FSpec.ofVal (f : FSpec) : FVal → Nat × BitVec 5
  | .nan => (f.nan, 0)
  | .inf n => if f.ieee then ((if n then 2 ^ f.signBit else 0) + f.infCode, 0)
              else ((if n then 2 ^ f.signBit else 0) + f.maxCode, fOF ||| fNX)
  | .fin n m e => f.round n m e false

/-- Rounds a quotient a / b × 2^e of positive numbers, once. -/
def FSpec.quot (f : FSpec) (neg : Bool) (a b : Nat) (e : Int) : Nat × BitVec 5 :=
  let k := bitLen b + 80
  f.round neg (a * 2 ^ k / b) (e - k) (a * 2 ^ k % b != 0)

/-! ### Square roots and transcendentals (03 R74) -/

/-- The integer square root, bit by bit from bit `k - 1`. -/
def isqrtFrom (n : Nat) : Nat → Nat → Nat
  | 0, r => r
  | k + 1, r => isqrtFrom n k (if (r + 2 ^ k) * (r + 2 ^ k) ≤ n then r + 2 ^ k else r)

/-- The integer square root. -/
def isqrt (n : Nat) : Nat := isqrtFrom n (bitLen n / 2 + 1) 0

/-- Fraction bits of the fixed-point series (log 15). -/
def fixBits : Nat := 320

/-- ln 2 × 2^320, rounded down. -/
def ln2Fix : Nat :=
  0xB17217F7D1CF79ABC9E3B39803F2F6AF40F343267298B62D8A0D175B8BAAFA2BE7B876206DEBAC98

/-- The sum of x^i / i! for i from `i` on, `n` terms, in fixed point; `t` is the term before. -/
def expSeries (x : Nat) : Nat → Nat → Nat → Nat → Nat
  | 0, _, _, acc => acc
  | n + 1, i, t, acc =>
    let t' := t * x / 2 ^ fixBits / i
    expSeries x n (i + 1) t' (acc + t')

/-- 2^F in fixed point for a fraction F < 1 in fixed point. -/
def exp2Fix (fr : Nat) : Nat :=
  expSeries (fr * ln2Fix / 2 ^ fixBits) 90 1 (2 ^ fixBits) (2 ^ fixBits)

/-- The sum of z^(2i+1) / (2i+1) in fixed point; `p` is z^(2i+1) and `z2` is z². -/
def atanhSeries (z2 : Nat) : Nat → Nat → Nat → Nat → Nat
  | 0, _, _, acc => acc
  | n + 1, i, p, acc => atanhSeries z2 n (i + 2) (p * z2 / 2 ^ fixBits) (acc + p / i)

/-- log2 of y in fixed point, for y = m / 2^k in [1, 2). -/
def log2Fix (m k : Nat) : Nat :=
  let z := (m - 2 ^ k) * 2 ^ fixBits / (m + 2 ^ k)
  let z2 := z * z / 2 ^ fixBits
  2 * atanhSeries z2 110 1 z 0 * 2 ^ fixBits / ln2Fix

/-- 2^x, rounded once. -/
def FSpec.exp2 (f : FSpec) : FVal → Nat × BitVec 5
  | .nan => (f.nan, 0)
  | .inf true => (0, 0)
  | .inf false => (f.infCode, 0)
  | .fin neg m e =>
    if m = 0 then f.round false 1 0 false
    else if 0 ≤ e ∨ (-e).toNat ≤ bitLen m + 200 then
      -- x = ± m × 2^e as an integer part and a fraction of 2^-s
      let s := (-e).toNat
      let whole := m * 2 ^ e.toNat
      let i : Int := if neg then -((whole / 2 ^ s : Nat) : Int) else ((whole / 2 ^ s : Nat) : Int)
      let r := whole % 2 ^ s
      if 4096 < i then f.round false 1 4096 false
      else if i < -4096 then f.round false 1 (-4096) true
      else if r = 0 then f.round false 1 i false
      else
        let (i, r) := if neg then (i - 1, 2 ^ s - r) else (i, r)
        f.round false (exp2Fix (r * 2 ^ fixBits / 2 ^ s)) (i - fixBits) true
    else if neg then f.round false (2 ^ 40 - 1) (-40) true
    else f.round false (2 ^ 40) (-40) true

/-- log2 x, rounded once. -/
def FSpec.log2 (f : FSpec) : FVal → Nat × BitVec 5
  | .nan => (f.nan, 0)
  | .inf true => (f.nan, fNV)
  | .inf false => (f.infCode, 0)
  | .fin neg m e =>
    if m = 0 then (2 ^ f.signBit + f.infCode, fDZ)
    else if neg then (f.nan, fNV)
    else
      let k := m.log2
      let i : Int := (k : Int) + e
      if m = 2 ^ k then f.round (decide (i < 0)) i.natAbs 0 false
      else
        let t : Int := i * (2 ^ fixBits : Nat) + (log2Fix m k : Nat)
        -- a negative exact value lies above t, so its magnitude lies below |t|
        if t < 0 then f.round true (t.natAbs - 1) (-(fixBits : Int)) true
        else f.round false t.natAbs (-(fixBits : Int)) true

/-- 1 / x, rounded once. -/
def FSpec.rcp (f : FSpec) : FVal → Nat × BitVec 5
  | .nan => (f.nan, 0)
  | .inf n => ((if n then 2 ^ f.signBit else 0), 0)
  | .fin n m e => if m = 0 then ((if n then 2 ^ f.signBit else 0) + f.infCode, fDZ) else f.quot n 1 m (-e)

/-- √x, rounded once. -/
def FSpec.sqrt (f : FSpec) : FVal → Nat × BitVec 5
  | .nan => (f.nan, 0)
  | .inf true => (f.nan, fNV)
  | .inf false => (f.infCode, 0)
  | .fin n m e =>
    if m = 0 then ((if n then 2 ^ f.signBit else 0), 0)
    else if n then (f.nan, fNV)
    else
      let odd := e % 2 != 0
      let m2 := (if odd then 2 * m else m) * 2 ^ 120
      let e2 := (if odd then e - 1 else e) - 120
      let r := isqrt m2
      f.round false r (e2 / 2) (r * r != m2)

/-- 1 / √x, rounded once. -/
def FSpec.rsqrt (f : FSpec) : FVal → Nat × BitVec 5
  | .nan => (f.nan, 0)
  | .inf true => (f.nan, fNV)
  | .inf false => (0, 0)
  | .fin n m e =>
    if m = 0 then ((if n then 2 ^ f.signBit else 0) + f.infCode, fDZ)
    else if n then (f.nan, fNV)
    else
      let odd := e % 2 != 0
      let m2 := if odd then 2 * m else m
      let e2 := if odd then e - 1 else e
      -- 1 / √(m2 × 2^e2) = √(2^240 / m2) × 2^(-120 - e2 / 2)
      let r := isqrt (2 ^ 240 / m2)
      f.round false r (-120 - e2 / 2) (r * r * m2 != 2 ^ 240)

/-- a / b, rounded once. -/
def FSpec.div (f : FSpec) : FVal → FVal → Nat × BitVec 5
  | .nan, _ | _, .nan => (f.nan, 0)
  | .inf _, .inf _ => (f.nan, fNV)
  | .inf a, .fin b _ _ => ((if a != b then 2 ^ f.signBit else 0) + f.infCode, 0)
  | .fin a _ _, .inf b => ((if a != b then 2 ^ f.signBit else 0), 0)
  | .fin a m e, .fin b n g =>
    let sgn := if a != b then 2 ^ f.signBit else 0
    if n = 0 then (if m = 0 then (f.nan, fNV) else (sgn + f.infCode, fDZ))
    else if m = 0 then (sgn, 0)
    else f.quot (a != b) m n (e - g)

/-! ### Rounding to integers (03 R68, R75) -/

/-- The integer part of m × 2^e in a direction, with whether anything was lost. -/
def intPart (k : RoundKind) (neg : Bool) (m : Nat) (e : Int) : Nat × Bool :=
  if 0 ≤ e then (m * 2 ^ e.toNat, false)
  else
    let s := (-e).toNat
    let n := m / 2 ^ s
    let lost := m % 2 ^ s != 0
    match k with
    | .rn => shiftRound m s false
    | .rz => (n, lost)
    | .rd => (if lost && neg then n + 1 else n, lost)
    | .ru => (if lost && !neg then n + 1 else n, lost)

/-- `vround` of a code (03 R75). -/
def FSpec.roundInt (f : FSpec) (k : RoundKind) (c : Nat) : Nat × BitVec 5 :=
  match f.value c with
  | .nan => (f.nan, f.snan c)
  | .inf _ => (c, 0)
  | .fin n m e =>
    let (i, lost) := intPart k n m e
    ((f.round n i 0 false).1, if lost then fNX else 0)

/-- A value to a signed integer of width `w` (03 R68). -/
def toIntSat (w : Nat) (v : FVal) : Nat × BitVec 5 :=
  let hi : Int := 2 ^ (w - 1) - 1
  let lo : Int := -(2 ^ (w - 1))
  let enc (x : Int) : Nat := (x % (2 ^ w : Nat)).toNat
  match v with
  | .nan => (0, fNV)
  | .inf n => (enc (if n then lo else hi), fNV)
  | .fin n m e =>
    let (i, lost) := intPart .rn n m e
    let x := units n i
    if hi < x then (enc hi, fNV) else if x < lo then (enc lo, fNV)
    else (enc x, if lost then fNX else 0)

/-! ### Order (03 R77) -/

/-- The rank of a code that is no NaN, −0 below +0. -/
def FSpec.rank (f : FSpec) (c : Nat) : Int :=
  let mag := c % 2 ^ f.signBit
  if c / 2 ^ f.signBit % 2 = 1 then -(mag : Int) - 1 else mag

/-- The value order of codes that are no NaN: −0 and +0 are equal. -/
def FSpec.key (f : FSpec) (c : Nat) : Int :=
  let mag := c % 2 ^ f.signBit
  if c / 2 ^ f.signBit % 2 = 1 then -(mag : Int) else mag

/-- Whether a code is a NaN. -/
def FSpec.isNan (f : FSpec) (c : Nat) : Bool := f.value c == .nan

/-- The higher or lower of two codes under R77; a NaN result is canonical (08 R179). -/
def FSpec.extreme (f : FSpec) (mx : Bool) (a b : Nat) : Nat × BitVec 5 :=
  let fl := f.snan a ||| f.snan b
  if f.isNan a ∨ f.isNan b then (f.nan, fl)
  else (if mx then (if f.rank a < f.rank b then b else a) else (if f.rank b < f.rank a then b else a), fl)

/-- Whether a code is greater than +0 and no NaN (05 R104, 08 R183). -/
def FSpec.positive (f : FSpec) (c : Nat) : Bool := !f.isNan c && decide (0 < f.key c)

/-- The canonical NaN for a NaN, with its flag; any other code unchanged (08 R179, R183). -/
def FSpec.quiet (f : FSpec) (c : Nat) : Nat × BitVec 5 := if f.isNan c then (f.nan, f.snan c) else (c, 0)

/-! ### Sums and conversions -/

/-- A rounded sum of two codes of one format, in a format. -/
def FSpec.addCodes (f g : FSpec) (a b : Nat) : Nat × BitVec 5 :=
  let (v, inv) := (f.value a).add (f.value b)
  let (c, fl) := g.ofVal v
  (c, fl ||| f.snan a ||| f.snan b ||| (if inv then fNV else 0))

/-- A conversion between floating formats (03 R68). -/
def FSpec.convert (f g : FSpec) (c : Nat) : Nat × BitVec 5 :=
  let (r, fl) := g.ofVal (f.value c)
  (r, fl ||| f.snan c)

/-- The class number of a code (08 R192). -/
def FSpec.cls (f : FSpec) (c : Nat) : Nat :=
  match f.value c with
  | .nan => if f.signaling c then 8 else 9
  | .inf n => if n then 0 else 7
  | .fin n m _ =>
    if m = 0 then (if n then 3 else 4)
    else if m < 2 ^ f.mbits then (if n then 2 else 5)
    else (if n then 1 else 6)

/-! ### Scaled E2M1 (03 R62, R69, R70) -/

/-- The value of an E3M5 code below 0xFF: mantissa and exponent (03 R62). -/
def e3m5 (c : Nat) : Nat × Int :=
  if c / 32 = 0 then (c % 32, -7) else (32 + c % 32, (c / 32 : Int) - 8)

/-- The value code × block scale × band scale, with whether it raises invalid (03 R69). A zero has the sign of the product
(log 67). -/
def scaledVal (code bs band : Nat) : FVal × Bool :=
  if bs = 0xFF then (.nan, false)
  else match fsBF16.value band, fsE2M1.value code with
  | .nan, _ => (.nan, false)
  | .inf b, .fin n m _ => if m = 0 then (.nan, true) else (.inf (n != b), false)
  | .fin b mb eb, .fin n m e => (.fin (n != b) (m * mb * (e3m5 bs).1) (e + eb + (e3m5 bs).2), false)
  | _, _ => (.nan, false)

/-- The least E3M5 code below 0xFF whose value times 6 × band is at least mb (03 R70), searched from
a code on; the band is mn × 2^en and mb is mm × 2^em. -/
def leastScale (mm : Nat) (em : Int) (mn : Nat) (en : Int) : Nat → Nat → Nat
  | 0, c => c
  | n + 1, c =>
    let (v, ve) := e3m5 c
    let lhs := v * 6 * mn; let le := ve + en
    let k := min le em
    if mm * 2 ^ (em - k).toNat ≤ lhs * 2 ^ (le - k).toNat then c else leastScale mm em mn en n (c + 1)

/-- Whether two finite values differ. -/
def finDiffer (m : Nat) (e : Int) (n : Nat) (g : Int) : Bool :=
  let k := min e g
  m * 2 ^ (e - k).toNat != n * 2 ^ (g - k).toNat

/-- The magnitude of the largest finite element of a list of F32 codes. -/
def maxMag (xs : List Nat) : Nat :=
  xs.foldl (fun a x => let g := x % 2 ^ 31; if g < 0x7F800000 ∧ a < g then g else a) 0

/-- Quantizes one block of eight F32 codes: block scale, codes, flags (03 R70). -/
def quantBlock (band : Nat) (xs : List Nat) : Nat × List Nat × BitVec 5 :=
  if xs.any (fun x => 0x7F800000 ≤ x % 2 ^ 31) then (0xFF, xs.map (fun _ => 0), fNV)
  else
    let mb := maxMag xs
    if mb = 0 then (0, xs.map (fun x => x / 2 ^ 31 * 8), 0)
    else match fsF32.value mb, fsBF16.value band with
    | .fin _ mm em, .fin _ mn en =>
      let bs := leastScale mm em mn en 255 0
      let (v, ve) := e3m5 bs
      let rs := xs.map (fun x =>
        match fsF32.value x with
        | .fin n m e =>
          let (c, _) := if m = 0 then (if n then 8 else 0, 0) else fsE2M1.quot n m (v * mn) (e - ve - en)
          let lost := match fsE2M1.value c with
            | .fin _ cm ce => finDiffer m e (cm * v * mn) (ce + ve + en)
            | _ => false
          (c, lost)
        | _ => (0, false))
      (bs, rs.map Prod.fst, if rs.any Prod.snd then fNX else 0)
    | _, _ => (0, xs.map (fun _ => 0), 0)

/-- Splits a list into pieces of `n`, at most `k` of them. -/
def chunks {α : Type} (n : Nat) : Nat → List α → List (List α)
  | 0, _ => []
  | k + 1, xs => xs.take n :: chunks n k (xs.drop n)

/-- The band scale and its flags (03 R70). -/
def bandScale (m : Nat) : Nat × BitVec 5 :=
  match fsF32.value m with
  | .fin _ mm em =>
    if mm = 0 then (0, 0)
    else
      let (b, fl) := fsBF16.quot false mm 93 em
      let b := if b = 0 then 1 else b
      (b, if b < 0x80 ∧ fl &&& fNX ≠ 0 then fUF else 0)
  | _ => (0, 0)

/-- Quantizes a band of F32 codes, row by row (03 R70): codes, block scales, band scale, flags. -/
def quantBand (xs : List Nat) : List Nat × List Nat × Nat × BitVec 5 :=
  let (band, bf) := bandScale (maxMag xs)
  let qs := (chunks 8 (xs.length / 8) xs).map (quantBlock band)
  (qs.flatMap (fun q => q.2.1), qs.map (fun q => q.1), band, qs.foldl (fun f q => f ||| q.2.2) bf)

end Sys2Proof.Machine
end

