-- ==== Sys2Proof/Machine/Operands.lean ====
section
/-! DEFINITION. Operand forms: elements and lanes of vector registers under a lane mask (03 R64,
08 R174), results of the V slot, effective addresses by region (02 R35 to R40), handle slots (10 R249). -/

namespace Sys2Proof.Machine

/-- What an instruction or an event answers. -/
abbrev Out := Host.Outcome State Fault Refusal

/-! ### Elements (03 R64, 08 R174) -/

/-- Element `i` of width `w` bits. -/
def elem (v : VWord) (w i : Nat) : Nat := getF v (w * i) w

/-- The mask bit that governs element `i` of width `w`. -/
def maskBit (q : QMask) (w i : Nat) : Bool := getB q (i * w / 32)

/-- The first `n` elements of width `w`, as a list. -/
def elems (v : VWord) (w n : Nat) : List Nat := (range 0 n).map (elem v w)

/-- The sum of the first `n` elements of width `w` in their places. -/
def packN (w : Nat) (f : Nat → Nat) : Nat → Nat
  | 0 => 0
  | n + 1 => packN w f n + f n % 2 ^ w * 2 ^ (w * n)

/-- A register of `n` elements of width `w`, and zeros above them. -/
def pack (w n : Nat) (f : Nat → Nat) : VWord := BitVec.ofNat 4096 (packN w f n)

/-- Elements of width `w` from a list; missing ones are 0. -/
def ofElems (w : Nat) : List Nat → Nat
  | [] => 0
  | x :: xs => x % 2 ^ w + 2 ^ w * ofElems w xs

/-- A register from a list of elements of width `w`. -/
def ofList (w : Nat) (xs : List Nat) : VWord := BitVec.ofNat 4096 (ofElems w xs)

/-- The first `n` results of an element-wise operation under a mask, with their flags: an element
whose mask bit is clear keeps `d` and raises no flag (08 R174). -/
def eltFrom (w : Nat) (q : QMask) (d : VWord) (f : Nat → Nat × BitVec 5) : Nat → Nat × BitVec 5
  | 0 => (0, 0)
  | n + 1 =>
    let r := eltFrom w q d f n
    if maskBit q w n then
      let x := f n
      (r.1 + x.1 % 2 ^ w * 2 ^ (w * n), r.2 ||| x.2)
    else (r.1 + elem d w n * 2 ^ (w * n), r.2)

/-- An element-wise operation of width `w` over the whole register. -/
def eltwise (w : Nat) (q : QMask) (d : VWord) (f : Nat → Nat × BitVec 5) : VWord × BitVec 5 :=
  let r := eltFrom w q d f (4096 / w)
  (BitVec.ofNat 4096 r.1, r.2)

/-- An element-wise operation that raises no flag. -/
def eltQuiet (w : Nat) (q : QMask) (d : VWord) (f : Nat → Nat) : VWord :=
  (eltwise w q d (fun i => (f i, 0))).1

/-- The lanes of `x` that the mask selects, and the lanes of `d` elsewhere (08 R185, 10 R221). -/
def mergeLanes (q : QMask) (d x : VWord) : VWord := eltQuiet 32 q d (elem x 32)

/-- The 4-bit-per-lane byte mask of the sixteen lanes of line `c` (10 R221). -/
def lineMask (q : QMask) (c : Nat) : BitVec 64 :=
  BitVec.ofNat 64 ((range 0 16).foldl (fun m j => if getB q (16 * c + j) then m + 15 * 2 ^ (4 * j) else m) 0)

/-- Line `c` of a register. -/
def vline (v : VWord) (c : Nat) : Line := v.extractLsb' (512 * c) 512

/-- A register of eight lines. -/
def ofLines (f : Nat → Line) : VWord := pack 512 8 (fun c => (f c).toNat)

/-! ### Results of the V slot (03 R79, R80; 08 R176) -/

/-- Flags written before a time join FFLAGS. -/
def Ctx.mergeFlags (c : Ctx) (now : Nat) : Ctx :=
  { c with fflags := c.fpend.foldl (fun f e => if e.1 < now then f ||| e.2 else f) c.fflags,
           fpend := c.fpend.filter (fun e => now ≤ e.1) }

/-- A V-slot operation or a kept reader issues: its flags are ORed at time `t`. -/
def Ctx.vDone (c : Ctx) (now t : Nat) (f : BitVec 5) : Ctx := (c.mergeFlags now).addFlags t f

/-- A vector result readable after `lat` cycles, with its flags. -/
def State.vRes (s : State) (lat : Nat) (d : VReg) (r : VWord × BitVec 5) : State :=
  (s.wV lat d r.1).modCtx (·.vDone s.ptime (s.ptime + lat) r.2)

/-- A lane-mask result of the V slot. -/
def State.qRes (s : State) (lat : Nat) (d : QReg) (r : QMask × BitVec 5) : State :=
  (s.wQ lat d r.1).modCtx (·.vDone s.ptime (s.ptime + lat) r.2)

/-- A scalar result of the V slot. -/
def State.sRes (s : State) (lat : Nat) (d : SReg) (x : Word) : State :=
  (s.wS lat d x).modCtx (·.vDone s.ptime (s.ptime + lat) 0)

/-! ### Regions of the effective-address map (02 R35, R36) -/

/-- What an effective address names. -/
inductive Region
  | virt (va : Nat)
  | window (m byte : Nat)
  | engine (off : Nat)
  | transfer (off : Nat)
  | dict (off : Nat)
  | undeclared
  deriving DecidableEq, Repr

/-- The region of an address; an offset beyond its row's extent is undeclared. -/
def regionOf (a : Word) : Region :=
  let top := getF a 56 8; let off := getF a 0 56
  if top ≤ 1 then .virt a.toNat
  else if top = 0xF0 then (if off < 0x3000000 then .window (off / 0x100000) (off % 0x100000) else .undeclared)
  else if top = 0xF1 then
    (if off < 0x4100 ∨ (0x5000 ≤ off ∧ off < 0x5800) ∨ (0x6000 ≤ off ∧ off < 0x7000) then .engine off
     else .undeclared)
  else if top = 0xF2 then (if off < 0x80 then .transfer off else .undeclared)
  else if top = 0xF3 then (if off < 0x10000 then .dict off else .undeclared)
  else .undeclared

/-- TVAL of causes 0x0B to 0x0E (19 R330). -/
def tvalVa (level va : Nat) : Word := BitVec.ofNat 64 (level % 8 * 2 ^ 57 + va % 2 ^ 57)

/-- TVAL of a failed walk, which answers a cause and a level, or for an entry that ECC cannot correct its line
(19 R330, R331; 24 R381). -/
def tvalWalk (cause level va : Nat) : Word := if cause = 0x19 then BitVec.ofNat 64 (64 * level) else tvalVa level va

/-- TVAL of an undeclared-access to an address: LEVEL 7, since step 1 of 19 R321 failed. -/
def tvalUndeclared (a : Word) : Word := tvalVa 7 a.toNat

/-! ### The hearth window (02 R38 to R40) -/

/-- Whether the block's launch marks a level gang (01 R10). -/
def Block.ganged (b : Block) : Bool := b.lrec.lt.any (fun e => e.gang)

/-- Whether a context holds member `m` of a block's gang. -/
def State.holdsMember (s : State) (b : Block) (m i : Nat) : Bool :=
  match (s.ctxAt i).block with
  | some t => t.part == b.part && t.key == b.key && t.gang == b.gang && t.member == m
  | none => false

/-- The context that holds member `m` of the gang of context `i`'s block. -/
def State.memberCtx (s : State) (i m : Nat) : Option Nat :=
  match (s.ctxAt i).block with
  | none => none
  | some b =>
    if m = b.member then some i
    else if !b.ganged then none
    else if s.holdsMember b m (2 * (b.gangCore + m)) then some (2 * (b.gangCore + m))
    else if s.holdsMember b m (2 * (b.gangCore + m) + 1) then some (2 * (b.gangCore + m) + 1)
    else none

/-- The core and physical scratchpad offset of `n` bytes of a window address, within the declared
footprint of the target block. -/
def State.windowAt (s : State) (i m byte n : Nat) : Option (Nat × Nat) :=
  match s.memberCtx i m with
  | none => none
  | some j => match (s.ctxAt j).block with
    | none => none
    | some b => if byte + n ≤ b.kernel.scratch then some (coreOf j, b.scratchBase + byte) else none

/-- The address of a byte of a member's footprint (02 R38). -/
def winAddr (m byte : Nat) : Word := BitVec.ofNat 64 (0xF000000000000000 + m * 0x100000 + byte)

/-- The member number of a context's block. -/
def Ctx.member (c : Ctx) : Nat := match c.block with | some b => b.member | none => 0
/-- The declared scratchpad bytes of a context's block. -/
def Ctx.scratch (c : Ctx) : Nat := match c.block with | some b => b.kernel.scratch | none => 0

/-- Reads `n` bytes of a core's scratchpad as a number. -/
def State.scratchNat (s : State) (core off n : Nat) : Nat := memNat (s.coreAt core).scratch off n


/-! ### Engine-register window (02 R34, R37) -/

/-- Whether an offset names an entry within the block's declarations; handles are always there. -/
def Ctx.engineDeclared (c : Ctx) (off : Nat) : Bool :=
  match c.block with
  | none => true
  | some b =>
    if off < 0x4000 then decide (off / 64 < b.kernel.tmpl.length)
    else if off < 0x4100 then decide ((off - 0x4000) / 64 < b.kernel.gset.length)
    else if off < 0x5800 then true
    else decide ((off - 0x6000) / 16 < b.kernel.pslots)

/-! ### Probe slots (02 R50, R51) -/

/-- A tag entry: tag in bits 44:0, state in bits 46:45 (log 11). -/
def gTag (g : Line) : Nat := getF g 0 45
def gState (g : Line) : Nat := getF g 45 2
/-- The tag entry of a slot. -/
def Ctx.tagAt (c : Ctx) (i : Nat) : Line := tget 0 c.tags i
/-- The base of the probe region. -/
def Ctx.probeBase (c : Ctx) : Nat := match c.block with | some b => b.kernel.pbase | none => 0
/-- The window address of probe slot `i` (02 R52). -/
def Ctx.probeWin (c : Ctx) (i : Nat) : Word := winAddr c.member (c.probeBase + 4096 * i)

/-! ### Handle slots (10 R249, R251) -/

/-- The footprint offset of slot `i` of a handle. -/
def hSlot (h : Line) (i : Nat) : Nat := hBase h + i * hSize h

/-- The window address of slot `i` of handle `n`. -/
def Ctx.handleWin (c : Ctx) (n i : Nat) : Word := winAddr c.member (hSlot (c.handle n) i)

/-- Whether all of `n` slots from pointer `p` satisfy a test, counting modulo the slot count. -/
def slotsAll (h : Line) (p n : Nat) (test : Nat → Bool) : Bool :=
  (range p n).all (fun i => test (i % hCount h))

/-- Sets the states of `n` slots from pointer `p`. -/
def slotsSet (h : Line) (p n v : Nat) : Line :=
  (range p n).foldl (fun h i => hSetState h (i % hCount h) v) h

/-! ### Ready and interlocks (01 R20) -/

/-- Whether a register can be read now. -/
def State.readable (s : State) (r : RegId) : Bool := decide (s.ctx.readyAt r ≤ s.ptime)

end Sys2Proof.Machine
end

