-- ==== Sys2Proof/Machine/Pins.lean ====
section
/-! DEFINITION. Gangs, the addresses that a copy reads and writes, pinned slots, and reads of the engine-register
window (01 R10; 02 R37, R50, R51; 10 R239, R245, R251). -/

namespace Sys2Proof.Machine

/-! ### Gangs (01 R10) -/

/-- The members of the gang of a block; 0 when it is not ganged. -/
def Block.gangSize (b : Block) : Nat := match b.lrec.lt.find? (fun e => e.gang) with | some e => e.count | none => 0
def Ctx.gangSize (c : Ctx) : Nat := match c.block with | some b => b.gangSize | none => 0

/-! ### Addresses of a copy (10 R245) -/

/-- A number as a word, modulo 2^64. -/
def wordOf (x : Int) : Word := BitVec.ofInt 64 x

/-- The address of element `e` from a base, with counts, strides and element size. -/
def elemAddr (base : Word) (cnt : Nat → Nat) (st : Nat → Int) (sz e : Nat) : Word :=
  let i0 := e % cnt 0; let a := e / cnt 0
  let i1 := a % cnt 1; let b := a / cnt 1
  let i2 := b % cnt 2; let i3 := b / cnt 2
  base + wordOf (((i3 : Int) * st 3 + i2 * st 2 + i1 * st 1) * 64 + i0 * sz)

/-- Source and destination elements. -/
def tSCount (t : Line) : Nat := tSC t 0 * tSC t 1 * tSC t 2 * tSC t 3
def tDCount (t : Line) : Nat := tDC t 0 * tDC t 1 * tDC t 2 * tDC t 3

/-- SOFF and DOFF of a start word, in bytes (10 R239). -/
def soff (w : Word) : Word := wordOf (toInt (getF w 8 28) 28 * 64)
def doff (w : Word) : Word := wordOf (toInt (getF w 36 28) 28 * 64)

/-- The source of a copy of context `c`. -/
def Ctx.copySrc (c : Ctx) (o : Copy) : Word :=
  match o.srcSlot with
  | some k => c.handleWin (tSh o.tmpl) k + soff o.start
  | none => BitVec.ofNat 64 (tSBase o.tmpl) + soff o.start

/-- The destination of a copy that is not multicast. -/
def Ctx.copyDst (c : Ctx) (o : Copy) : Word :=
  match o.dstSlot with
  | some k => c.handleWin (tDh o.tmpl) k + doff o.start
  | none => BitVec.ofNat 64 (tDBase o.tmpl) + doff o.start

/-- The 64-byte pieces of a destination, in element order. -/
def dstChunks (t : Line) (dst : Word) : List Word :=
  (range 0 (tDCount t * tDsz t / 64)).map (fun k => elemAddr dst (tDC t) (tDS t) (tDsz t) (k * (64 / tDsz t)))

/-- The 64-byte pieces of a source. -/
def srcChunks (t : Line) (src : Word) : List Word :=
  (range 0 (tSCount t * tSsz t / 64)).map (fun k => elemAddr src (tSC t) (tSS t) (tSsz t) (k * (64 / tSsz t)))

/-- Distinct words, in order of first occurrence. -/
def distinctWords (l : List Word) : List Word := l.foldl (fun acc a => if acc.contains a then acc else acc ++ [a]) []

/-- The destination lines of a copy, in order of their first element. -/
def dstLines (t : Line) (dst : Word) : List Word := distinctWords (dstChunks t dst)

/-- The elements of a destination line, in order. -/
def lineElems (t : Line) (dst : Word) (l : Word) : List Nat :=
  let n := 64 / tDsz t
  ((range 0 (tDCount t * tDsz t / 64)).zip (dstChunks t dst)).flatMap (fun p =>
    if p.2 = l then range (p.1 * n) n else [])

/-! ### Pins (02 R51, 10 R251) -/

/-- Whether a copy of context `j` in flight reads or writes a byte of `n` bytes of a core's scratchpad: one that has begun at
the head of its channel (log 66). -/
def State.copyTouches (s : State) (j : Nat) (o : Copy) (core off n : Nat) : Bool :=
  let c := s.ctxAt j
  let meets (a : Word) : Bool := match regionOf a with
    | .window m byte => match s.windowAt j m byte 64 with
      | some (k, x) => k == core && decide (x < off + n ∧ off < x + 64)
      | none => false
    | _ => false
  let dsts := if tMC o.tmpl = 0 then dstChunks o.tmpl (c.copyDst o)
    else o.recv.flatMap (fun r => match r.slot, s.memberCtx j r.member with
      | some k, some i => dstChunks o.tmpl ((s.ctxAt i).handleWin (tDh o.tmpl) k + doff o.start)
      | _, _ => [])
  o.begun && ((srcChunks o.tmpl (c.copySrc o)).any meets || dsts.any meets)

/-- Whether any copy in flight touches `n` bytes at an offset of context `i`'s footprint. -/
def State.touched (s : State) (i byte n : Nat) : Bool :=
  match (s.ctxAt i).block with
  | none => false
  | some b => s.ctxs.any (fun e => e.2.chans.any (fun q =>
      q.2.any (fun o => s.copyTouches e.1 o (coreOf i) (b.scratchBase + byte) n)))

/-- The pin flag of a probe slot (02 R51). -/
def State.probePinned (s : State) (i k : Nat) : Bool :=
  gState ((s.ctxAt i).tagAt k) == 1 || s.touched i ((s.ctxAt i).probeBase + 4096 * k) 4096

/-! ### Reads of the engine-register window (02 R37, R50; 10 R231) -/

/-- The age of a slot, 0 the newest: ages are distinct, and slots that no `probe` has met yet stand behind the others, in
ascending number (02 R52; log 11). -/
def Ctx.age (c : Ctx) (n : Nat) : Nat :=
  match c.ages.findIdx? (fun x => x == n) with
  | some k => k
  | none => c.ages.length + ((range 0 n).filter (fun k => !c.ages.contains k)).length

/-- Tag entry `n` as a load reads it: the entry, the pin flag in bit 47 and the age in bits 55:48 (log 11). -/
def State.tagWord (s : State) (i n : Nat) : Line :=
  let c := s.ctxAt i
  setF (setF (tget 0 c.tags n) 47 1 (bit (s.probePinned i n))) 48 8 (c.age n)

/-- The doubleword at an offset of the window of context `i`. -/
def State.engineAt (s : State) (i off : Nat) : Word :=
  let c := s.ctxAt i; let k := off % 64 / 8
  if off < 0x4000 then (tget templateUndefined c.tmpl (off / 64)).extractLsb' (64 * k) 64
  else if off < 0x4100 then (tget gsetUndefined c.gset ((off - 0x4000) / 64)).extractLsb' (64 * k) 64
  else if off < 0x5800 then (c.handle ((off - 0x5000) / 64)).extractLsb' (64 * k) 64
  else (s.tagWord i ((off - 0x6000) / 16)).extractLsb' (off % 16 * 8) 64

/-- The doubleword at an offset of the window of the context in issue. -/
def State.engineRead (s : State) (off : Nat) : Word := s.engineAt s.cur off

end Sys2Proof.Machine
end

