-- ==== Sys2Proof/Machine/Time.lean ====
section
/-! DEFINITION. Merging windows, requests that wait at the controllers of their lines, and the answers that engines wait for
(02 R49, R56; 21 R352, R353, R359). -/

namespace Sys2Proof.Machine

/-! ### Merging windows (02 R49) -/

/-- Cycles of HBM in the figures of R55: an own-die load that misses the L2 less one that hits. -/
def hbmCycles : Nat := 168

/-- The earliest completion of the read that opened a window. -/
def State.installAt (s : State) (w : Window) : Nat :=
  (s.completeAt (64 * w.pline) (s.startAt (64 * w.pline) w.opened) hbmCycles).1

/-- The window of a line that a read may join now. -/
def Die.openWindow (d : Die) (l now : Nat) : Option Window :=
  d.windows.find? (fun w => w.pline == l && !w.shut && decide (now < w.opened + 32))

/-- A further read joins the open window of a line, if there is one. -/
def Die.joinWindow (d : Die) (l now : Nat) : Die :=
  match d.openWindow l now with
  | some w => { d with windows := d.windows.map (fun x => if x = w then { w with readers := w.readers + 1 } else x) }
  | none => d

/-- A read of HBM starts, with a window that others may join unless it is `shut`. -/
def Die.addWindow (d : Die) (l now : Nat) (shut : Bool) : Die :=
  { d with windows := { pline := l, opened := now, readers := 1, shut := shut } :: d.windows }

/-- Whether a read of a line goes to HBM. -/
def State.readsHbm (s : State) (l : Nat) : Bool := isHbm (64 * l) && !s.inL2 (64 * l)

/-- A load's read of an HBM line arrives at its home: it is served from the slice, joins an open window, or starts a
read of HBM and opens a window. An acquire, `acq`, joins none, and none joins it. -/
def State.homeRead (s : State) (l : Nat) (acq : Bool) : State :=
  if !s.readsHbm l then s
  else s.modDieAt (homeDie (64 * l)) (fun d =>
    if !acq && (d.openWindow l s.ptime).isSome then d.joinWindow l s.ptime else d.addWindow l s.ptime acq)

/-- A store to a line ends its window. -/
def State.shutWindow (s : State) (l : Nat) : State :=
  if isHbm (64 * l) then
    s.modDieAt (homeDie (64 * l)) (fun d => { d with windows := d.windows.map (fun w => if w.pline = l then { w with shut := true } else w) })
  else s

/-- The time before which a store to a line is not applied: the installs of the reads of the line under way. -/
def State.installed (s : State) (l : Nat) : Nat :=
  if isHbm (64 * l) then
    (s.dieAt (homeDie (64 * l))).windows.foldl (fun m w => if w.pline = l then Nat.max m (s.installAt w) else m) 0
  else 0

/-- The path latency of a load that does not hit its die's RDC (02 R55). -/
def State.pathLat (s : State) (die pa : Nat) : Nat :=
  if isHbm pa then
    (if homeDie pa = die then (if s.inL2 pa then 48 else 216) else (if s.inL2 pa then 112 else 280))
  else 900

/-- The earliest arrival of a line at a die for a request at time `t`, and the slots that it overruns. -/
def State.arrival (s : State) (die pa t : Nat) : Nat × List Nat :=
  let lat := s.pathLat die pa
  if isHbm pa && s.inL2 pa then (t + lat, []) else s.completeAt pa (s.startAt pa t) lat

/-- The slots that the update of a frame's write time at time `t` overruns. -/
def State.timeOver (s : State) (die pa t : Nat) : List Nat :=
  match s.timeEntry pa with | some e => (s.arrival die e t).2 | none => []

/-- The slots that a write of a line at time `t`, with the update of its write time, overruns (21 R353). -/
def State.writeOver (s : State) (die pa t : Nat) : List Nat := (s.arrival die pa t).2 ++ s.timeOver die pa t

/-- Whether the update of a line's write time waits at its controller (16 R286, 21 R352). -/
def State.timeHeld (s : State) (l : Nat) : Bool :=
  match s.timeEntry (64 * l) with | some e => s.slotHolds e | none => false

/-- The arrival for a plain read that is asked for at time `t`, which a window that is open at present may serve: with the
slots that open after it has joined and before its reply (21 R353). -/
def State.joinArrival (s : State) (die l t : Nat) : Nat × List Nat :=
  match if s.readsHbm l then (s.dieAt (homeDie (64 * l))).openWindow l s.ptime else none with
  | some w =>
    let rest := s.pathLat die (64 * l) - hbmCycles
    let r := s.overFrom (64 * l) s.ptime 16 (Nat.max (t + rest) (s.installAt w + rest)) []
    (r.1, r.2.map Prod.fst)
  | none => s.arrival die (64 * l) t

/-- One maintenance-overrun record of a queue (0 S, 1 M, 2 X, 16 + n Cn) for a slot (21 R353). A launch with
STRICT = 1 is removed. -/
def State.overrunOf (s : State) (i queue slot : Nat) : State :=
  if (s.ctxAt i).overruns.contains (queue, slot) then s
  else
    let strict := match (s.ctxAt i).block with | some b => b.lrec.strict | none => false
    let r := s.ctxRec i 0x15 3 6 (if strict then fSusp ||| fFatal else 0) 0 0 (BitVec.ofNat 64 queue)
    let s := (s.postEng i queue r).modCtxAt i (fun c => { c with overruns := ((queue, slot) :: c.overruns).take 64 })
    if strict then s.modCtxAt i (fun c => { c with status := .removing 1 s.ptime }) else s

/-- The records of a queue whose request overran slots that open at the given times. -/
def State.overrun (s : State) (i queue : Nat) (slots : List Nat) : State :=
  slots.foldl (fun s o => s.overrunOf i queue o) s

/-! ### Requests that wait at a controller or a port (21 R352, 02 R56) -/

/-- The CXL port that a store to memory goes through. -/
def Store.port (t : Store) : Option Nat := match t.kind with | .line l _ => cxlPort (64 * l) | _ => none

/-- Whether a waiting store goes to a physical line. -/
def Store.onLine (t : Store) (l : Nat) : Bool := match t.kind with | .line k _ => k == l | _ => false

/-- Whether a line lies behind a port. -/
def atPort (p l : Nat) : Bool := cxlPort (64 * l) == some p

/-- Whether a request of an engine waits at its line's controller or port. -/
def Asked.waits (x : Asked) : Bool := x.arr != 0 && x.data.isNone

/-- The requests of a context that are outstanding at a port: forwarded stores, lines that its stall waits for, and the
lines that its engines have asked for and that have not arrived (log 50). -/
def Ctx.outstanding (c : Ctx) (p now : Nat) : Nat :=
  (c.stores.filter (fun t => t.fwd && t.port == some p)).length
    + (match c.stall with | some x => (x.lines.filter (atPort p)).length | none => 0)
    + c.asked.foldl (fun n q => n + (q.2.filter (fun x => !x.waits && decide (now < x.due) && atPort p x.line)).length) 0

/-- The requests of a context that wait at a port. -/
def Ctx.heldAt (c : Ctx) (p : Nat) : Nat :=
  (c.stores.filter (fun t => t.arr != 0 && !t.fwd && t.port == some p)).length
    + (match c.hold with | some h => bit (h.waits && atPort p h.line) | none => 0)
    + c.asked.foldl (fun n q => n + (q.2.filter (fun x => x.waits && atPort p x.line)).length) 0

/-- The requests outstanding at a port; those that a major slot holds count (21 R359). -/
def State.outstanding (s : State) (p : Nat) : Nat :=
  let slot := s.slotHolds (0x100000000000 + p * 0x20000000000)
  s.ctxs.foldl (fun n e => n + e.2.outstanding p s.ptime + (if slot then e.2.heldAt p else 0)) 0

/-- Whether a port takes no further request of a line, beside `more` of the same access. -/
def State.portFull (s : State) (l more : Nat) : Bool :=
  match cxlPort (64 * l) with | some p => decide (512 ≤ s.outstanding p + more) | none => false

/-- The lines of a range of bytes. -/
def linesOf (pa n : Nat) : List Nat := range (pa / 64) ((pa + n + 63) / 64 - pa / 64)

/-- The lines of a request from outside the cores that its controllers order with others. A management core's store runs in
a slot (21 R356), in no such order. -/
def Outside.lines (o : Outside) : List Nat :=
  match o with
  | .store (.host pa bs) => linesOf pa bs.length
  | .store _ => []
  | .peer (.write _ pa ls) => linesOf pa (64 * ls.length)
  | .peer (.read _ pa n) => linesOf pa (64 * n)
  | .answer _ pa n | .source _ pa n => linesOf pa n

/-- Whether such a request writes. -/
def Outside.writes (o : Outside) : Bool :=
  match o with | .store _ | .peer (.write ..) | .answer .. => true | .peer (.read ..) | .source .. => false

/-- Whether a waiting write of a line came before request number `arr`. -/
def State.writeBefore (s : State) (l arr : Nat) : Bool :=
  s.ctxs.any (fun e => e.2.stores.any (fun t => t.onLine l && t.arr != 0 && decide (t.arr < arr)))
    || s.late.any (fun e => decide (e.1 < arr) && e.2.writes && e.2.lines.contains l)

/-- Whether a request of a line, number `arr` among those that have reached its controller, waits there: for a slot,
for a port, or for an earlier write of the line. -/
def State.lineHeld (s : State) (l arr : Nat) : Bool := s.slotHolds (64 * l) || s.portFull l 0 || s.writeBefore l arr

/-- Whether an access that waits at a line's controller, of a context in issue, of an engine, or of a reader outside the
cores, came before write number `arr`. -/
def State.heldBefore (s : State) (l arr : Nat) : Bool :=
  s.ctxs.any (fun e => (match e.2.hold with | some h => h.waits && h.line == l && decide (h.arr < arr) | none => false)
    || e.2.asked.any (fun q => q.2.any (fun x => x.line == l && x.waits && decide (x.arr < arr))))
    || s.late.any (fun e => decide (e.1 < arr) && !e.2.writes && e.2.lines.contains l)

/-- Whether a write of number `arr` to a line waits: for a slot or a port, for earlier requests of the line, for the update
of its write time, or for the install of a read (02 R49, R56; 16 R286; 21 R352). -/
def State.lineBusy (s : State) (l arr : Nat) : Bool :=
  s.lineHeld l arr || s.timeHeld l || s.heldBefore l arr || decide (s.ptime < s.installed l)

/-- The number of a request from outside the cores: that under which it waits, or a new one. -/
def State.lateNo (s : State) (o : Outside) : Nat :=
  match s.late.find? (fun e => e.2 == o) with | some e => e.1 | none => s.free + 1

/-- Whether a request from outside waits at the controller of one of its lines. -/
def State.lateHeld (s : State) (o : Outside) : Bool :=
  o.lines.any (fun l => if o.writes then s.lineBusy l (s.lateNo o) else !(isHbm (64 * l) && s.inL2 (64 * l)) && s.lineHeld l (s.lateNo o))

/-- A request from outside waits; the arrival of a write ends the lines' merging windows. -/
def State.lateWaits (s : State) (o : Outside) : State :=
  let s := if o.writes then o.lines.foldl State.shutWindow s else s
  if s.late.any (fun e => e.2 == o) then s
  else { s with free := s.free + 1, late := s.late ++ [(s.free + 1, o)] }

/-- A request from outside waits no longer. -/
def State.lateDone (s : State) (o : Outside) : State := { s with late := s.late.filter (fun e => e.2 != o) }

/-- What engine `q` of context `i` has asked for. -/
def Ctx.asks (c : Ctx) (q : Nat) : List Asked := tget [] c.asked q

/-- What a request of engine `q` read when it went out. -/
def State.askData (s : State) (i q l : Nat) : Option Line :=
  (((s.ctxAt i).asks q).find? (fun x => x.line == l && x.data.isSome)).bind Asked.data

/-- The number under which engine `q`'s request of a line waits, or a new one. -/
def State.askNo (s : State) (i q l : Nat) : Nat :=
  match ((s.ctxAt i).asks q).find? (fun x => x.line == l && x.arr != 0) with
  | some x => x.arr
  | none => s.free + 1

/-- Whether the request of a line by engine `q` of context `i` waits at its controller or its port (21 R352, 02 R56). -/
def State.engHeld (s : State) (i q l : Nat) : Bool := s.lineHeld l (s.askNo i q l)

/-- Whether a line that engine `q` of context `i` writes cannot be reached yet. -/
def State.landsLater (s : State) (i q l : Nat) : Bool := s.lineBusy l (s.askNo i q l)

/-- Engine `q`'s request of a line waits. -/
def State.askWait (s : State) (i q l : Nat) : State :=
  if ((s.ctxAt i).asks q).any (fun x => x.line == l && x.arr != 0) then s
  else ({ s with free := s.free + 1 } : State).modCtxAt i (fun c =>
    { c with asked := tset c.asked q ({ line := l, arr := s.askNo i q l, data := none, due := 0 } :: c.asks q) })

/-- Engine `q`'s request of a line goes out, to be answered at time `due`: it reads `d`, or writes. What a request that has
waited, or one at a port, has read is kept. -/
def State.askTook (s : State) (i q l : Nat) (d : Option Line) (due : Nat) : State :=
  let old := ((s.ctxAt i).asks q).find? (fun x => x.line == l)
  s.modCtxAt i (fun c =>
    let rest := (c.asks q).filter (fun x => x.line != l)
    let new := if d.isSome && (old.isSome || !isHbm (64 * l)) then
        [{ line := l, arr := (match old with | some x => x.arr | none => 0), data := d, due := due }] else []
    { c with asked := tset c.asked q (new ++ rest) })

/-- Engine `q`'s requests have been answered, its walks too. -/
def Ctx.askDone (c : Ctx) (q : Nat) : Ctx :=
  { c with asked := tset c.asked q [], engReqs := c.engReqs.filter (fun w => w.unit != q),
           engAns := c.engAns.filter (fun w => w.unit != q) }

/-- The number of the request of a line that context `i` makes: that under which its access waited, or a new one. -/
def State.arrNo (s : State) (i l : Nat) : Nat :=
  match (s.ctxAt i).hold with
  | some h => if h.line = l then h.arr else s.free + 1
  | none => s.free + 1

/-- Whether the hold of context `i`'s bundle in issue is over. -/
def State.holdOver (s : State) (i : Nat) : Bool :=
  match (s.ctxAt i).hold with
  | some h => !h.waits || !s.lineHeld h.line h.arr
  | none => true

/-- The place of context `i` among those that act in a cycle: by the arrival of the access that its bundle in issue waits
with, before those that wait with none (04 R94, 21 R352). -/
def State.turnNo (s : State) (i : Nat) : Nat :=
  match (s.ctxAt i).hold with | some h => h.arr | none => s.free + 1

end Sys2Proof.Machine
end

