-- ==== Sys2Proof/Machine/Translate.lean ====
section
/-! DEFINITION. Ranges, extents, page-table walks and walk caches (19 R317 to R328; 18 R298, R312). -/

namespace Sys2Proof.Machine

/-! ### Extents (19 R325) -/

def Extent.gen (e : Extent) : BitVec 16 := e.bits.extractLsb' 240 16
def Extent.rangeNo (e : Extent) : Nat := getF e.bits 236 4
def Extent.code (e : Extent) : Bool := getB e.bits 235
def Extent.pre (e : Extent) : Bool := getB e.bits 234
def Extent.valid (e : Extent) : Bool := getB e.bits 233
def Extent.ord (e : Extent) : Nat := getF e.bits 231 2
def Extent.k (e : Extent) : Bool := getB e.bits 230
def Extent.u (e : Extent) : Bool := getB e.bits 229
def Extent.x (e : Extent) : Bool := getB e.bits 228
def Extent.w (e : Extent) : Bool := getB e.bits 227
def Extent.r (e : Extent) : Bool := getB e.bits 226
def Extent.parm (e : Extent) : Bool := getB e.bits 225
def Extent.npg (e : Extent) : Nat := getF e.bits 160 32
def Extent.pb (e : Extent) : Nat := getF e.bits 64 40
def Extent.vb (e : Extent) : Nat := getF e.bits 0 45

/-- Where an extent is formed for: range number, code range, parameter range (19 R325). -/
structure RangeKey where
  no : Nat
  code : Bool
  parm : Bool
  deriving DecidableEq, Repr

/-- An extent of `npg` pages from the flags of a leaf entry (19 R319, R325). -/
def mkExtent (gen : BitVec 16) (key : RangeKey) (pre : Bool) (leaf : Word) (rangeW : Bool) (vb pb npg level : Nat) :
    Extent :=
  { bits := BitVec.ofNat 256 (vb + pb * 2 ^ 64 + npg * 2 ^ 160 + bit key.parm * 2 ^ 225 + bit (getB leaf 2) * 2 ^ 226
      + bit (getB leaf 3 && rangeW) * 2 ^ 227 + bit (getB leaf 4) * 2 ^ 228 + bit (getB leaf 5) * 2 ^ 229
      + bit (getB leaf 11) * 2 ^ 230 + getF leaf 6 2 * 2 ^ 231 + 2 ^ 233 + bit pre * 2 ^ 234 + bit key.code * 2 ^ 235
      + key.no * 2 ^ 236 + gen.toNat * 2 ^ 240),
    level := level, entry := 0 }

/-- The physical address of a virtual address in an extent. -/
def Extent.pa (e : Extent) (va : Nat) : Nat := (e.pb + (va / 4096 - e.vb)) * 4096 + va % 4096

/-- The page kind of an extent (04 R85). -/
def Extent.kind (e : Extent) : PageKind := match e.ord with | 1 => .so | 2 => .un | _ => .rc

/-- Whether an extent serves an access of a page under a key and generation (19 R321, R327). -/
def Extent.serves (e : Extent) (gen : BitVec 16) (key : RangeKey) (page : Nat) : Bool :=
  e.valid && e.gen == gen && e.code == key.code && e.rangeNo == key.no && e.parm == key.parm
    && decide (e.vb ≤ page ∧ page < e.vb + e.npg)

/-- The entry of a table of 16 that a new extent takes: the lowest-numbered one that is not valid (20 R345), else that
of the least recently used extent with PRE = 0, or of the least recently used of all (19 R326). -/
def extentEntry (l : List Extent) : Nat :=
  match (range 0 16).find? (fun n => !l.any (fun x => x.valid && x.entry == n)) with
  | some n => n
  | none => match l.reverse.find? (fun x => !x.pre) with
    | some x => x.entry
    | none => match l.getLast? with | some x => x.entry | none => 0

/-- An extent joins a table, as the most recently used. -/
def addExtent (l : List Extent) (e : Extent) : List Extent :=
  let n := extentEntry l
  { e with entry := n } :: l.filter (fun x => x.entry != n)

/-- A lookup of a page in a table clears VALID of the extents of another generation that cover it (20 R345). -/
def reclaim (l : List Extent) (gen : BitVec 16) (page : Nat) : List Extent :=
  l.map (fun e => if e.gen == gen || !decide (e.vb ≤ page ∧ page < e.vb + e.npg) then e else { e with bits := setF e.bits 233 1 0 })

/-! ### Ranges (18 R297, R298; 19 R321) -/

/-- What the range check of an access finds: the key and its read and write flags. -/
structure RangeHit where
  key : RangeKey
  r : Bool
  w : Bool
  deriving DecidableEq, Repr

/-- The declared range of an access of `n` bytes, from number `i` on. -/
def findRange (va n : Nat) : List Range → Nat → Option RangeHit
  | [], _ => none
  | g :: t, i =>
    if g.declared && g.has va && g.has (va + n - 1) then some { key := { no := i, code := false, parm := false }, r := g.r, w := g.w }
    else findRange va n t (i + 1)

/-- The range of a data access: a declared range first, then the parameter range (19 R321). -/
def LRec.dataRange (r : LRec) (va n : Nat) : Option RangeHit :=
  match findRange va n r.rng 0 with
  | some h => some h
  | none =>
    if r.param ≤ va ∧ va + n ≤ r.param + r.paramLen then
      some { key := { no := 15, code := false, parm := true }, r := true, w := false }
    else none

/-- The key of the code range. -/
def codeKey : RangeKey := { no := 15, code := true, parm := false }

/-- Whether a byte address lies in the code range, from the kernel entry to CSEG (19 R325). -/
def Block.inCode (b : Block) (va : Nat) : Bool :=
  decide (4 * b.kernel.entry.toNat ≤ va ∧ va < 4 * b.lrec.cseg)

/-- The pages of the range of a key, as first and count. -/
def Block.rangePages (b : Block) (key : RangeKey) : Nat × Nat :=
  if key.code then
    let p := 4 * b.kernel.entry.toNat / 4096
    (p, (4 * b.lrec.cseg + 4095) / 4096 - p)
  else if key.parm then
    let p := b.lrec.param / 4096
    (p, (b.lrec.param + b.lrec.paramLen + 4095) / 4096 - p)
  else match nth b.lrec.rng key.no with
    | some g => (g.base / 4096, (g.base + g.len + 4095) / 4096 - g.base / 4096)
    | none => (0, 0)

/-- Whether flags grant a kind of access (19 R321 steps 2 and 4). -/
def grants (k : AccKind) (r w x : Bool) : Bool :=
  match k with
  | .read => r
  | .write => w
  | .readWrite => r && w
  | .fetch => x

/-! ### Frames (02 R57, 18 R312) -/


/-- Frames of one die's HBM, and of one CXL port's range (02 R45). -/
def dieFrames : Nat := dieBytes / 4096
def portFrames : Nat := 0x20000000

/-- The frames that `n` frames from `f` share with `m` frames from `a`, as first and count. -/
def sharedFrames (f n a m : Nat) : Nat × Nat := (Nat.max f a, Nat.min (f + n) (a + m) - Nat.max f a)

/-- Frames that stand for all frames of a mapping of `n` pages. Within a die, 128 frames in a row meet the same
pseudo-channels as all the others (02 R46); within a port, the last frame is backed only if all are (02 R57); the first
address above HBM stands for frames of no region (02 R45). -/
def sampleFrames (pa n : Nat) : List Nat :=
  let f := pa / 4096
  let dies := (range 0 4).map (fun i => sharedFrames f n (i * dieFrames) dieFrames)
  let ports := (range 0 4).map (fun p => sharedFrames f n (0x100000000 + p * portFrames) portFrames)
  let covered := (dies ++ ports).foldl (fun k x => k + x.2) 0
  (if covered < n then [hbmTop] else [])
    ++ dies.flatMap (fun x => (range 0 (Nat.min x.2 128)).map (fun i => 4096 * (x.1 + i)))
    ++ (ports.filter (fun x => x.2 != 0)).map (fun x => 4096 * (x.1 + x.2 - 1))

/-- The cause that refuses a mapping: a frame that is not backed, then a frame in a group of another
partition. -/
def State.frameCause (s : State) (part pa n : Nat) : Option Nat :=
  let fs := sampleFrames pa n
  if fs.any (fun f => !s.backed f) then some 0x0C
  else if fs.any (fun f => isHbm f && !(s.partAt part).owns f) then some 0x0E
  else none

/-! ### Walks (19 R318 to R324) -/

/-- The lowest address bit of a level's index. -/
def levelShift (l : Nat) : Nat := 48 - 9 * l

/-- What a walk finds: level, leaf entry, addresses of the leaf entries that it stands for, first
page, first frame's physical address, pages. -/
structure Leaf where
  level : Nat
  entry : Word
  at_ : List Nat
  page : Nat
  pa : Nat
  npg : Nat
  deriving DecidableEq, Repr

/-- The address of frame or table in an entry. -/
def eAddr (e : Word) : Nat := getF e 12 40 * 4096

/-- A walk-cache entry that matches. -/
def WalkEnt.hits (w : WalkEnt) (part asid : Nat) (gen : BitVec 16) (level va : Nat) : Bool :=
  w.part == part && w.asid == asid && w.gen == gen && w.level == level && w.pfx == va / 2 ^ levelShift level

/-- The capacity of a level's cache (19 R324). -/
def walkCap (level : Nat) : Nat := if level = 3 then 256 else 64

/-- Keeps the first `n` entries of a level. -/
def trimLevel (level : Nat) : Nat → List WalkEnt → List WalkEnt
  | _, [] => []
  | n, w :: t =>
    if w.level = level then (match n with | 0 => trimLevel level 0 t | m + 1 => w :: trimLevel level m t)
    else w :: trimLevel level n t

/-- Caches a table pointer as the most recently used of its level. -/
def Die.cacheWalk (d : Die) (w : WalkEnt) : Die :=
  { d with walks := trimLevel w.level (walkCap w.level) (w :: d.walks.filter (fun x => x != w)) }

/-- The reserved-bit checks of an entry with V = 1 at a level (19 R320). -/
def State.entryBad (s : State) (part level : Nat) (e : Word) : Bool :=
  let t := getB e 1
  getB e 63 || getF e 52 7 != 0 || getF e 6 2 == 3
    || (!t && decide (level ≤ 1)) || (t && level == 4)
    || (t && (getF e 2 10 != 0 || !isHbm (eAddr e) || !(s.partAt part).owns (eAddr e)))
    || (!t && ((getB e 3 && !getB e 2) || (getB e 11 && getB e 4) || (getB e 10 && level == 2)))
    || (!t && level == 3 && getF e 12 9 != 0) || (!t && level == 2 && getF e 12 18 != 0)

/-- Whether sixteen entries form a contiguous group (19 R322). -/
def groupOf (es : List Word) (level : Nat) : Bool :=
  match es with
  | [] => false
  | e0 :: _ =>
    let size := 2 ^ levelShift level
    let base := eAddr e0
    decide (base % (16 * size) = 0)
      && (range 0 16).all (fun i => match nth es i with
        | some e => getB e 0 && getB e 10 && !getB e 1 && getF e 2 6 == getF e0 2 6 && getF e 10 2 == getF e0 10 2
            && eAddr e == base + i * size
        | none => false)

/-- The leaf that an entry forms. -/
def State.leafAt (s : State) (va level table : Nat) (e : Word) : Leaf :=
  let sh := levelShift level
  let size := 2 ^ sh
  let idx := va / size % 512
  let g := idx / 16 * 16
  let es := (range g 16).map (fun i => BitVec.ofNat 64 (memNat s.mem (table + 8 * i) 8))
  if getB e 10 && groupOf es level then
    { level := level, entry := e, at_ := (range g 16).map (fun i => table + 8 * i),
      page := va / (16 * size) * (16 * size) / 4096, pa := eAddr e / (16 * size) * (16 * size), npg := 16 * size / 4096 }
  else
    { level := level, entry := e, at_ := [table + 8 * idx], page := va / size * size / 4096, pa := eAddr e,
      npg := size / 4096 }

/-- A walk of at most `n` levels from a table at a level: the leaf, or cause and level, with the table
pointers that it met. -/
def State.walkFrom (s : State) (part asid : Nat) (gen : BitVec 16) (va : Nat) :
    Nat → Nat → Nat → (Except (Nat × Nat) Leaf) × List WalkEnt
  | 0, level, _ => (.error (0x0D, level), [])
  | n + 1, level, table =>
    let a := table + 8 * (va / 2 ^ levelShift level % 512)
    let e : Word := BitVec.ofNat 64 (memNat s.mem a 8)
    if s.pkg.poisoned.contains (a / 64) then (.error (0x19, a / 64), [])
    else if !getB e 0 then (.error (0x0C, level), [])
    else if s.entryBad part level e then (.error (0x0D, level), [])
    else if getB e 1 then
      let r := s.walkFrom part asid gen va n (level + 1) (eAddr e)
      (r.1, { part := part, asid := asid, gen := gen, level := level, pfx := va / 2 ^ levelShift level, entry := e } :: r.2)
    else
      let l := s.leafAt va level table e
      match s.frameCause part l.pa l.npg with
      | some c => (.error (c, level), [])
      | none => (.ok l, [])

/-- What the latest ASTSYNC of an address space read, and what was last read for the launch of a key. -/
def Part.synced (p : Part) (asid : Nat) : Option Asid := p.asids.find? (fun a => a.asid == asid && a.key.isNone)
def Part.asidRead (p : Part) (asid key : Nat) : Option Asid :=
  match p.asids.find? (fun a => a.asid == asid && a.key == some key) with
  | some a => some a
  | none => p.synced asid

/-- The entry of an address space for the walks of a launch, as last read at its acceptance or by an ASTSYNC; none while
the latest ASTSYNC has found it invalid (19 R317). -/
def Part.asidOf (p : Part) (asid key : Nat) : Option Asid :=
  if (p.synced asid).any (fun a => !a.valid) then none else (p.asidRead asid key).filter Asid.valid

/-- The generation that translations of an address space use for a launch. -/
def Part.genOf (p : Part) (asid key : Nat) : BitVec 16 := match p.asidRead asid key with | some a => a.gen | none => 0

/-- The deepest cached pointer above level `n`, as the next level and its table. -/
def Die.deepest (d : Die) (part asid : Nat) (gen : BitVec 16) (va : Nat) : Nat → Option (WalkEnt × Nat)
  | 0 => none
  | n + 1 => match d.walks.find? (fun w => w.hits part asid gen n va) with
    | some w => some (w, n + 1)
    | none => d.deepest part asid gen va n

/-- A walk of a die's translator, with its caches as the walk leaves them (19 R318, R324). -/
def State.walkVa (s : State) (die part asid key va : Nat) : (Except (Nat × Nat) Leaf) × State :=
  match (s.partAt part).asidOf asid key with
  | none => (.error (0x0C, 0), s)
  | some a =>
    if !isHbm a.root || !(s.partAt part).owns a.root then (.error (0x0D, 0), s)
    else
      let hit := (s.dieAt die).deepest part asid a.gen va 4
      let r := match hit with
        | some (w, l) => s.walkFrom part asid a.gen va 5 l (eAddr w.entry)
        | none => s.walkFrom part asid a.gen va 5 0 a.root
      let used := (match hit with | some (w, _) => [w] | none => []) ++ r.2
      (r.1, s.modDieAt die (fun d => used.foldl Die.cacheWalk d))

/-- ORs bits into a page-table entry at its home, as an atomic of a writer outside any launch (19 R323; 04 R97;
16 R286; log 42). -/
def State.orEntry (s : State) (bits a : Nat) : State :=
  let old := memNat s.mem a 8
  let new := (BitVec.ofNat 64 old ||| BitVec.ofNat 64 bits).toNat
  (s.homeTouch (a / 64)).deviceWrite a (natBytes 8 new)

/-- Sets A, and D when the extent grants write access (19 R323). -/
def State.setAd (s : State) (l : Leaf) (w : Bool) : State :=
  l.at_.foldl (State.orEntry · (if w then 0x300 else 0x100)) s

/-- The extent that a leaf forms for a key, cut to the range (19 R325, R326). -/
def Block.cut (b : Block) (gen : BitVec 16) (key : RangeKey) (pre rangeW : Bool) (l : Leaf) : Extent :=
  let (p0, n) := b.rangePages key
  let lo := Nat.max p0 l.page
  let hi := Nat.min (p0 + n) (l.page + l.npg)
  mkExtent gen key pre l.entry rangeW lo (l.pa / 4096 + (lo - l.page)) (hi - lo) l.level

/-- The lookup of an address in the table of context `i` clears VALID of extents of another generation (20 R345). -/
def State.reclaimAt (s : State) (i va : Nat) : State :=
  s.modCtxAt i (fun c => { c with extents := reclaim c.extents ((s.partAt c.part).genOf c.asid c.lkey) (va / 4096) })

/-- Forms the extent of a page for context `i`, or answers the cause and level (19 R326). -/
def State.formExtent (s : State) (i va : Nat) (key : RangeKey) (rangeW : Bool) : (Except (Nat × Nat) Extent) × State :=
  match (s.ctxAt i).block with
  | none => (.error (0x0C, 0), s)
  | some b =>
    let (r, s) := (s.reclaimAt i va).walkVa (dieOf i) b.part b.lrec.asid b.key va
    match r with
    | .error e => (.error e, s)
    | .ok l =>
      let x := b.cut ((s.partAt b.part).genOf b.lrec.asid b.key) key false rangeW l
      (.ok x, (s.setAd l x.w).modCtxAt i (fun c => { c with extents := addExtent c.extents x }))

/-! ### Looking up (19 R321, R326, R327) -/

/-- What an access of a page meets. -/
inductive Look
  | hit (e : Extent)
  | fault (cause level : Nat)
  | miss
  deriving DecidableEq, Repr

/-- Whether a walk's answer serves an access of a page through a range. -/
def Walked.answers (w : Walked) (page : Nat) (key : RangeKey) : Bool :=
  w.page == page && w.no == key.no && w.parm == key.parm && w.code == key.code

/-- The extent of a page for context `i`: in its table, or among the walks of the bundle in issue. -/
def State.lookExtent (s : State) (i page : Nat) (key : RangeKey) : Look :=
  let c := s.ctxAt i
  let gen := (s.partAt c.part).genOf c.asid c.lkey
  match c.extents.find? (fun e => e.serves gen key page) with
  | some e => .hit e
  | none => match c.walked.find? (·.answers page key) with
    | some w => if w.cause = 0 then .hit w.ext else .fault w.cause w.level
    | none => .miss

/-- An extent that a lookup of a page has found counts as used: it moves to the front. The lookup clears VALID of extents
of other generations (20 R345). -/
def Ctx.useExtent (c : Ctx) (e : Extent) (page : Nat) : Ctx :=
  let l := reclaim c.extents e.gen page
  { c with extents := if l.contains e then e :: l.filter (fun x => x != e) else l }

/-- A failure of an access of the virtual space. -/
structure VFault where
  code : Nat
  tval : Word
  deriving DecidableEq, Repr

/-- What translating an access of `n` bytes within one page answers. -/
inductive Xlat
  | ok (e : Extent) (pa : Nat)
  | fault (f : VFault)
  /-- A walk is needed first. -/
  | walk (va : Nat)
  deriving DecidableEq, Repr

/-- Steps 1 to 4 of 19 R321 for a data access by context `i` at a privilege. -/
def State.translate (s : State) (i va n : Nat) (k : AccKind) (user : Bool) : Xlat :=
  match (s.ctxAt i).block with
  | none => .fault ⟨0x0B, tvalVa 7 va⟩
  | some b => match b.lrec.dataRange va n with
    | none => .fault ⟨0x0B, tvalVa 7 va⟩
    | some h =>
      if !grants k h.r h.w false then .fault ⟨0x0E, tvalVa 7 va⟩
      else match s.lookExtent i (va / 4096) h.key with
        | .fault c l => .fault ⟨c, tvalWalk c l va⟩
        | .miss => .walk va
        | .hit e =>
          if !grants k e.r e.w e.x || (user && !e.u) then .fault ⟨0x0E, tvalVa e.level va⟩
          else .ok e (e.pa va)

/-- The kept-page rule (05 R101): `kept` for `kst` and the kept readers, `raw` for raw copies. -/
def keptFault (e : Extent) (kept raw : Bool) (va : Nat) : Option VFault :=
  if !raw && e.k != kept then some ⟨0x11, tvalVa e.level va⟩ else none

/-! ### The reads of a walk (19 R324, 21 R352) -/

/-- The addresses of the entries that a walk reads, at most `n` of them. -/
def State.readsFrom (s : State) (part va : Nat) : Nat → Nat → Nat → List Nat
  | 0, _, _ => []
  | n + 1, level, table =>
    let a := table + 8 * (va / 2 ^ levelShift level % 512)
    let e : Word := BitVec.ofNat 64 (memNat s.mem a 8)
    if getB e 0 && !s.entryBad part level e && getB e 1 then a :: s.readsFrom part va n (level + 1) (eAddr e) else [a]

/-- The entries that a walk of a die's translator reads. -/
def State.walkReads (s : State) (die part asid key va : Nat) : List Nat :=
  match (s.partAt part).asidOf asid key with
  | none => []
  | some a =>
    if !isHbm a.root || !(s.partAt part).owns a.root then []
    else match (s.dieAt die).deepest part asid a.gen va 4 with
      | some (w, l) => s.readsFrom part va 5 l (eAddr w.entry)
      | none => s.readsFrom part va 5 0 a.root

/-- The earliest end of a walk that began at a time, whose reads follow one another, and the slots that they overrun. -/
def State.walkEnd (s : State) (i va since : Nat) : Nat × List Nat :=
  (s.walkReads (dieOf i) (s.ctxAt i).part (s.ctxAt i).asid (s.ctxAt i).lkey va).foldl (fun t a =>
    let r := s.arrival (dieOf i) a t.1
    (r.1, t.2 ++ r.2)) (since, [])

/-- Whether a read of a walk would wait at its controller now (21 R352). -/
def State.walkHeld (s : State) (die part asid key va : Nat) : Bool :=
  (s.walkReads die part asid key va).any s.slotHolds

/-! ### Walks on demand (18 R315, 19 R326) -/

/-- An access of context `i`'s bundle waits for a walk, or for the host's extent (19 R326, 18 R315). -/
def State.askWalk (s : State) (i va : Nat) (k : AccKind) (slot : Nat) : State :=
  (s.reclaimAt i va).modCtxAt i (fun c =>
    if c.walkReq.isSome then c
    else { c with walkReq := some { unit := 0, va := va, kind := k, slot := slot, since := s.ptime, posted := false } })

/-- The walk of a page that queue `q`'s engine waits for. -/
def Ctx.engWalk (c : Ctx) (q va : Nat) (k : AccKind) : Option WalkReq :=
  c.engReqs.find? (fun w => w.unit == q && w.va / 4096 == va / 4096 && w.kind == k)

/-- An access of queue `q`'s engine of context `i` waits for a walk, or for the host's extent (18 R315). -/
def State.askEng (s : State) (i q va : Nat) (k : AccKind) : State :=
  (s.reclaimAt i va).modCtxAt i (fun c =>
    if (c.engWalk q va k).isSome then c
    else { c with engReqs := c.engReqs ++ [{ unit := q, va := va, kind := k, slot := 8, since := s.ptime, posted := false }] })

/-- What the walk of a page answers an access of an engine of context `i`. -/
def State.walkNow (s : State) (i va n : Nat) (k : AccKind) (user : Bool) : Xlat × State :=
  match (s.ctxAt i).block with
  | none => (.fault ⟨0x0B, tvalVa 7 va⟩, s)
  | some b => match b.lrec.dataRange va n with
    | none => (.fault ⟨0x0B, tvalVa 7 va⟩, s)
    | some h =>
      let (r, s) := s.formExtent i va h.key h.w
      match r with
      | .error e => (.fault ⟨e.1, tvalWalk e.1 e.2 va⟩, s)
      | .ok x =>
        if !grants k x.r x.w x.x || (user && !x.u) then (.fault ⟨0x0E, tvalVa x.level va⟩, s)
        else (.ok x (x.pa va), s)

/-- Translation for queue `q`'s engine of context `i`, and the slots that it overran. Where no extent matches a walk comes
first, whose reads may wait at their controllers (19 R326, 21 R352); under host walking the access waits for the host, which
may refuse it (18 R315). -/
def State.translateNow (s : State) (i q va n : Nat) (k : AccKind) (user : Bool) : Xlat × State × List Nat :=
  match s.translate i va n k user with
  | .walk v =>
    if getB s.pkg.duty 0 then
      (match (s.ctxAt i).engAns.find? (fun w => w.unit == q && w.page == va / 4096) with
      | some w => (.fault ⟨w.cause, tvalWalk w.cause w.level va⟩, s, [])
      | none => (.walk v, s.askEng i q va k, []))
    else (match (s.ctxAt i).engWalk q va k with
      | none => (.walk v, s.askEng i q va k, [])
      | some w =>
        let e := s.walkEnd i va w.since
        if s.ptime < e.1 then (.walk v, s, [])
        else let r := s.walkNow i va n k user; (r.1, r.2, e.2))
  | .ok e pa => (.ok e pa, s.modCtxAt i (·.useExtent e (va / 4096)), [])
  | .fault f => (.fault f, s, [])

end Sys2Proof.Machine
end

