-- ==== Sys2Proof/Machine/Access.lean ====
section
/-! DEFINITION. The S queue: checks, loads and stores of the virtual space and of the hearth window,
the L1 and the remote-data cache, acquires, releases and stalls (02 R41 to R49, R55, R58; 04 R83 to R93;
10 R221 to R235). -/

namespace Sys2Proof.Machine

/-! ### Waiting (01 R20, R21; 04 R85, R87, R91; log 20) -/

/-- Whether a waiting store reaches memory or a window. -/
def Store.isAccess (t : Store) : Bool := match t.kind with | .line _ _ | .window _ _ _ => true | _ => false

/-- Whether a waiting store is the place of a fence. -/
def Store.isFence (t : Store) (full : Bool) : Bool := match t.kind with | .fence f => f == full | _ => false

/-- Whether a join of the S queue holds later accesses (04 R91). -/
def Ctx.joinHolds (c : Ctx) : Bool := c.joins.any (fun j => j.s && !c.joinDone j)

/-- Whether a load of a page kind must wait for earlier accesses of its context (04 R85, R87, R91). -/
def Ctx.loadWaits (c : Ctx) (k : PageKind) : Bool :=
  c.joinHolds || (c.barHold && k != .un) || c.stores.any (fun t => t.isFence true
    || (k != .un && t.isAccess && t.page == .so) || (k == .so && t.isAccess && t.page != .un))

/-- Whether a window store, performed at its commit, must wait. -/
def Ctx.windowStoreWaits (c : Ctx) : Bool :=
  c.joinHolds || c.barHold || c.stores.any (fun t => t.isFence true || t.isFence false || (t.isAccess && t.page == .so))

/-- Whether an access to a window waits for a release of the context that still waits (02 R42): one to common bytes,
or, in the context's own footprint, any of its releases there, since those accesses keep program order (02 R41). -/
def Ctx.windowBusy (c : Ctx) (core off n : Nat) (own : Bool) : Bool :=
  c.stores.any (fun t => match t.kind with
    | .window k o m => k == core && (own || decide (o < off + n ∧ off < o + m))
    | _ => false)

/-- Whether an access waits for an operation of the M queue that a test picks (04 R84). While the head of the queue is held
with a fault none does: the fault is delivered only at a later bundle (09 R212; log 49). -/
def Ctx.mBefore (c : Ctx) (p : MOp → Bool) : Bool := c.heldOp.isNone && c.mq.any p

/-- Whether an access waits for an `mst` of the M queue. -/
def Ctx.mstBefore (c : Ctx) (p : MOp → Bool) : Bool := c.mBefore (fun o => o.kind == .mst && p o)

/-- Whether a load of the engine-register window waits (04 R87, R91). -/
def Ctx.engineWaits (c : Ctx) : Bool := c.joinHolds || c.stores.any (fun t => t.isFence true)

/-- The slot waits for earlier accesses. When some of them are gated the region closes, so that the
wait can end (10 R241, log 20). -/
def State.waitEarlier (s : State) : State :=
  let s := if s.ctx.stores.any (fun t => t.gated) then s.restart s.cur s.issue.pc s.issue.slot s.ctx.resume else s
  s.hold

/-- The slot waits for a walk, which for a data access is a post-issue condition: the bundle keeps the issue stage
(01 R20, 19 R326). -/
def State.needWalk (s : State) (va : Nat) (k : AccKind) : State :=
  ((s.askWalk s.cur va k s.issue.slot).modCtx (fun c => { c with posted := c.posted || k != .fetch })).hold

/-- The slot's access waits at the controller of a line, or at a port, and keeps the issue stage (21 R352; 01 R20). -/
def State.needHold (s : State) (l : Nat) : State :=
  (({ s with free := s.free + 1 } : State).modCtx (fun c =>
    { c with posted := true, hold := some { since := s.ptime, line := l, arr := s.arrNo s.cur l, waits := true } })).hold

/-- The time from which the post-issue conditions that a context is in count in LATCNT (01 R21). -/
def Ctx.latFrom (c : Ctx) : Option Nat :=
  let starts := (match c.stall with | some x => [x.since + x.free] | none => [])
    ++ (match c.walkReq with | some w => if w.kind = .fetch then [] else [w.since] | none => [])
    ++ (match c.hold with | some h => if h.waits then [h.since] else [] | none => [])
  starts.head?.map (fun a => starts.foldl Nat.min a)

/-- LATCNT counts the cycles of those conditions up to the present, each once. -/
def Ctx.countLat (c : Ctx) (now : Nat) : Ctx :=
  match c.latFrom with
  | none => c
  | some f => { c with latcnt := c.latcnt + BitVec.ofNat 64 (now - Nat.max f c.lat0), lat0 := Nat.max c.lat0 now }

/-- Joins a post-issue stall to the bundle in issue (01 R20, R21). -/
def State.addStall (s : State) (t : Nat × List Nat) (free : Nat) (lines : List Nat) (regs : List (RegId × Nat))
    (flags : List (Nat × BitVec 5)) : State :=
  s.modCtx (fun c =>
    let old := match c.stall with
      | some x => x
      | none => { since := s.ptime, earliest := 0, free := free, lines := [], regs := [], flags := [], overrun := [] }
    { c with stall := some { old with earliest := Nat.max old.earliest t.1, free := Nat.min old.free free,
                                      lines := old.lines ++ lines, regs := old.regs ++ regs,
                                      flags := old.flags ++ flags, overrun := old.overrun ++ t.2 } })

/-! ### Own stores (04 R84, 10 R231) -/

/-- A line with the newest bytes of the context's waiting stores over it. -/
def Ctx.forward (c : Ctx) (l : Nat) (base : Line) : Line :=
  c.stores.foldl (fun x t => match t.kind with
    | .line k _ => if k = l then mergeLine x t.data t.mask else x
    | _ => x) base

/-- The bytes of a line that waiting stores supply. -/
def Ctx.forwarded (c : Ctx) (l : Nat) : BitVec 64 :=
  c.stores.foldl (fun m t => match t.kind with
    | .line k _ => if k = l then m ||| t.mask else m
    | _ => m) 0

/-! ### Caches (02 R43 to R48) -/

/-- Keeps the first `n` lines of a set. -/
def trimSet (set : Nat) : Nat → List L1Line → List L1Line
  | _, [] => []
  | n, e :: t =>
    if e.vline % 64 = set then (match n with | 0 => trimSet set 0 t | m + 1 => e :: trimSet set m t)
    else e :: trimSet set n t

/-- A line becomes the most recently used of its set of four (02 R43). -/
def Core.l1Use (k : Core) (e : L1Line) : Core :=
  { k with l1 := trimSet (e.vline % 64) 4 (e :: k.l1.filter (fun x => !(x.asid == e.asid && x.vline == e.vline))),
           bad := k.bad.filter (fun b => b != .line e.asid e.vline) }

/-- The RDC line of a physical line, if present (02 R48). -/
def Die.rdcFind (d : Die) (part l : Nat) : Option RdcLine := d.rdc.find? (fun e => e.part == part && e.pline == l)

/-- The set of a line in the RDC: 32 MiB in 16 ways are 32,768 sets. The spec gives no index (log 9). -/
def rdcSet (l : Nat) : Nat := l % 32768

/-- Allocates an RDC line in place of what the partition holds of it; of a full set of 16 one gives way, by a free
value (02 R47, R48; log 9). -/
def Die.rdcAdd (d : Die) (e : RdcLine) (victim : Nat) : Die :=
  let rest := d.rdc.filter (fun x => !(x.part == e.part && x.pline == e.pline))
  let mates := rest.filter (fun x => rdcSet x.pline == rdcSet e.pline)
  match if mates.length < 16 then none else nth mates (victim % mates.length) with
  | some v => { d with rdc := e :: rest.filter (fun x => !(x.part == v.part && x.pline == v.pline)) }
  | none => { d with rdc := e :: rest }

/-- Whether a line goes through the die's RDC: homed on another die, or CXL. -/
def viaRdc (die pa : Nat) : Bool := !isHbm pa || homeDie pa != die

/-- The RDC line that serves a read of context `i`: none for one that goes to the home (`so`), nor for a line that the
context itself has changed behind the RDC (04 R84, log 41). -/
def State.rdcServes (s : State) (i l : Nat) (so : Bool) : Option RdcLine :=
  if viaRdc (dieOf i) (64 * l) && !so && !(s.ctxAt i).fresh.contains l then (s.dieAt (dieOf i)).rdcFind (s.ctxAt i).part l
  else none

/-- Reads a physical line for a context's load: its bytes, the state, its arrival, and the slots that it
overruns. `so` bypasses the caches (SO loads); a load that misses the RDC allocates a line there. An acquire, `acq`,
joins no merging window (02 R49). -/
def State.fetchLine (s : State) (i l : Nat) (so acq : Bool) : Line × State × (Nat × List Nat) :=
  let die := dieOf i
  match s.rdcServes i l so with
  | some e => (e.data, s, (s.ptime + 64, []))
  | none =>
    let d := memLine s.mem l
    let t := if acq then s.arrival die (64 * l) s.ptime else s.joinArrival die l s.ptime
    let s := s.homeRead l acq
    let s := { s with free := s.free + 1 }
    (d, (if viaRdc die (64 * l) && !so then
           s.modDieAt die (·.rdcAdd { part := (s.ctxAt i).part, pline := l, data := d } (Config.victimWay s.free))
         else s), t)

/-- Whether a read of context `i` reaches the controller of a line, or a port, and waits there (21 R352, 02 R56). -/
def State.readHeld (s : State) (i l : Nat) (so : Bool) : Bool :=
  (s.rdcServes i l so).isNone && !(isHbm (64 * l) && s.inL2 (64 * l)) && s.lineHeld l (s.arrNo i l)

/-- Whether a line holds data that memory could not correct, and no cache of the context's die serves
it (24 R381). -/
def State.poisonHit (s : State) (i l : Nat) (so : Bool) : Bool :=
  s.pkg.poisoned.contains l && (s.rdcServes i l so).isNone

/-- TVAL of uncorrectable-memory in a scratchpad or a tile. The rule names the line's physical address, and these have
none: a free value (log 19). -/
def State.badTval (s : State) : Word := BitVec.ofNat 64 (64 * ((Config.freeWord s.free).toNat % 2 ^ 58))

/-- The seals of a release at die scope or wider (04 R97). -/
def State.releaseSeals (s : State) (i : Nat) (sc : Scope) (n : Nat) : State :=
  if scopeWide sc then s.seal ((s.ctxAt i).sealed n false) else s

/-! ### Checks of one piece of an access (10 R221) -/

/-- What the checks of one piece of an S-queue access answer. -/
inductive Piece
  | virt (e : Extent) (pa : Nat)
  | win (core off : Nat)
  | faultA (code : Nat) (tval : Word)
  | faultB (code : Nat) (tval : Word)
  | walk (va : Nat)
  /-- It waits for earlier accesses of the context. -/
  | wait
  deriving DecidableEq, Repr

/-- Checks `n` bytes at an address of the virtual space or the window for the context in issue:
region, alignment, window bounds, range, translation, permission, kept page, ordering kind (19 R321).
`align` is the alignment that the entry asks for; `sync` an acquire, release or atomic. An address that is both
misaligned and in no region raises undeclared-access first here; the L slot checks its base before (log 44). -/
def State.piece (s : State) (ea : Word) (n align : Nat) (k : AccKind) (kept sync : Bool) : Piece :=
  match regionOf ea with
  | .virt va =>
    if va % align ≠ 0 then .faultA 0x09 ea
    else match s.translate s.cur va n k s.issue.user with
      | .fault f => .faultB f.code f.tval
      | .walk v => .walk v
      | .ok e pa => match keptFault e kept false va with
        | some f => .faultB f.code f.tval
        | none =>
          if sync && e.kind == .un then .faultB 0x0F ea
          else if k != .write && (s.ctx.loadWaits e.kind || s.ctx.mstBefore (·.meetsLine ea.toNat (pa / 64) (byteMask (pa % 64) n)))
            then .wait
          else .virt e pa
  | .window m byte =>
    if byte % align ≠ 0 then .faultA 0x09 ea
    else match s.windowAt s.cur m byte n with
      | none => .faultA 0x0A ea
      | some (core, off) =>
        let meets (o : MOp) : Bool := o.meets ea.toNat (byteMask (byte % 64) n)
        if kept then .faultA 0x11 ea
        else if s.ctx.windowBusy core off n (core == coreOf s.cur) || (k != .write && s.ctx.loadWaits .rc)
            || s.ctx.mstBefore meets || (k != .read && core != coreOf s.cur && s.ctx.mBefore meets)
            || (k != .read && !sync && s.ctx.windowStoreWaits) then .wait
        else .win core off
  | _ => .faultA 0x0B (tvalUndeclared ea)

/-- The state of a slot whose piece does not pass. -/
def State.stopped (s : State) (k : AccKind) (p : Piece) : State :=
  match p with
  | .faultA c t => s.faultA c t
  | .faultB c t => s.faultB c t
  | .walk va => s.needWalk va k
  | .wait => s.waitEarlier
  | _ => s

/-- Whether a piece passes. -/
def Piece.passes : Piece → Bool
  | .virt _ _ | .win _ _ => true
  | _ => false

/-! ### Scalar loads (10 R230, R231, R233) -/

/-- Whether the L1 holds a line of the context's address space, other than that of its address, of a physical line: a store
of the context leaves it as it was (02 R43; log 41). -/
def Core.l1Other (k : Core) (asid va l : Nat) : Bool := k.l1.any (fun x => x.asid == asid && x.pline == l && x.vline != va / 64)

/-- The L1 line that serves a scalar load of the context in issue (02 R43): none for an SO page, nor while an
invalidation is under way (10 R236), nor for a line that the context itself has changed behind it (log 41). -/
def State.l1Serves (s : State) (va l : Nat) (so : Bool) : Option L1Line :=
  if so || decide (s.ptime < s.ctx.l1busy) || s.ctx.fresh.contains l then none
  else (s.coreAt (coreOf s.cur)).l1Find s.ctx.asid va

/-- A scalar load of the virtual space that has passed its checks: served by the context's own waiting stores, the L1,
then the RDC or the home (10 R231). A load that misses allocates its line in the L1; an acquire has invalidated before
it looks there (02 R44; log 45). One that the context's own waiting stores serve whole is readable after 3 cycles (log 65). -/
def State.loadVirt (s : State) (d : SReg) (va pa n : Nat) (e : Extent) (conv : Nat → Word) (acq : Option Scope) : State :=
  let l := pa / 64; let i := s.cur; let so := e.kind == .so
  let s := s.modCtx (·.useExtent e (va / 4096))
  let noted (s : State) : State := s.modCtx (·.noteAccess va true false)
  let got (x : Line) : Word := conv (getF (s.ctx.forward l x) (8 * (pa % 64)) (8 * n))
  if s.ctx.forwarded l &&& byteMask (pa % 64) n == byteMask (pa % 64) n then (noted s).wS 3 d (got 0)
  else match s.l1Serves va l so with
  | some k =>
    if (s.coreAt (coreOf i)).bad.contains (.line k.asid k.vline) then s.faultB 0x19 (BitVec.ofNat 64 (64 * l))
    else ((noted s).modCoreAt (coreOf i) (·.l1Use k)).wS 3 d (got k.data)
  | none =>
    if s.readHeld i l so then s.needHold l
    else if s.poisonHit i l so then s.faultB 0x19 (BitVec.ofNat 64 (64 * l))
    else
      let (x, s, t) := (noted s).fetchLine i l so acq.isSome
      let s := if so then s
               else (s.modCoreAt (coreOf i) (·.l1Use { asid := s.ctx.asid, vline := va / 64, pline := l, data := x })).modCtx (fun c =>
                 { c with fresh := c.fresh.filter (fun x => x != l || (s.coreAt (coreOf i)).l1Other c.asid va l) })
      (s.wS 0 d (got x)).addStall t 3 [l] [(.s d, 0)] []

/-- A scalar load of `n` bytes; `acq` is the scope of an acquire load. -/
def State.loadScalar (s : State) (d : SReg) (ea : Word) (n : Nat) (conv : Nat → Word) (acq : Option Scope) : Out :=
  match regionOf ea with
  | .engine off =>
    if n ≠ 8 ∨ acq.isSome then .next (s.faultA 0x0B (tvalUndeclared ea))
    else if off % 8 ≠ 0 then .next (s.faultA 0x09 ea)
    else if !s.ctx.engineDeclared off then .next (s.faultA 0x0B (tvalUndeclared ea))
    else if s.ctx.engineWaits then .next s.waitEarlier
    else .next (s.wS 4 d (s.engineRead off))
  | _ =>
    match s.piece ea n n .read false acq.isSome with
    | .virt e pa =>
      let s := match acq with | some sc => s.acquire s.cur sc | none => s
      .next (s.loadVirt d (ea.toNat) pa n e conv acq)
    | .win core off =>
      if (s.coreAt core).badBytes off n then .next (s.faultA 0x19 s.badTval)
      else
        let s := match acq with | some sc => s.acquire s.cur sc | none => s
        .next (s.wS 6 d (conv (s.scratchNat core off n)))
    | p => .next (s.stopped .read p)

/-! ### Stores (10 R230, R233; 02 R42) -/

/-- A resource beyond the block's declaration (02 R34): undeclared-access with LEVEL 7. No address
faults, so the spec states no VA; it is a free value (log 19). -/
def State.faultUndeclared (s : State) : State :=
  ({ s with free := s.free + 1 } : State).faultA 0x0B (tvalVa 7 (Config.freeWord s.free).toNat)

/-- Adds a waiting store of the context in issue. It takes an entry of its own, that of its vector
store when `one` holds, or that of an earlier piece of its vector store in the same line (10 R232,
log 22). -/
def State.addStore (s : State) (gated : Bool) (kind : StoreKind) (va : Nat) (data : Line) (mask : BitVec 64)
    (page : PageKind) (scalar : Bool) (rel : Option Scope) (grp : Nat) (one : Bool) : State :=
  s.modCtx (fun c =>
    let mate := c.stores.find? (fun t => grp != 0 && t.grp == grp && (one || t.kind == kind))
    { c with stores := c.stores ++ [{ seq := c.seq, gated := gated, kind := kind, va := va, data := data, mask := mask,
                                      page := page, scalar := scalar, rel := rel, grp := grp,
                                      entry := (match mate with | some t => t.entry | none => c.seq), fwd := false,
                                      user := s.issue.user, time := s.ptime, arr := 0 }],
             seq := c.seq + 1 })

/-- Counts the distinct numbers of a list. -/
def distinct : List Nat → Nat
  | [] => 0
  | x :: t => if t.contains x then distinct t else 1 + distinct t

/-- Entries of the gated-store buffer that stores of a context take; window stores and fences take none. -/
def Ctx.entries (c : Ctx) (openOnly : Bool) : Nat :=
  distinct ((c.stores.filter (fun t => (t.gated || !openOnly) &&
    match t.kind with | .window _ _ _ | .fence _ => false | _ => true)).map (fun t => t.entry))

/-- The checks at issue of a store to the engine-register window (02 R50, 10 R250): the cause and TVAL. -/
def Ctx.engineCheck (c : Ctx) (off : Nat) (v : Word) : Option (Nat × Word) :=
  if off < 0x5000 then none
  else if off < 0x5800 then
    let n := (off - 0x5000) / 64
    let h := c.handle n
    let k := off % 64 / 8
    let bad := (0x14, BitVec.ofNat 64 n)
    if k = 0 then
      (if (range 0 16).any (fun i => hState h i != 0)
          || decide (c.scratch < getF v 0 20 + (getF v 40 4 + 1) * getF v 20 20) then some bad else none)
    else if k = 1 then (if v = 0 then none else some bad)
    else none
  else if off % 16 = 0 then (if getF v 45 2 = 0 then none else some (0x14, 31))
  else none

/-- A scalar store of `n` bytes; `rel` is the scope of a release. -/
def State.storeScalar (s : State) (ea : Word) (n : Nat) (v : Word) (rel : Option Scope) : Out :=
  let data := v.toNat % 2 ^ (8 * n)
  match regionOf ea with
  | .engine off =>
    if n ≠ 8 ∨ rel.isSome then .next (s.faultA 0x0B (tvalUndeclared ea))
    else if off % 8 ≠ 0 then .next (s.faultA 0x09 ea)
    else if !s.ctx.engineDeclared off then .next (s.faultA 0x0B (tvalUndeclared ea))
    else match s.ctx.engineCheck off v with
      | some (c, t) => .next (s.faultA c t)
      | none => .next (s.addStore true (.engine off) 0 (BitVec.ofNat 512 data) 0 .rc true none 0 false)
  | .transfer off =>
    if n ≠ 8 ∨ rel.isSome then .next (s.faultA 0x0B (tvalUndeclared ea))
    else if off % 8 ≠ 0 then .next (s.faultA 0x09 ea)
    else if !s.ctx.engineDeclared (64 * (data % 256)) then .next (s.faultA 0x0B (tvalUndeclared ea))
    else .next (s.addStore true (.start (off / 8)) 0 (BitVec.ofNat 512 data) 0 .rc true none 0 false)
  | .dict off =>
    if (n ≠ 4 ∧ n ≠ 8) ∨ rel.isSome then .next (s.faultA 0x0B (tvalUndeclared ea))
    else if off % n ≠ 0 then .next (s.faultA 0x09 ea)
    else .next (s.addStore true (.dict off n) 0 (BitVec.ofNat 512 data) 0 .rc true none 0 false)
  | _ =>
    match s.piece ea n n .write false rel.isSome with
    | .virt e pa =>
      let s := s.modCtx (·.useExtent e (ea.toNat / 4096))
      .next (s.addStore true (.line (pa / 64) false) ea.toNat (BitVec.ofNat 512 (data * 2 ^ (8 * (pa % 64))))
        (byteMask (pa % 64) n) e.kind true rel 0 false)
    | .win core off =>
      (match rel with
      | none => .next (s.scratchBytes s.cur 3 core off (natBytes n data))
      | some sc =>
        let gated := s.ctx.stores.any (fun t => t.gated)
        let s := s.addStore gated (.window core off n) 0 (BitVec.ofNat 512 data) 0 .rc true (some sc) 0 false
        .next (s.settle s.cur s.ctx.stores.length))
    | p => .next (s.stopped .write p)

/-! ### Lines of the L slot (10 R221 to R226, 02 R58) -/

/-- The first piece that does not pass, in order. -/
def firstBad : List Piece → Option Piece
  | [] => none
  | p :: t => if p.passes then firstBad t else some p

/-- Reads one checked line for the L slot: its bytes, the state, its arrival (none when the window or
the context's own stores serve it). -/
def State.readPiece (s : State) (ea : Word) (p : Piece) (m : BitVec 64) : Line × State × Option (Nat × (Nat × List Nat)) :=
  match p with
  | .win core off => (memLine (s.coreAt core).scratch (off / 64), s, none)
  | .virt e pa =>
    let l := pa / 64
    let s := s.modCtx (fun c => (c.useExtent e (ea.toNat / 4096)).noteAccess ea.toNat true false)
    if s.ctx.forwarded l &&& m = m then (s.ctx.forward l 0, s, none)
    else
      let (x, s, t) := s.fetchLine s.cur l (e.kind == .so) false
      (s.ctx.forward l x, s, some (l, t))
  | _ => (0, s, none)

/-- Reads the checked lines at addresses, in order: lines, state, physical lines and arrivals awaited. -/
def State.readPieces (s : State) : List (Word × Piece × BitVec 64) → List Line × State × List (Nat × (Nat × List Nat))
  | [] => ([], s, [])
  | (ea, p, m) :: t =>
    let (x, s, w) := s.readPiece ea p m
    let (xs, s, ws) := s.readPieces t
    (x :: xs, s, (match w with | some v => v :: ws | none => ws))

/-- A line that a load would read from a poisoned HBM line, or from SRAM with an error (see `State.badTval`). -/
def State.poisonOf (s : State) (p : Piece) (m : BitVec 64) : Option Nat :=
  match p with
  | .virt e pa =>
    let l := pa / 64
    if s.ctx.forwarded l &&& m ≠ m ∧ s.poisonHit s.cur l (e.kind == .so) then some l else none
  | .win core off => if (s.coreAt core).badLine (off / 64) m then some ((Config.freeWord s.free).toNat % 2 ^ 58) else none
  | _ => none

/-- The state of the first checked piece whose line cannot be read: an error in the window is a fault of class A, one in
a line of the virtual space of class B (10 R221). -/
def State.firstPoison (s : State) : List (Word × Piece × BitVec 64) → Option State
  | [] => none
  | (_, p, m) :: t => match s.poisonOf p m, p with
    | some l, .win _ _ => some (s.faultA 0x19 (BitVec.ofNat 64 (64 * l)))
    | some l, _ => some (s.faultB 0x19 (BitVec.ofNat 64 (64 * l)))
    | none, _ => s.firstPoison t

/-- The first line among checked pieces whose read waits at its controller, or at its port, where the lines before it,
`sent`, take places too (21 R352, 02 R56). -/
def State.firstHeld (s : State) : List (Word × Piece × BitVec 64) → List Nat → Option Nat
  | [], _ => none
  | (_, .virt e pa, m) :: t, sent =>
    let l := pa / 64; let so := e.kind == .so
    if s.ctx.forwarded l &&& m = m ∨ (s.rdcServes s.cur l so).isSome then s.firstHeld t sent
    else if s.readHeld s.cur l so || s.portFull l (sent.filter (fun x => cxlPort (64 * x) == cxlPort (64 * l))).length then some l
    else s.firstHeld t (l :: sent)
  | _ :: t, sent => s.firstHeld t sent

/-- The state in which checked pieces cannot be read yet, or at all. -/
def State.unread (s : State) (ps : List (Word × Piece × BitVec 64)) : Option State :=
  match s.firstHeld ps [] with
  | some l => some (s.needHold l)
  | none => s.firstPoison ps

/-- The stall of lines that are awaited: the latest arrival, the slots that requests overran. -/
def lastOf (ws : List (Nat × (Nat × List Nat))) : Nat × List Nat :=
  (ws.foldl (fun a w => Nat.max a w.2.1) 0, ws.flatMap (fun w => w.2.2))

/-- Ends a load into V[v]: with a stall when lines are awaited, `near` cycles otherwise (10 R222). -/
def State.loadDone (s : State) (v : VReg) (x : VWord) (ws : List (Nat × (Nat × List Nat))) (near far : Nat) : State :=
  match ws with
  | [] => s.wV near v x
  | _ => (s.wV 0 v x).addStall (lastOf ws) 0 (ws.map (fun w => w.1)) [(.v v, far)] []

/-- A load of lines: chunk `c` of V[v] from address `at_ c`, for the chunks with an unmasked lane. -/
def State.loadLines (s : State) (v : VReg) (q : QMask) (at_ : Nat → Word) : Out :=
  let cs := (range 0 8).filter (fun c => lineMask q c != 0)
  let ps := cs.map (fun c => (at_ c, s.piece (at_ c) 64 64 .read false false, lineMask q c))
  match firstBad (ps.map (fun p => p.2.1)) with
  | some p => .next (s.stopped .read p)
  | none => match s.unread ps with
    | some t => .next t
    | none =>
      let (xs, s, ws) := s.readPieces ps
      let new := ofLines (fun c => match (cs.zip xs).find? (fun e => e.1 == c) with | some e => e.2 | none => 0)
      .next (s.loadDone v (mergeLanes q (s.rV v) new) ws 6 2)

/-- Writes one checked line of the L slot: at once in the window, gated in the virtual space. -/
def State.writePiece (s : State) (grp : Nat) (one : Bool) (ea : Word) (p : Piece) (d : Line) (m : BitVec 64) : State :=
  match p with
  | .win core off => s.scratchLine s.cur 2 core off d m
  | .virt e pa =>
    (s.modCtx (·.useExtent e (ea.toNat / 4096))).addStore true (.line (pa / 64) false) ea.toNat d m e.kind false none grp one
  | _ => s

/-- A store of the lines of `x`: chunk `c` to address `at_ c`, in ascending order; `one` when it takes
one entry of the gated-store buffer. -/
def State.storeLines (s : State) (x : VWord) (q : QMask) (one : Bool) (at_ : Nat → Word) : State :=
  let cs := (range 0 8).filter (fun c => lineMask q c != 0)
  let ps := cs.map (fun c => (c, s.piece (at_ c) 64 64 .write false false))
  match firstBad (ps.map Prod.snd) with
  | some p => s.stopped .write p
  | none =>
    let g := s.ctx.seq + 1
    ps.foldl (fun s p => s.writePiece g one (at_ p.1) p.2 (vline x p.1) (lineMask q p.1)) s

/-! ### Lanes (10 R225) -/

/-- Reads a checked lane. -/
def State.readLane (s : State) (ea : Word) (p : Piece) : Nat × State × Option (Nat × (Nat × List Nat)) :=
  match p with
  | .win core off => (s.scratchNat core off 4, s, none)
  | .virt _ pa =>
    let m := byteMask (pa % 64) 4
    let (x, s, w) := s.readPiece ea p m
    (getF x (8 * (pa % 64)) 32, s, w)
  | _ => (0, s, none)

/-- Reads checked lanes in order. -/
def State.readLanes (s : State) : List (Word × Piece) → List Nat × State × List (Nat × (Nat × List Nat))
  | [] => ([], s, [])
  | (ea, p) :: t =>
    let (x, s, w) := s.readLane ea p
    let (xs, s, ws) := s.readLanes t
    (x :: xs, s, (match w with | some v => v :: ws | none => ws))

/-- Writes a checked lane. -/
def State.writeLane (s : State) (grp : Nat) (ea : Word) (p : Piece) (x : Nat) : State :=
  match p with
  | .win core off => s.scratchBytes s.cur 2 core off (natBytes 4 x)
  | .virt e pa =>
    (s.modCtx (·.useExtent e (ea.toNat / 4096))).addStore true (.line (pa / 64) false) ea.toNat
      (BitVec.ofNat 512 (x % 2 ^ 32 * 2 ^ (8 * (pa % 64)))) (byteMask (pa % 64) 4) e.kind false none grp false
  | _ => s

/-- The address of lane `j` (10 R225). -/
def laneAddr (base : Word) (x : VWord) (j : Nat) : Word := base + BitVec.ofNat 64 (4 * elem x 32 j)

/-- The unmasked lanes, in order. -/
def lanesOf (q : QMask) : List Nat := (range 0 128).filter (fun j => getB q j)

end Sys2Proof.Machine
end

