-- ==== Sys2Proof/Machine/Fetch.lean ====
section
/-! DEFINITION. Fetching a bundle's words through the code extents and the instruction buffer, and
assembling it, from the decode dictionary too (06 R116 to R133, 07 R151 to R153, 15 R281 to R283). -/

namespace Sys2Proof.Machine

/-- What a fetch answers: a value, a class A fault, a walk that is needed first, or a line that is not
in the instruction buffer yet. -/
inductive Fetch (α : Type)
  | ok (a : α)
  | fault (code : Nat) (tval : Word)
  | walk (va : Nat)
  | line (va : Nat)

/-- Goes on with a fetched value. -/
def Fetch.andThen {α β : Type} (x : Fetch α) (f : α → Fetch β) : Fetch β :=
  match x with
  | .ok a => f a
  | .fault c t => .fault c t
  | .walk va => .walk va
  | .line va => .line va

/-- The free choice between old and new words of a unit at this time (15 R283, 06 R133; log 6). -/
def State.newChoice (s : State) (i n : Nat) : Bool := Config.newUnit ((s.ptime * 2048 + i) * 2 ^ 64 + n)

/-- The word at a word address for context `i`. A line of the buffer gives its old or its new words. A fault names the address
of the word itself, of a later word of a bundle too (19 R330; log 63). -/
def State.codeWord (s : State) (i w : Nat) : Fetch SlotWord :=
  let va := 4 * w
  match (s.ctxAt i).block with
  | none => .fault 0x0B (tvalVa 7 va)
  | some b =>
    if !b.inCode va then .fault 0x0B (tvalVa 7 va)
    else match (s.ctxAt i).ibuf.find? (fun l => l.vline == va / 64 && (l.user || (s.ctxAt i).priv)) with
      | some l =>
        let new := memLine s.mem l.pline
        let d := if new = l.data then new else if s.newChoice i (va / 64) then new else l.data
        .ok (d.extractLsb' (32 * (w % 16)) 32)
      | none => match s.lookExtent i (va / 4096) codeKey with
        | .fault c l => .fault c (tvalWalk c l va)
        | .miss => .walk va
        | .hit e =>
          if !e.x || ((s.ctxAt i).user && !e.u) then .fault 0x0E (tvalVa e.level va)
          else if s.pkg.poisoned.contains (e.pa va / 64) then .fault 0x19 (BitVec.ofNat 64 (e.pa va / 64 * 64))
          else .line va

/-- The first `n` words from a word address. -/
def State.codeWords (s : State) (i : Nat) : Nat → Nat → Fetch (List SlotWord)
  | 0, _ => .ok []
  | n + 1, w => (s.codeWord i w).andThen (fun x => (s.codeWords i n (w + 1)).andThen (fun xs => .ok (x :: xs)))

/-- KIND of a header (06 R116). -/
def hKind (h : SlotWord) : Nat := getF h 30 2
/-- Whether a wide header's MASK holds slot `k`: SA is bit 29, E is bit 22 (06 R117). -/
def hHas (h : SlotWord) (k : Nat) : Bool := getB h (29 - k)
def hY (h : SlotWord) : Bool := getB h 21
def hRm (h : SlotWord) : Bool := getB h 20
def hRun (h : SlotWord) : Nat := getF h 8 12
/-- ENTRY of a dictionary header. -/
def hEntry (h : SlotWord) : Nat := getF h 20 10
/-- The slots of a mask, in order. -/
def hSlots (h : SlotWord) : List Nat := (range 0 8).filter (hHas h)
/-- The words of a bundle, from its header (06 R117 to R119). The spec gives a header of the reserved KIND 0b10 no
length; it counts as one word where the bundle after it is sought (log 52). -/
def hLength (h : SlotWord) : Nat :=
  match hKind h with
  | 0 => 1 + (hSlots h).length
  | 1 => 2
  | _ => 1

/-- A bundle as assembled: its words and the header that acts for it. -/
structure Bundle where
  pc : Nat
  first : SlotWord
  hdr : SlotWord
  words : List (Nat × SlotWord)
  len : Nat
  deriving DecidableEq, Repr

def Bundle.db (b : Bundle) : Bool := hKind b.first == 1
def Bundle.entry (b : Bundle) : Nat := if b.db then hEntry b.first else 0

/-- TVAL of a fault that names the header word (06 R121). -/
def tvalHeader (h : SlotWord) : Word :=
  if hKind h = 1 then BitVec.ofNat 64 (hEntry h * 2 ^ 36 + 2 ^ 35 + h.toNat) else BitVec.ofNat 64 h.toNat

/-- A unit of the dictionary as a bundle sees it, from its present value and the stores to it within the last 64 words of
bundles, the latest first: each store is seen, or its old value is (06 R133). -/
def State.unitView (s : State) (i n : Nat) : List DictPend → BitVec 64 → BitVec 64
  | [], v => v
  | p :: t, v => if s.newChoice i (2 ^ 62 + n * 2 ^ 20 + t.length) then v else s.unitView i n t p.old

/-- The entry as a dictionary bundle sees it, each unit independently of the others (06 R133). -/
def State.dictView (s : State) (i e : Nat) : Line :=
  let c := s.ctxAt i
  (range 0 8).foldl (fun d k =>
    setF d (64 * k) 64 (s.unitView i (e * 8 + k) (c.dictPend.reverse.filter (fun p => p.entry == e && p.dword == k))
      (d.extractLsb' (64 * k) 64)).toNat) (tget 0 c.dict e)

/-- A hole descriptor (06 R129). -/
structure Hole where
  slot : Nat
  off : Nat
  width : Nat
  deriving DecidableEq, Repr

/-- Hole descriptor `j` of an entry. -/
def holeBits (e : Line) (j : Nat) : Nat := getF e (288 + 16 * j) 16

/-- The enabled holes of an entry. -/
def holesOf (e : Line) : List Hole :=
  ((range 0 5).filter (fun j => (holeBits e j).testBit 15)).map (fun j =>
    let h := holeBits e j
    { slot := h / 2 ^ 12 % 8, off := h / 2 ^ 7 % 32, width := h % 16 + 1 })

/-- Whether a hole covers a bit of a slot. -/
def Hole.covers (h : Hole) (slot k : Nat) : Bool := h.slot == slot && decide (h.off ≤ k ∧ k < h.off + h.width)

/-- The rules of an entry's holes that do not depend on the bundle's hole bits (06 R131). -/
def holesOk (e : Line) : Bool :=
  let hs := holesOf e
  let hdr : SlotWord := e.extractLsb' 0 32
  let en := (range 0 5).map (fun j => (holeBits e j).testBit 15)
  hKind hdr == 0 && getF hdr 0 8 == 0 && (hY hdr || hRun hdr == 0)
    && (range 0 4).all (fun j => (nth en j).getD false || !(nth en (j + 1)).getD false)
    && (range 0 5).all (fun j => holeBits e j / 16 % 8 == 0)
    && hs.all (fun h => hHas hdr h.slot && decide (h.off + h.width ≤ 32))
    && (range 0 8).all (fun s => (range 0 32).all (fun k => decide ((hs.filter (fun h => h.covers s k)).length ≤ 1)))
    && decide (hs.foldl (fun n h => n + h.width) 0 ≤ 52)

/-- Fills the holes of the slot words from the hole bits, lowest first (06 R130). -/
def fillHoles : List Hole → Nat → (Nat → SlotWord) → Nat → SlotWord
  | [], _, w => w
  | h :: t, bits, w =>
    fillHoles t (bits / 2 ^ h.width) (fun k => if k = h.slot then setF (w k) h.off h.width bits else w k)

/-- Assembles a dictionary bundle, or answers its fault (06 R120 step 3, R130, R131). -/
def State.fromDict (s : State) (i pc : Nat) (h x : SlotWord) : Fetch Bundle :=
  let e := s.dictView i (hEntry h)
  if !getB e 480 then .fault 0x06 (tvalHeader h)
  else
    let hs := holesOf e
    let bits := x.toNat * 2 ^ 20 + getF h 0 20
    if !holesOk e || bits / 2 ^ (hs.foldl (fun n h => n + h.width) 0) != 0 then .fault 0x07 (tvalHeader h)
    else
      let hdr : SlotWord := e.extractLsb' 0 32
      let w := fillHoles hs bits (fun k => e.extractLsb' (32 + 32 * k) 32)
      .ok { pc := pc, first := h, hdr := hdr, words := (hSlots hdr).map (fun k => (k, w k)), len := 2 }

/-- Fetches and assembles the bundle at a word address: its words first, then steps 1 to 3 of the
checks at decode (06 R120, 15 R282). -/
def State.fetchBundle (s : State) (i pc : Nat) : Fetch Bundle :=
  (s.codeWord i pc).andThen (fun h =>
    if 2 ≤ hKind h then .fault 0x01 (tvalHeader h)
    else (s.codeWords i (hLength h - 1) (pc + 1)).andThen (fun ws =>
      if hKind h = 1 then s.fromDict i pc h ((ws.head?).getD 0)
      else if getF h 0 8 ≠ 0 ∨ (!hY h && hRun h != 0) then .fault 0x03 (tvalHeader h)
      else .ok { pc := pc, first := h, hdr := h, words := (hSlots h).zip ws, len := hLength h }))

/-- The word address after the bundle at a word address, from its header (07 R151). -/
def State.after (s : State) (i pc : Nat) : Fetch Nat := (s.codeWord i pc).andThen (fun h => .ok (pc + hLength h))

/-- The word address after both delay bundles of a transfer whose next bundle is at `next`. Nothing is fetched beyond a
marker (15 R281), after which the second delay bundle counts as one word (log 52). -/
def State.afterTwo (s : State) (i next : Nat) : Fetch Nat :=
  (s.codeWord i next).andThen (fun h => if hKind h = 3 then .ok (next + 2) else s.after i (next + hLength h))

end Sys2Proof.Machine
end

