-- ==== Sys2Proof/Machine/Control.lean ====
section
/-! DEFINITION. Transfers, hardware loops, block end, pause, traps and return (07 R150 to R163). What a
bundle does after its slots, such as the jump after two delay bundles, stands in Bundle. -/

namespace Sys2Proof.Machine

/-! ### Transfers (07 R150 to R152) -/

/-- A transfer, taken or not, to a word address: two delay bundles remain, and a trap among them saves that address
either way (07 R151, R161; log 38). -/
def State.transferTo (s : State) (taken : Bool) (target : Word) : State :=
  s.modCtx (fun c => { c with delay := some { left := 2, taken := taken, target := target } })

/-- Notes what the bundle's end is to do. -/
def State.atEnd (s : State) (f : Saved → Saved) : State := s.modCtx (fun c => { c with resume := f c.resume })

/-- The guard P[p] XOR N. -/
def State.guard (s : State) (p : PReg) (n : Bool) : Bool := s.rP p != n

def execBr (p : PReg) (n : Bool) (off : BitVec 22) (s : State) : Out :=
  .next (s.transferTo (s.guard p n) (s.issue.after2 + off.signExtend 64))

/-- The table of 07 R141 has no row for the link: s31 is readable after one cycle (log 53). -/
def execCall (p : PReg) (n : Bool) (off : BitVec 22) (s : State) : Out :=
  let t := s.transferTo (s.guard p n) (s.issue.after2 + off.signExtend 64)
  if s.guard p n then .next (t.wS 1 31 s.issue.after2) else .next t

def execJr (a : SReg) (s : State) : Out := .next (s.transferTo true (s.rS a))

def execCallr (a : SReg) (s : State) : Out := .next ((s.transferTo true (s.rS a)).wS 1 31 s.issue.after2)

/-! ### Loops (07 R154 to R157); the innermost level stands first -/

/-- Levels on the stack. -/
def Ctx.depth (c : Ctx) : Nat := c.loops.length

/-- Whether a bundle is the end bundle of a level on the stack. -/
def Ctx.endsLevel (c : Ctx) (pc : Word) : Bool := c.loops.any (fun l => l.stop == pc)

/-- The loop level of the pre-emptible level of a launch, if it marks one (01 R14). -/
def LRec.preLevel (r : LRec) : Option Nat :=
  if r.lt.any (fun e => e.pre) then some ((r.lt.takeWhile (fun e => !e.pre)).filter (fun e => e.kind == 2)).length
  else none

/-- The kind field of a level that the block pushes (01 R15). -/
def Ctx.levelKind (c : Ctx) (level : Nat) : Bool :=
  match c.block with | some b => b.lrec.preLevel == some level | none => false

/-- A loop fault names its level. -/
def levelWord (l : BitVec 3) : Word := l.setWidth 64

def execLpush (level : BitVec 3) (a : SReg) (stop : BitVec 18) (s : State) : Out :=
  let next := s.issue.next
  let last := next + stop.setWidth 64
  if s.ctx.depth = 6 then .next (s.faultA 0x17 0)
  else if level.toNat ≠ s.ctx.depth ∨ s.ctx.endsLevel last ∨ s.ctx.endsLevel s.issue.pc then
    .next (s.faultA 0x18 (levelWord level))
  else if s.rS a = 0 then
    match s.after s.cur last.toNat with
    | .ok n => .next (s.atEnd (fun z => { z with skip := some (BitVec.ofNat 64 n) }))
    | .fault c t => .next ((s.takeTrap s.cur c 0 t s.issue.pc 0 0).halted)
    | .walk va => .next (s.needWalk va .fetch)
    | .line _ => .next s.hold
  else .next (s.modCtx (fun c => { c with
    loops := { start := next, stop := last, count := s.rS a, index := 0, kind := c.levelKind level.toNat, brk := false } :: c.loops }))

def execLbrk (level : BitVec 3) (s : State) : Out :=
  match s.ctx.loops with
  | [] => .next (s.faultA 0x18 (levelWord level))
  | l :: t =>
    if level.toNat ≠ t.length then .next (s.faultA 0x18 (levelWord level))
    else .next (s.modCtx (fun c => { c with loops := { l with brk := true } :: t }))

def execLidx (level : BitVec 3) (d : SReg) (s : State) : Out :=
  match nth s.ctx.loops.reverse level.toNat with
  | some l => .next (s.wS 1 d l.index)
  | none => .next (s.faultA 0x18 (levelWord level))

/-! ### Block end, pause, traps, return (07 R158 to R162) -/

/-- The block ends with its bundle, whose other slots commit first; a held M operation is delivered
instead (09 R212). -/
def execExit (s : State) : Out :=
  if s.ctx.heldOp.isSome && s.ctx.inIssue.isNone then
    match s.ctx.heldOp.bind (fun o => o.held) with
    | some (code, tval) => .next (s.takeTrap s.cur code 2 tval s.issue.pc 0 0).halted
    | none => .next s
  else .next (s.atEnd (fun z => { z with exiting := true }))

/-- The context is paused in the next n cycles; `pause 0` has no effect. -/
def execPause (n : BitVec 16) (s : State) : Out :=
  if n = 0 then .next s else .next (s.modCtx (fun c => { c with pauseEnd := s.ptime + n.toNat + 1 }))

/-- Whether a context is paused in the present cycle: from the one after the commit on (01 R22). -/
def State.paused (s : State) (i : Nat) : Bool :=
  decide (s.ptime < (s.ctxAt i).pauseEnd) && (s.ctxAt i).issuedAt != some s.ptime

/-- It commits and then raises a cause in class A with SLOTRES 1 (07 R160). -/
def State.trapAfter (s : State) (code : Nat) (n : BitVec 16) : State :=
  (s.takeTrap s.cur code 0 (n.setWidth 64) s.issue.pc 1 0).halted

def execTrap (n : BitVec 16) (s : State) : Out := .next (s.trapAfter 0x1D n)

def execBrk (n : BitVec 16) (s : State) : Out := .next (s.trapAfter 0x1E n)

/-- The return of 07 R162; at user privilege a privilege fault. -/
def execRett (s : State) : Out :=
  if s.issue.user then .next (s.faultA 0x08 0)
  else .next ((s.leaveTrap s.cur).modIssue (fun k => { k with rett := true, stop := .trapped }))

end Sys2Proof.Machine
end

