-- ==== Sys2Proof/Machine/Memory.lean ====
section
/-! DEFINITION. The SB memory instructions but `probe`, and the lines of the L slot
(10 R221 to R226, R230 to R236, R238). -/

namespace Sys2Proof.Machine

/-- The slot waits on a named resource: the region closes and the bundle counts as marked (10 R241). -/
def State.waitResource (s : State) : State :=
  (s.restart s.cur s.issue.pc s.issue.slot s.ctx.resume).hold

/-! ### Scalar loads and stores (10 R230, R231) -/

/-- S[a] + sext(imm, n). -/
def State.addr {n : Nat} (s : State) (a : SReg) (i : BitVec n) : Word := s.rS a + i.signExtend 64

def execLdB (d a : SReg) (i : BitVec 16) (s : State) : Out := s.loadScalar d (s.addr a i) 1 (sext · 8) none
def execLdH (d a : SReg) (i : BitVec 16) (s : State) : Out := s.loadScalar d (s.addr a i) 2 (sext · 16) none
def execLdW (d a : SReg) (i : BitVec 16) (s : State) : Out := s.loadScalar d (s.addr a i) 4 (sext · 32) none
def execLdD (d a : SReg) (i : BitVec 16) (s : State) : Out := s.loadScalar d (s.addr a i) 8 (BitVec.ofNat 64) none
def execLdBu (d a : SReg) (i : BitVec 16) (s : State) : Out := s.loadScalar d (s.addr a i) 1 (BitVec.ofNat 64) none
def execLdHu (d a : SReg) (i : BitVec 16) (s : State) : Out := s.loadScalar d (s.addr a i) 2 (BitVec.ofNat 64) none
def execLdWu (d a : SReg) (i : BitVec 16) (s : State) : Out := s.loadScalar d (s.addr a i) 4 (BitVec.ofNat 64) none
def execStB (d a : SReg) (i : BitVec 16) (s : State) : Out := s.storeScalar (s.addr a i) 1 (s.rS d) none
def execStH (d a : SReg) (i : BitVec 16) (s : State) : Out := s.storeScalar (s.addr a i) 2 (s.rS d) none
def execStW (d a : SReg) (i : BitVec 16) (s : State) : Out := s.storeScalar (s.addr a i) 4 (s.rS d) none
def execStD (d a : SReg) (i : BitVec 16) (s : State) : Out := s.storeScalar (s.addr a i) 8 (s.rS d) none

/-! ### Acquire, release, fences (10 R233, R235; 04 R87) -/

def execLdAcq (d a : SReg) (sc : Scope) (z : Size) (o : BitVec 11) (s : State) : Out :=
  s.loadScalar d (s.addr a o) z.bytes (BitVec.ofNat 64) (some sc)

def execStRel (d a : SReg) (sc : Scope) (z : Size) (o : BitVec 11) (s : State) : Out :=
  s.storeScalar (s.addr a o) z.bytes (s.rS d) (some sc)

/-- Earlier loads and atomics are performed where they issue, so `fence.acq` only invalidates, once no `qfence`
holds the S queue (04 R91). `fence.rel` and `fence.full` take a place among the waiting stores and close the region;
`fence.full` invalidates when it is performed. -/
def execFence (sc : Scope) (k : FenceKind) (s : State) : Out :=
  let place (full : Bool) : State :=
    (s.addStore true (.fence full) 0 0 0 .rc true (some sc) 0 false).mark
  match k with
  | .acq => if s.ctx.engineWaits then .next s.waitEarlier else .next (s.acquire s.cur sc)
  | .rel => .next (place false)
  | .full => .next (place true)

/-! ### Atomics (10 R234; 04 R94, R97) -/

/-- The value that an `amo` writes, from the old value and the operand, in `n` bits. -/
def amoValue (op : AmoOp) (n : Nat) (x y : BitVec n) : BitVec n :=
  match op with
  | .add => x + y
  | .and => x &&& y
  | .or => x ||| y
  | .xor => x ^^^ y
  | .min => if y.slt x then y else x
  | .max => if x.slt y then y else x
  | .minu => if y.ult x then y else x
  | .maxu => if x.ult y then y else x
  | .swap => y

/-- Whether an atomic must wait: for a fence, a join, its own bytes, or, as a release, for every
earlier access to RC and SO pages. -/
def Ctx.atomicWaits (c : Ctx) (line : Option Nat) (rel : Bool) : Bool :=
  c.windowStoreWaits || c.stores.any (fun t =>
    (rel && t.isAccess && t.page != .un)
      || (match t.kind, line with | .line l _, some k => l == k | _, _ => false))

/-- What an atomic orders when it is performed: the seals of a release, the invalidations of an
acquire. -/
def State.atomicOrder (s : State) (sc : Scope) (acq rel : Bool) : State :=
  let s := if rel then s.releaseSeals s.cur sc s.ctx.seq else s
  if acq then s.acquire s.cur sc else s

/-- The write of an atomic at a line's home: applied whatever the tag, sealing the line. A `cas` that
fails writes nothing. -/
def State.atomicWrite (s : State) (pa n : Nat) (v : Option Nat) : State :=
  let l := pa / 64
  let c := s.ctx
  match v with
  | some x => s.storeSealed l (BitVec.ofNat 512 (x * 2 ^ (8 * (pa % 64)))) (byteMask (pa % 64) n) c.wid c.writer.1 c.writer.2
  | none =>
    let s := s.homeTouch l
    if isHbm pa then { s with tags := tset s.tags l (0x1000 ||| c.wid.setWidth 13) } else s

/-- Whether an atomic of the context in issue to a line waits at the line's controller, in the order in which accesses have
reached it (04 R94; 21 R352), or for an install of the line or the update of its write time (02 R49, 16 R286). -/
def State.atomicHeld (s : State) (l : Nat) : Bool :=
  s.readHeld s.cur l true || s.heldBefore l (s.arrNo s.cur l) || s.timeHeld l || decide (s.ptime < s.installed l)

/-- An atomic of `n` bytes: one indivisible read and write at the home or at the bank; S[d] receives
the old value, sign-extended. -/
def State.atomic (s : State) (d : SReg) (ea : Word) (n : Nat) (sc : Scope) (acq rel : Bool)
    (f : Nat → Option Nat) : Out :=
  match s.piece ea n n .readWrite false true with
  | .virt e pa =>
    let l := pa / 64
    let mine := byteMask (pa % 64) n
    if s.ctx.atomicWaits (some l) rel || s.ctx.mBefore (·.meetsLine ea.toNat l mine) || (e.kind == .so && s.ctx.stores.any (fun t => t.isAccess && t.page != .un))
    then .next s.waitEarlier
    else if s.atomicHeld l then .next ((s.shutWindow l).needHold l)
    else if s.poisonHit s.cur l true then .next (s.faultB 0x19 (BitVec.ofNat 64 (64 * l)))
    else
      let t := s.arrival (dieOf s.cur) pa s.ptime
      let t := (t.1, t.2 ++ s.timeOver (dieOf s.cur) pa s.ptime)
      let old := memNat s.mem pa n
      let behind := (s.coreAt (coreOf s.cur)).l1.any (fun x => x.asid == s.ctx.asid && x.pline == l)
        || ((s.dieAt (dieOf s.cur)).rdcFind s.ctx.part l).isSome
      let s := s.modCtx (fun c => ((if behind then c.noteFresh l else c).useExtent e (ea.toNat / 4096)).noteAccess ea.toNat true true)
      let s := (s.atomicWrite pa n (f old)).atomicOrder sc acq rel
      .next (((s.wS 0 d (sext old (8 * n))).addStall t 0 [l] [(.s d, 0)] []).mark)
  | .win core off =>
    if s.ctx.atomicWaits none rel then .next s.waitEarlier
    else if (s.coreAt core).badBytes off n then .next (s.faultA 0x19 s.badTval)
    else
      let old := s.scratchNat core off n
      let s := match f old with
        | some x => s.modCoreAt core (·.putBytes off (natBytes n x))
        | none => s
      .next (((s.atomicOrder sc acq rel).wS 8 d (sext old (8 * n))).mark)
  | p => .next (s.stopped .readWrite p)

/-- Bytes of an atomic: word or doubleword. -/
def atomicBytes (dbl : Bool) : Nat := if dbl then 8 else 4

def execAmo (d a b : SReg) (op : AmoOp) (dbl : Bool) (sc : Scope) (acq rel : Bool) (s : State) : Out :=
  let n := atomicBytes dbl
  let y := (s.rS b).toNat
  s.atomic d (s.rS a) n sc acq rel (fun old =>
    some (if dbl then (amoValue op 64 (BitVec.ofNat 64 old) (BitVec.ofNat 64 y)).toNat
          else (amoValue op 32 (BitVec.ofNat 32 old) (BitVec.ofNat 32 y)).toNat))

def execCas (d a b : SReg) (dbl : Bool) (sc : Scope) (acq rel : Bool) (s : State) : Out :=
  let n := atomicBytes dbl
  let y := (s.rS b).toNat % 2 ^ (8 * n)
  let x := (s.rS d).toNat % 2 ^ (8 * n)
  s.atomic d (s.rS a) n sc acq rel (fun old => if old = x then some y else none)

/-! ### L1 invalidation, write pointers (10 R236, R238) -/

/-- Drops the L1 lines of the issuing context's core that a test picks. -/
def State.l1Drop (s : State) (test : L1Line → Bool) : State :=
  s.modCoreAt (coreOf s.cur) (fun k => { k with l1 := k.l1.filter (fun e => !test e) })

/-- An invalidation of `n` lines is under way: until it is complete the L1 serves no load of the context. -/
def State.l1Busy (s : State) (n : Nat) : State :=
  s.modCtx (fun c => { c with l1busy := Nat.max c.l1busy (s.ptime + 1 + Nat.min ((n + 63) / 64) 4) })

def execL1inva (s : State) : Out := .next ((s.l1Drop (fun _ => true)).l1Busy 256)

def execL1inv (a b : SReg) (s : State) : Out :=
  let x := (s.rS a).toNat; let n := (s.rS b).toNat
  let lines := (x + n - 1) / 64 - x / 64 + 1
  if n = 0 then .next s
  else if 256 < lines then .next ((s.l1Drop (fun _ => true)).l1Busy 256)
  else .next ((s.l1Drop (fun e =>
    e.asid == s.ctx.asid && decide (x / 64 ≤ e.vline ∧ e.vline ≤ (x + n - 1) / 64))).l1Busy lines)

def execRdwp (d : SReg) (c : BitVec 4) (s : State) : Out := .next (s.wS 1 d (s.ctx.wp c.toNat))

/-! ### Lines of the L slot (10 R223 to R226) -/

/-- Chunk `c` of a contiguous access. -/
def chunkAt (ea : Word) (c : Nat) : Word := ea + BitVec.ofNat 64 (64 * c)

/-- S[s] + sext(imm13) × 64. -/
def State.lineAddr (s : State) (a : SReg) (i : BitVec 13) : Word := s.rS a + i.signExtend 64 * 64

/-- Every base must be a multiple of 64 (10 R221), whether or not a lane of it is unmasked. -/
def State.baseOk (ea : Word) : Bool := ea.toNat % 64 == 0

def execVld (v : VReg) (a : SReg) (q : QReg) (i : BitVec 13) (s : State) : Out :=
  let ea := s.lineAddr a i
  if State.baseOk ea then s.loadLines v (s.rQ q) (chunkAt ea) else .next (s.faultA 0x09 ea)

def execVst (v : VReg) (a : SReg) (q : QReg) (i : BitVec 13) (s : State) : Out :=
  let ea := s.lineAddr a i
  if State.baseOk ea then .next (s.storeLines (s.rV v) (s.rQ q) true (chunkAt ea)) else .next (s.faultA 0x09 ea)

/-- Chunk `c` of a strided access. -/
def strideAt (ea st : Word) (c : Nat) : Word := ea + BitVec.ofNat 64 c * st

def execVlds (v : VReg) (a : SReg) (q : QReg) (t : SReg) (s : State) : Out :=
  let ea := s.rS a; let st := s.rS t
  if !State.baseOk ea then .next (s.faultA 0x09 ea)
  else if !State.baseOk st then .next (s.faultA 0x09 (ea + st))
  else s.loadLines v (s.rQ q) (strideAt ea st)

def execVsts (v : VReg) (a : SReg) (q : QReg) (t : SReg) (s : State) : Out :=
  let ea := s.rS a; let st := s.rS t
  if !State.baseOk ea then .next (s.faultA 0x09 ea)
  else if !State.baseOk st then .next (s.faultA 0x09 (ea + st))
  else .next (s.storeLines (s.rV v) (s.rQ q) false (strideAt ea st))

def execVgth (v : VReg) (a : SReg) (q : QReg) (x : VReg) (s : State) : Out :=
  let base := s.rS a; let ix := s.rV x; let m := s.rQ q
  if base.toNat % 4 ≠ 0 then .next (s.faultA 0x09 base)
  else
    let js := lanesOf m
    let ps := js.map (fun j => (laneAddr base ix j, s.piece (laneAddr base ix j) 4 4 .read false false))
    match firstBad (ps.map Prod.snd) with
    | some p => .next (s.stopped .read p)
    | none => match s.unread (ps.map (fun p => (p.1, p.2, byteMask (p.1.toNat % 64) 4))) with
      | some t => .next t
      | none =>
        let (xs, s, ws) := s.readLanes ps
        let new := pack 32 128 (fun j => match (js.zip xs).find? (fun e => e.1 == j) with | some e => e.2 | none => 0)
        .next (s.loadDone v (mergeLanes m (s.rV v) new) ws 8 2)

def execVsct (v : VReg) (a : SReg) (q : QReg) (x : VReg) (s : State) : Out :=
  let base := s.rS a; let ix := s.rV x; let m := s.rQ q; let d := s.rV v
  if base.toNat % 4 ≠ 0 then .next (s.faultA 0x09 base)
  else
    let ps := (lanesOf m).map (fun j => (j, s.piece (laneAddr base ix j) 4 4 .write false false))
    match firstBad (ps.map Prod.snd) with
    | some p => .next (s.stopped .write p)
    | none =>
      let g := s.ctx.seq + 1
      .next (ps.foldl (fun s p => s.writeLane g (laneAddr base ix p.1) p.2 (elem d 32 p.1)) s)

/-- Handle `h` as a number. -/
def hNum (h : BitVec 5) : Word := h.setWidth 64

/-- The address of a handle-named line: a slot and an offset in 64-byte units (10 R226). -/
def Ctx.slotLine (c : Ctx) (h : BitVec 5) (slot : Nat) (i : BitVec 13) : Word :=
  c.handleWin h.toNat slot + BitVec.ofNat 64 (64 * i.toNat)

def execVldh (v : VReg) (h : BitVec 5) (q : QReg) (i : BitVec 13) (s : State) : Out :=
  let d := s.ctx.handle h.toNat
  let ea := s.ctx.slotLine h (hCP d) i
  if !s.ctx.handleOk h.toNat then .next (s.faultA 0x14 (hNum h))
  else if hSize d < 64 * i.toNat + 512 then .next (s.faultA 0x0A ea)
  else if hState d (hCP d) ≠ 2 then .next s.waitResource
  else s.loadLines v (s.rQ q) (chunkAt ea)

/-- Marks the slot at the producer pointer filling when it is free. -/
def Ctx.fillSlot (c : Ctx) (h : Nat) : Ctx :=
  let d := c.handle h
  if hState d (hPP d) = 0 then c.setHandle h (hSetState d (hPP d) 1) else c

def execVsth (v : VReg) (h : BitVec 5) (q : QReg) (i : BitVec 13) (s : State) : Out :=
  let d := s.ctx.handle h.toNat
  let ea := s.ctx.slotLine h (hPP d) i
  if !s.ctx.handleOk h.toNat then .next (s.faultA 0x14 (hNum h))
  else if hSize d < 64 * i.toNat + 512 then .next (s.faultA 0x0A ea)
  else if 2 ≤ hState d (hPP d) then .next s.waitResource
  else
    let t := s.storeLines (s.rV v) (s.rQ q) true (chunkAt ea)
    if t.issue.stop = s.issue.stop then .next ((t.modCtx (·.fillSlot h.toNat)).mark) else .next t

end Sys2Proof.Machine
end

