-- ==== Sys2Proof/Machine/Vector.lean ====
section
/-! DEFINITION. The V slot (08 R174 to R195). No V-slot instruction faults once it has issued; its
flags join FFLAGS when its result is written (03 R79). -/

namespace Sys2Proof.Machine

/-! ### Shapes -/

/-- An element-wise result on one source. -/
def State.vElt1 (s : State) (lat : Nat) (f : Fmt) (d a : VReg) (q : QReg) (g : Nat → Nat × BitVec 5) : Out :=
  let x := s.rV a
  .next (s.vRes lat d (eltwise f.width (s.rQ q) (s.rV d) (fun i => g (elem x f.width i))))

/-- An element-wise result on two sources. -/
def State.vElt2 (s : State) (lat : Nat) (f : Fmt) (d a b : VReg) (q : QReg) (g : Nat → Nat → Nat × BitVec 5) : Out :=
  let x := s.rV a; let y := s.rV b
  .next (s.vRes lat d (eltwise f.width (s.rQ q) (s.rV d) (fun i => g (elem x f.width i) (elem y f.width i))))

/-- An element-wise result on two sources and the destination (08 R178). -/
def State.vElt3 (s : State) (lat : Nat) (f : Fmt) (d a b : VReg) (q : QReg)
    (g : Nat → Nat → Nat → Nat × BitVec 5) : Out :=
  let x := s.rV a; let y := s.rV b; let z := s.rV d
  .next (s.vRes lat d (eltwise f.width (s.rQ q) z
    (fun i => g (elem x f.width i) (elem y f.width i) (elem z f.width i))))

/-! ### Element operations -/

/-- A signed integer in width `w`. -/
def wrapInt (w : Nat) (x : Int) : Nat := (x % (2 ^ w : Nat)).toNat

/-- A signed integer clamped to width `w`. -/
def satInt (w : Nat) (x : Int) : Nat :=
  wrapInt w (max (-(2 ^ (w - 1))) (min (2 ^ (w - 1) - 1) x))

/-- An integer operation that raises no flag. -/
def intOp (w : Nat) (sat : Bool) (g : Int → Int → Int) (x y : Nat) : Nat × BitVec 5 :=
  (if sat then satInt w (g (toInt x w) (toInt y w)) else wrapInt w (g (toInt x w) (toInt y w)), 0)

/-- Sum of two codes, the second negated for a difference. -/
def fpAdd (f : FSpec) (minus : Bool) (x y : Nat) : Nat × BitVec 5 :=
  let (v, inv) := (f.value x).add (if minus then (f.value y).negate else f.value y)
  let (c, fl) := f.ofVal v
  (c, fl ||| f.snan x ||| f.snan y ||| (if inv then fNV else 0))

/-- Product of two codes. -/
def fpMul (f : FSpec) (x y : Nat) : Nat × BitVec 5 :=
  let (v, inv) := (f.value x).mul (f.value y)
  let (c, fl) := f.ofVal v
  (c, fl ||| f.snan x ||| f.snan y ||| (if inv then fNV else 0))

/-- Fused product and sum, rounded once: ± x × y ± z (08 R178). -/
def fpFma (f : FSpec) (negP negZ : Bool) (x y z : Nat) : Nat × BitVec 5 :=
  let (p, inv) := (f.value x).mul (f.value y)
  let p := if negP then p.negate else p
  let (v, inv') := p.add (if negZ then (f.value z).negate else f.value z)
  let (c, fl) := f.ofVal v
  (c, fl ||| f.snan x ||| f.snan y ||| f.snan z ||| (if inv || inv' then fNV else 0))

/-- Adds the invalid flag of a signaling input to a function of one code (03 R67, R74). -/
def fpFun (f : FSpec) (g : FVal → Nat × BitVec 5) (x : Nat) : Nat × BitVec 5 :=
  let (c, fl) := g (f.value x)
  (c, fl ||| f.snan x)

/-- Higher or lower of two integers, signed or unsigned (08 R179). -/
def intExtreme (w : Nat) (mx u : Bool) (x y : Nat) : Nat :=
  let less (a b : Nat) : Bool := if u then decide (a < b) else decide (toInt a w < toInt b w)
  if mx then (if less x y then y else x) else (if less y x then y else x)

/-- |x| or −x in the format (08 R179). -/
def absOp (f : Fmt) (x : Nat) : Nat × BitVec 5 :=
  if f.isFL then
    (if (fmtSpec f).isNan x then (fmtSpec f).quiet x else (x % 2 ^ (f.width - 1), 0))
  else (wrapInt f.width (toInt x f.width).natAbs, 0)
def negOp (f : Fmt) (x : Nat) : Nat × BitVec 5 :=
  if f.isFL then
    (if (fmtSpec f).isNan x then (fmtSpec f).quiet x else (x ^^^ 2 ^ (f.width - 1), 0))
  else (wrapInt f.width (-(toInt x f.width)), 0)

/-- Greater than +0 and no NaN (08 R183). -/
def positiveIn (f : Fmt) (x : Nat) : Bool :=
  if f.isFL then (fmtSpec f).positive x else decide (0 < toInt x f.width)

/-- A value passed on by a ReLU: a NaN becomes canonical (08 R183). -/
def passIn (f : Fmt) (x : Nat) : Nat × BitVec 5 := if f.isFL then (fmtSpec f).quiet x else (x, 0)

/-! ### Arithmetic (08 R177 to R180) -/

def execVadd (f : Fmt) (d a b : VReg) (q : QReg) (sat : Bool) (s : State) : Out :=
  s.vElt2 2 f d a b q (if f.isFL then fpAdd (fmtSpec f) false else intOp f.width sat (· + ·))
def execVsub (f : Fmt) (d a b : VReg) (q : QReg) (sat : Bool) (s : State) : Out :=
  s.vElt2 2 f d a b q (if f.isFL then fpAdd (fmtSpec f) true else intOp f.width sat (· - ·))
def execVmul (f : Fmt) (d a b : VReg) (q : QReg) (s : State) : Out :=
  s.vElt2 3 f d a b q (if f.isFL then fpMul (fmtSpec f) else intOp f.width false (· * ·))
def execVfma (f : Fmt) (d a b : VReg) (q : QReg) (s : State) : Out :=
  s.vElt3 4 f d a b q (fpFma (fmtSpec f) false false)
def execVfms (f : Fmt) (d a b : VReg) (q : QReg) (s : State) : Out :=
  s.vElt3 4 f d a b q (fpFma (fmtSpec f) false true)
def execVfnma (f : Fmt) (d a b : VReg) (q : QReg) (s : State) : Out :=
  s.vElt3 4 f d a b q (fpFma (fmtSpec f) true false)
def execVmax (f : Fmt) (d a b : VReg) (q : QReg) (u : Bool) (s : State) : Out :=
  s.vElt2 2 f d a b q (fun x y => if f.isFL then (fmtSpec f).extreme true x y else (intExtreme f.width true u x y, 0))
def execVmin (f : Fmt) (d a b : VReg) (q : QReg) (u : Bool) (s : State) : Out :=
  s.vElt2 2 f d a b q (fun x y => if f.isFL then (fmtSpec f).extreme false x y else (intExtreme f.width false u x y, 0))
def execVabs (f : Fmt) (d a : VReg) (q : QReg) (s : State) : Out := s.vElt1 2 f d a q (absOp f)
def execVneg (f : Fmt) (d a : VReg) (q : QReg) (s : State) : Out := s.vElt1 2 f d a q (negOp f)
def execVexp2 (f : Fmt) (d a : VReg) (q : QReg) (s : State) : Out :=
  s.vElt1 10 f d a q (fpFun (fmtSpec f) (fmtSpec f).exp2)
def execVlog2 (f : Fmt) (d a : VReg) (q : QReg) (s : State) : Out :=
  s.vElt1 10 f d a q (fpFun (fmtSpec f) (fmtSpec f).log2)
def execVrcp (f : Fmt) (d a : VReg) (q : QReg) (s : State) : Out :=
  s.vElt1 10 f d a q (fpFun (fmtSpec f) (fmtSpec f).rcp)
def execVrsqrt (f : Fmt) (d a : VReg) (q : QReg) (s : State) : Out :=
  s.vElt1 10 f d a q (fpFun (fmtSpec f) (fmtSpec f).rsqrt)
def execVsqrt (f : Fmt) (d a : VReg) (q : QReg) (s : State) : Out :=
  s.vElt1 14 f d a q (fpFun (fmtSpec f) (fmtSpec f).sqrt)
def execVdiv (f : Fmt) (d a b : VReg) (q : QReg) (s : State) : Out :=
  let g := fmtSpec f
  s.vElt2 14 f d a b q (fun x y => let r := g.div (g.value x) (g.value y); (r.1, r.2 ||| g.snan x ||| g.snan y))

/-! ### Logic, shifts, ReLU (08 R181 to R183) -/

def execVand (f : Fmt) (d a b : VReg) (q : QReg) (s : State) : Out := s.vElt2 2 f d a b q (fun x y => (x &&& y, 0))
def execVor (f : Fmt) (d a b : VReg) (q : QReg) (s : State) : Out := s.vElt2 2 f d a b q (fun x y => (x ||| y, 0))
def execVxor (f : Fmt) (d a b : VReg) (q : QReg) (s : State) : Out := s.vElt2 2 f d a b q (fun x y => (x ^^^ y, 0))
def execVnot (f : Fmt) (d a : VReg) (q : QReg) (s : State) : Out :=
  s.vElt1 2 f d a q (fun x => (2 ^ f.width - 1 - x, 0))

/-- A right shift copying the sign. -/
def sarIn (w x m : Nat) : Nat := wrapInt w (toInt x w / 2 ^ m)

def execVshl (f : Fmt) (d a b : VReg) (q : QReg) (s : State) : Out :=
  s.vElt2 2 f d a b q (fun x y => (x * 2 ^ (y % f.width) % 2 ^ f.width, 0))
def execVshli (f : Fmt) (d a : VReg) (m : BitVec 5) (q : QReg) (s : State) : Out :=
  s.vElt1 2 f d a q (fun x => (x * 2 ^ m.toNat % 2 ^ f.width, 0))
def execVshr (f : Fmt) (d a b : VReg) (q : QReg) (s : State) : Out :=
  s.vElt2 2 f d a b q (fun x y => (x / 2 ^ (y % f.width), 0))
def execVshri (f : Fmt) (d a : VReg) (m : BitVec 5) (q : QReg) (s : State) : Out :=
  s.vElt1 2 f d a q (fun x => (x / 2 ^ m.toNat, 0))
def execVsar (f : Fmt) (d a b : VReg) (q : QReg) (s : State) : Out :=
  s.vElt2 2 f d a b q (fun x y => (sarIn f.width x (y % f.width), 0))
def execVsari (f : Fmt) (d a : VReg) (m : BitVec 5) (q : QReg) (s : State) : Out :=
  s.vElt1 2 f d a q (fun x => (sarIn f.width x m.toNat, 0))

def execVrelu (f : Fmt) (d a : VReg) (q : QReg) (s : State) : Out :=
  s.vElt1 2 f d a q (fun x =>
    if positiveIn f x then (x, 0) else if f.isFL && (fmtSpec f).isNan x then (fmtSpec f).quiet x else (0, 0))
def execVreluBwd (f : Fmt) (d a b : VReg) (q : QReg) (s : State) : Out :=
  s.vElt2 2 f d a b q (fun x y => if positiveIn f x then passIn f y else (0, 0))

/-! ### Compare and select (08 R184, R185) -/

/-- A condition on floating codes: a NaN makes eq, lt and le false (08 R184). -/
def fpCond (f : FSpec) (c : VCond) (x y : Nat) : Bool × BitVec 5 :=
  let n := f.isNan x || f.isNan y
  let sg := f.snan x ||| f.snan y
  let anyNan := if n then fNV else 0
  match c with
  | .eq => (!n && f.key x == f.key y, sg)
  | .ne => (n || f.key x != f.key y, sg)
  | .lt => (!n && decide (f.key x < f.key y), anyNan)
  | .le => (!n && decide (f.key x ≤ f.key y), anyNan)
  | .un => (n, sg)
  | .ltu | .leu => (false, 0)

/-- A condition on integers of width `w`. -/
def intCond (w : Nat) (c : VCond) (x y : Nat) : Bool :=
  match c with
  | .eq => x == y
  | .ne => x != y
  | .lt => decide (toInt x w < toInt y w)
  | .le => decide (toInt x w ≤ toInt y w)
  | .ltu => decide (x < y)
  | .leu => decide (x ≤ y)
  | .un => false

/-- The first `n` bits of a comparison mask, with its flags. -/
def cmpFrom (q d : QMask) (g : Nat → Bool × BitVec 5) : Nat → Nat × BitVec 5
  | 0 => (0, 0)
  | n + 1 =>
    let r := cmpFrom q d g n
    if getB q n then
      let x := g n
      (r.1 + bit x.1 * 2 ^ n, r.2 ||| x.2)
    else (r.1 + bit (getB d n) * 2 ^ n, r.2)

def execVcmp (f : Fmt) (d : QReg) (a b : VReg) (q : QReg) (k : BitVec 2) (c : VCond) (s : State) : Out :=
  let w := f.width; let x := s.rV a; let y := s.rV b
  let g (j : Nat) : Bool × BitVec 5 :=
    let i := j * (32 / w) + k.toNat
    if f.isFL then fpCond (fmtSpec f) c (elem x w i) (elem y w i) else (intCond w c (elem x w i) (elem y w i), 0)
  let r := cmpFrom (s.rQ q) (s.rQ d) g 128
  .next (s.qRes 2 d (BitVec.ofNat 128 r.1, r.2))

/-- Bits move by lane whatever the format. -/
def execVsel (_f : Fmt) (d a b : VReg) (q : QReg) (s : State) : Out :=
  .next (s.vRes 2 d (mergeLanes (s.rQ q) (s.rV b) (s.rV a), 0))
def execVmovv (_f : Fmt) (d a : VReg) (q : QReg) (s : State) : Out :=
  .next (s.vRes 2 d (mergeLanes (s.rQ q) (s.rV d) (s.rV a), 0))

/-! ### Conversion and rounding (03 R68; 08 R186, R187) -/

/-- Whether a format is an integer format. -/
def isInt (f : Fmt) : Bool := f.isIN

/-- A conversion between any two formats (03 R68). -/
def convertIn (src dst : Fmt) (x : Nat) : Nat × BitVec 5 :=
  if isInt src then
    let v := toInt x src.width
    if isInt dst then ((if dst.width < src.width then satInt dst.width v else wrapInt dst.width v), 0)
    else (fmtSpec dst).round (decide (v < 0)) v.natAbs 0 false
  else if isInt dst then toIntSat dst.width ((fmtSpec src).value x)
  else (fmtSpec src).convert (fmtSpec dst) x

def execVcvt (f : Fmt) (d a : VReg) (q : QReg) (k : BitVec 2) (src : Fmt) (s : State) : Out :=
  let ws := src.width; let wd := f.width
  let m := 4096 / Nat.max ws wd; let p := k.toNat
  let x := s.rV a
  let old := s.rV d
  -- the source element of destination element j; none outside the stretch
  let from? (j : Nat) : Option Nat :=
    if wd < ws then (if p * m ≤ j ∧ j < p * m + m then some (j - p * m) else none)
    else if ws < wd then some (p * m + j) else some j
  .next (s.vRes 2 d (eltwise wd (s.rQ q) old (fun j =>
    match from? j with
    | some i => convertIn src f (elem x ws i)
    | none => (elem old wd j, 0))))

def execVround (f : Fmt) (d a : VReg) (q : QReg) (k : RoundKind) (s : State) : Out :=
  s.vElt1 2 f d a q ((fmtSpec f).roundInt k)

/-! ### Broadcast, lane moves, permutes and slides (08 R188 to R190) -/

def execVbcast (f : Fmt) (d : VReg) (a : SReg) (q : QReg) (s : State) : Out :=
  let x := (s.rS a).toNat % 2 ^ f.width
  .next (s.vRes 2 d (eltwise f.width (s.rQ q) (s.rV d) (fun _ => (x, 0))))

def execVmovs (f : Fmt) (d : SReg) (a : VReg) (lo hi : BitVec 5) (s : State) : Out :=
  let x := elem (s.rV a) f.width (lo.toNat + 32 * hi.toNat)
  .next (s.sRes 3 d (if isInt f then sext x f.width else BitVec.ofNat 64 x))

def execViota (f : Fmt) (d : VReg) (a : SReg) (q : QReg) (s : State) : Out :=
  let x := (s.rS a).toNat
  .next (s.vRes 2 d (eltwise f.width (s.rQ q) (s.rV d) (fun i => ((x + i) % 2 ^ f.width, 0))))

def execVperm (f : Fmt) (d a b : VReg) (q : QReg) (s : State) : Out :=
  let x := s.rV a; let y := s.rV b; let w := f.width
  .next (s.vRes 3 d (eltwise w (s.rQ q) (s.rV d) (fun i =>
    let k := elem y w i
    (if k < 4096 / w then elem x w k else 0, 0))))

def execVslide (f : Fmt) (d a : VReg) (b : SReg) (q : QReg) (up : Bool) (s : State) : Out :=
  let x := s.rV a; let c := (s.rS b).toNat; let w := f.width; let n := 4096 / w
  .next (s.vRes 3 d (eltwise w (s.rQ q) (s.rV d) (fun i =>
    (if up then (if c ≤ i then elem x w (i - c) else 0) else (if i + c < n then elem x w (i + c) else 0), 0))))

/-! ### Reductions and classification (03 R76, R77; 08 R191, R192) -/

/-- One level of a pairwise tree. -/
def pairUp (g : Nat → Nat → Nat × BitVec 5) : List Nat → List Nat × BitVec 5
  | a :: b :: t =>
    let x := g a b; let r := pairUp g t
    (x.1 :: r.1, x.2 ||| r.2)
  | l => (l, 0)

/-- A pairwise tree of at most `n` levels. -/
def treeOf (g : Nat → Nat → Nat × BitVec 5) : Nat → List Nat → List Nat × BitVec 5
  | 0, l => (l, 0)
  | n + 1, l =>
    let r := pairUp g l
    let t := treeOf g n r.1
    (t.1, r.2 ||| t.2)

/-- The first element of a list of codes; 0 for none. -/
def headOf (l : List Nat) : Nat := match l with | x :: _ => x | [] => 0

/-- A floating sum in F32 over the fixed tree (03 R76). -/
def redSumF (f : FSpec) (xs : List Nat) : Nat × BitVec 5 :=
  let ws := xs.map (fun x => if f = fsF32 then (x, 0) else f.convert fsF32 x)
  let t := treeOf (fsF32.addCodes fsF32) 10 (ws.map Prod.fst)
  (headOf t.1, ws.foldl (fun a w => a ||| w.2) t.2)

/-- The position of the first element that no other element beats. -/
def firstBest (better : Nat → Nat → Bool) : List Nat → Nat → Nat × Nat → Nat × Nat
  | [], _, best => best
  | x :: t, i, best => firstBest better t (i + 1) (if better x best.2 then (i, x) else best)

/-- The rank of an element, with every NaN beyond the extreme (03 R77); the FP8 formats are sources of kept stores alone
(05 R104). -/
def redRank (f : Fmt) (mx : Bool) (x : Nat) : Int :=
  if f.isIN then toInt x f.width
  else if (fmtSpec f).isNan x then (if mx then 2 ^ 40 else -(2 ^ 40))
  else (fmtSpec f).rank x

/-- Index and code of the lowest element of extreme rank. -/
def redBest (f : Fmt) (mx : Bool) (xs : List Nat) : Nat × Nat :=
  firstBest (fun a b => if mx then decide (redRank f mx b < redRank f mx a) else decide (redRank f mx a < redRank f mx b))
    (xs.drop 1) 1 (0, headOf xs)

/-- The result of `vred` in lane 0 (08 R191). -/
def redResult (f : Fmt) (op : RedOp) (xs : List Nat) : Nat × BitVec 5 :=
  let ext (mx : Bool) : Nat × BitVec 5 :=
    let b := (redBest f mx xs).2
    if f.isFL then
      let g := fmtSpec f
      let fl := xs.foldl (fun a x => a ||| g.snan x) 0
      (if g.isNan b then fsF32.nan else if g = fsF32 then b else (g.convert fsF32 b).1, fl)
    else (wrapInt 32 (toInt b f.width), 0)
  match op with
  | .sum =>
    if f.isFL then redSumF (fmtSpec f) xs
    else (xs.foldl (fun a x => (a + wrapInt 32 (toInt x f.width)) % 2 ^ 32) 0, 0)
  | .max => ext true
  | .min => ext false
  | .argmax => ((redBest f true xs).1, 0)
  | .argmin => ((redBest f false xs).1, 0)

def execVred (f : Fmt) (d a : VReg) (op : RedOp) (s : State) : Out :=
  let r := redResult f op (elems (s.rV a) f.width (4096 / f.width))
  .next (s.vRes 6 d (BitVec.ofNat 4096 r.1, r.2))

def execVclass (f : Fmt) (d a : VReg) (q : QReg) (s : State) : Out :=
  s.vElt1 2 f d a q (fun x => ((fmtSpec f).cls x, 0))

/-! ### Quantize and dequantize (03 R69, R70; 08 R193, R194) -/

/-- The NARROW4 payload of a band: codes, block scales, band scale (05 R104, 08 R193). -/
def narrow4 (r : List Nat × List Nat × Nat × BitVec 5) : Nat :=
  let n := r.1.length
  ofElems 4 r.1 + (ofElems 8 r.2.1 + r.2.2.1 * 2 ^ (8 * r.2.1.length)) * 2 ^ (4 * n)

/-- The rows of K elements follow one another, so blocks of eight run through the band in order
whatever K is. -/
def execVqnt (d a : VReg) (_k : BitVec 3) (s : State) : Out :=
  let r := quantBand (elems (s.rV a) 32 128)
  .next (s.vRes 8 d (BitVec.ofNat 4096 (narrow4 r), r.2.2.2))

/-- An element of a NARROW4 band in F32 (03 R69, 08 R194). -/
def dequant (code bs band : Nat) : Nat × BitVec 5 :=
  let (v, inv) := scaledVal code bs band
  let r := fsF32.ofVal v
  (r.1, r.2 ||| (if inv then fNV else 0))

def execVdeq (d a : VReg) (_k : BitVec 3) (s : State) : Out :=
  let x := s.rV a
  let band := getF x 640 16
  .next (s.vRes 4 d (eltwise 32 (BitVec.allOnes 128) 0 (fun i =>
    dequant (elem x 4 i) (getF x (512 + 8 * (i / 8)) 8) band)))

/-! ### Mask logic (08 R195) -/

/-- A lane-mask result, readable after two cycles. -/
def State.qlog (s : State) (d : QReg) (x : QMask) : Out := .next (s.qRes 2 d (x, 0))

def execQand (d a b : QReg) (s : State) : Out := s.qlog d (s.rQ a &&& s.rQ b)
def execQor (d a b : QReg) (s : State) : Out := s.qlog d (s.rQ a ||| s.rQ b)
def execQxor (d a b : QReg) (s : State) : Out := s.qlog d (s.rQ a ^^^ s.rQ b)
def execQandn (d a b : QReg) (s : State) : Out := s.qlog d (s.rQ a &&& ~~~(s.rQ b))
def execQnot (d a : QReg) (s : State) : Out := s.qlog d (~~~(s.rQ a))
def execQmov (d a : QReg) (s : State) : Out := s.qlog d (s.rQ a)

end Sys2Proof.Machine
end

