-- ==== Sys2Proof/Machine/Kept.lean ====
section
/-! DEFINITION. Kept stores and kept readers (05 R101 to R111; 10 R227 to R229). -/

namespace Sys2Proof.Machine

/-! ### CRC-32C (05 R102) -/

/-- One bit of the reflected CRC. -/
def crcBit : Nat → Nat → Nat
  | 0, c => c
  | n + 1, c => crcBit n (if c % 2 = 1 then (c / 2) ^^^ 0x82F63B78 else c / 2)

/-- The CRC-32C of a byte string. -/
def crc32c (bs : List Byte) : Nat :=
  (bs.foldl (fun c b => crcBit 8 (c ^^^ b.toNat)) 0xFFFFFFFF) ^^^ 0xFFFFFFFF

/-! ### Forms (05 R103, R104) -/

/-- Kept forms, by code: 1 SIGN, 2 ARGMAX, 3 NARROW4, 4 FULL16, 5 FULL32. -/
def keptForm : KClass → Nat
  | .relub => 1 | .maxpb => 2 | .e2m1 => 3 | .deq => 3 | .ldk => 4 | .ldk32 => 5

/-- The form that a reader class selects; 0 for a reserved class. -/
def formOf (rdr : Nat) : Nat := if rdr = 0 ∨ 6 < rdr then 0 else keptForm (KClass.ofCode rdr)

/-- The payload length of a form. -/
def payloadLen (form n win : Nat) : Nat :=
  match form with
  | 1 => n / 8
  | 2 => n / win
  | 3 => n / 2 + n / 8 + 2
  | 4 => 2 * n
  | _ => 4 * n

/-- The source format of a kept store. -/
def kfmtFmt : KFmt → Fmt
  | .f32 => .f32 | .bf16 => .bf16 | .f16 => .f16 | .e4m3 => .e4m3

/-- A code widened exactly to F32; NaN stays NaN. An F32 element goes into a FULL32 tile as it stands, a NaN with its
payload too: R104 says so of BF16 in FULL16 alone, and R67's canonical NaN is for computed results (log 46). -/
def widen (f : FSpec) (x : Nat) : Nat := if f = fsF32 then x else (f.convert fsF32 x).1

/-- The offset of the lowest element of highest rank in a window. -/
def maxOffset (f : Fmt) (xs : List Nat) : Nat := (redBest f true xs).1

/-- The payload of a kept store and the flags it raises (05 R104, R105): packed bits and flags. -/
def payload (form : Nat) (f : Fmt) (win : Nat) (xs : List Nat) : Nat × BitVec 5 :=
  let g := fmtSpec f
  match form with
  | 1 => (ofElems 1 (xs.map (fun x => bit (g.positive x))), 0)
  | 2 => (ofElems 8 ((chunks win (xs.length / win) xs).map (maxOffset f)), 0)
  | 3 =>
    let r := quantBand (xs.map (widen g))
    (narrow4 r, r.2.2.2)
  | 4 =>
    if f = .bf16 then (ofElems 16 xs, 0)
    else
      let ys := xs.map (g.convert fsBF16)
      (ofElems 16 (ys.map Prod.fst), ys.foldl (fun a y => a ||| y.2) 0)
  | _ => (ofElems 32 (xs.map (widen g)), 0)

/-! ### The header (05 R102) -/

def kRdr (h : Line) : Nat := getF h 0 6
def kForm (h : Line) : Nat := getF h 6 4
def kSuff (h : Line) : Bool := getB h 10
def kSfmt (h : Line) : Nat := getF h 12 2
def kNelem (h : Line) : Nat := getF h 16 10
def kRows (h : Line) : Nat := getF h 26 10
def kCols (h : Line) : Nat := getF h 36 10
def kWin (h : Line) : Nat := getF h 46 7
def kCrc (h : Line) : Nat := getF h 160 32
def kPlen (h : Line) : Nat := getF h 192 32

/-- The header of a kept store. -/
def header (rdr form suff sfmt nelem cols win stime wtag crc plen : Nat) : Line :=
  BitVec.ofNat 512 (rdr + form * 2 ^ 6 + suff * 2 ^ 10 + sfmt * 2 ^ 12 + nelem * 2 ^ 16 + nelem / cols * 2 ^ 26
    + cols * 2 ^ 36 + win * 2 ^ 46 + stime % 2 ^ 64 * 2 ^ 64 + wtag * 2 ^ 128 + crc * 2 ^ 160 + plen * 2 ^ 192)

/-- A well-formed header of the tile at an address (05 R109). -/
def headerOk (h : Line) (va : Nat) : Bool :=
  let n := kNelem h; let c := kCols h; let w := kWin h; let f := kForm h
  getB h 11 == false && getF h 14 2 == 0 && getF h 53 11 == 0 && getF h 140 20 == 0 && getF h 224 288 == 0
    && (n == 128 || n == 256 || n == 512)
    && decide (1 ≤ c ∧ c ≤ n ∧ n % c = 0 ∧ kRows h = n / c)
    && (if f = 2 then decide (2 ≤ w ∧ w ≤ 64 ∧ c % w = 0) else w == 0)
    && (f != 3 || c % 8 == 0)
    && f != 0 && f == formOf (kRdr h)
    && kPlen h == payloadLen f n w
    && decide (va % 4096 + 64 + kPlen h ≤ 4096)

/-- The kept readers. -/
inductive KReader | vrelub | vmaxpb | vldk | vdeqk | mma
  deriving DecidableEq, Repr

/-- The named reader of a class (05 R103). -/
def namedReader (rdr : Nat) : Option KReader :=
  match rdr with
  | 1 => some .vrelub | 2 => some .vmaxpb | 3 => some .mma | 4 => some .vdeqk | 5 => some .vldk | 6 => some .vldk
  | _ => none

/-- The sufficiency table's accepted pairs (05 R111). -/
def accepts (r : KReader) (form : Nat) : Bool :=
  match r with
  | .vrelub => form == 1 || form == 4 || form == 5
  | .vmaxpb => form == 2 || form == 4 || form == 5
  | .vldk => form == 4 || form == 5
  | .vdeqk | .mma => form == 3

/-- Whether a reader accepts a header (05 R109). -/
def accepted (r : KReader) (h : Line) (va : Nat) : Bool :=
  headerOk h va && (if kSuff h then accepts r (kForm h) else namedReader (kRdr h) == some r)

/-- TVAL of an acceptance fault: the tile address with the stored reader class (05 R109). -/
def tvalTile (ea : Word) (h : Line) : Word := setF ea 0 6 (kRdr h)

/-- Payload bytes from the payload's lines. -/
def payloadBytes (ls : List Line) (plen : Nat) : List Byte :=
  (ls.flatMap (fun l => natBytes 64 l.toNat)).take plen

/-- Whether the payload matches the header's CRC (05 R110). -/
def crcOk (h : Line) (ls : List Line) : Bool := crc32c (payloadBytes ls (kPlen h)) == kCrc h

/-- The payload as one number. -/
def payloadNat (ls : List Line) : Nat := ofElems 512 (ls.map (fun l => l.toNat))

/-- The positive test of element `i` on the values that a form holds (05 R104, 10 R229). -/
def storedPositive (form p i : Nat) : Bool :=
  match form with
  | 1 => p.testBit i
  | 4 => fsBF16.positive (p / 2 ^ (16 * i) % 2 ^ 16)
  | _ => fsF32.positive (p / 2 ^ (32 * i) % 2 ^ 32)

/-- The maximum's offset in window `w` of a tile (10 R229). -/
def storedOffset (form p win w : Nat) : Nat :=
  match form with
  | 2 => p / 2 ^ (8 * w) % 256
  | 4 => maxOffset .bf16 ((range (w * win) win).map (fun i => p / 2 ^ (16 * i) % 2 ^ 16))
  | _ => maxOffset .f32 ((range (w * win) win).map (fun i => p / 2 ^ (32 * i) % 2 ^ 32))

/-- Element `i` of a NARROW4 payload of `n` elements in F32 (03 R69, 08 R194). -/
def narrowElem (p n i : Nat) : Nat × BitVec 5 :=
  dequant (p / 2 ^ (4 * i) % 16) (p / 2 ^ (4 * n + 8 * (i / 8)) % 256) (p / 2 ^ (5 * n) % 2 ^ 16)

/-! ### kst (05 R107, R108; 10 R227) -/

/-- Whether a shape word passes the first check of 05 R107. -/
def shapeOk (form n : Nat) (t : Word) : Bool :=
  let cols := getF t 0 10; let win := getF t 16 7
  getF t 48 16 == 0 && getF t 33 7 == 0 && getF t 23 9 == 0 && getF t 10 6 == 0
    && cols != 0 && decide (cols ≤ 512) && n % cols == 0
    && (form != 3 || cols % 8 == 0)
    && (if form = 2 then decide (2 ≤ win ∧ win ≤ 64 ∧ cols % win = 0) else win == 0)

/-- Whether a piece fails the kept-page check. -/
def Piece.isPlain : Piece → Bool
  | .faultA c _ | .faultB c _ => c == 0x11
  | _ => false

/-- The first piece that does not pass: step 4 of 05 R107 for every line comes before step 5 for any. -/
def firstOf (ps : List Piece) : Option Piece :=
  match firstBad (ps.filter (fun p => !p.isPlain)) with
  | some p => some p
  | none => firstBad ps

def execKst (v : VReg) (a t : SReg) (c : KClass) (f : KFmt) (s : State) : Out :=
  let ea := s.rS a; let w := s.rS t; let fm := kfmtFmt f
  let n := fm.count; let form := keptForm c
  let cols := getF w 0 10; let win := getF w 16 7; let alloc := getF w 40 8
  if !shapeOk form n w then .next (s.faultWord 0x03)
  else if ea.toNat % 64 ≠ 0 ∨ 4096 < ea.toNat % 4096 + 64 * alloc then .next (s.faultA 0x09 ea)
  else
    let plen := payloadLen form n win
    let lines := (plen + 63) / 64
    if 64 * alloc < 64 + 64 * lines then .next (s.faultA 0x12 ea)
    else
      let ps := (range 0 (lines + 1)).map (fun i => (i, s.piece (chunkAt ea i) 64 64 .write true false))
      match firstOf (ps.map Prod.snd) with
      | some p => .next (s.stopped .write p)
      | none =>
        let (data, fl) := payload form fm win (elems (s.rV v) fm.width n)
        let crc := crc32c (natBytes plen data)
        let h := header c.code form (bit (getB w 32)) f.code n cols win s.ptime s.ctx.wid.toNat crc plen
        let g := s.ctx.seq + 1
        let put (s : State) (hdr : Bool) (i : Nat) (p : Piece) (d : Line) : State :=
          match p with
          | .virt e pa =>
            (s.modCtx (·.useExtent e ((chunkAt ea i).toNat / 4096))).addStore true (.line (pa / 64) hdr) (chunkAt ea i).toNat d (BitVec.allOnes 64)
              e.kind false none g false
          | _ => s
        let s := (ps.drop 1).foldl (fun s p =>
          put s false p.1 p.2 (BitVec.ofNat 512 (data / 2 ^ (512 * (p.1 - 1))))) s
        let s := (ps.take 1).foldl (fun s p => put s true p.1 p.2 h) s
        .next (s.modCtx (·.orFlags fl))

/-! ### Kept readers (10 R228, R229) -/

/-- The payload lines of a tile whose header is not yet examined: those that PLEN names, up to the end of the page
(log 47). -/
def payloadLines (h : Line) (va : Nat) : Nat := Nat.min ((kPlen h + 63) / 64) ((4096 - va % 4096) / 64 - 1)

/-- A kept reader's result: its value and flags from the header and the payload; none for a tile that
breaks the requirements of 10 R229. Faults in reaching the header and the payload lines come before the header is
examined (05 R109). The CRC is checked before those requirements (log 47). A read that faults is not performed. -/
def State.readTile (s : State) (v : VReg) (ea : Word) (r : KReader) (lat : Nat)
    (f : Line → Nat → Option (VWord × BitVec 5)) : Out :=
  if ea.toNat % 64 ≠ 0 then .next (s.faultA 0x09 ea)
  else
    let p0 := s.piece ea 64 64 .read true false
    if !p0.passes then .next (s.stopped .read p0)
    else match s.unread [(ea, p0, BitVec.allOnes 64)] with
    | some t => .next t
    | none =>
      let h := (s.readPiece ea p0 (BitVec.allOnes 64)).1
      let ps := (range 1 (payloadLines h ea.toNat)).map (fun i =>
        (chunkAt ea i, s.piece (chunkAt ea i) 64 64 .read true false, BitVec.allOnes 64))
      match firstBad (ps.map (fun p => p.2.1)) with
      | some p => .next (s.stopped .read p)
      | none => match s.unread ps with
        | some t => .next t
        | none =>
          if !accepted r h ea.toNat then .next (s.faultA 0x10 (tvalTile ea h))
          else
            let (ls, t, ws) := s.readPieces ((ea, p0, BitVec.allOnes 64) :: ps)
            let hdrPa := match p0 with | .virt _ pa => pa | _ => 0
            if !crcOk h (ls.drop 1) then .next (s.faultA 0x19 (BitVec.ofNat 64 hdrPa))
            else match f h (payloadNat (ls.drop 1)) with
              | none => .next (s.faultA 0x10 (tvalTile ea h))
              | some (x, fl) => match ws with
                | [] => .next (t.vRes lat v (x, fl))
                | _ => .next ((t.wV 0 v x).addStall (lastOf ws) 0 (ws.map (fun w => w.1)) [(.v v, lat)] [(lat, fl)])

/-- The format of `vrelub` and `vmaxpb`. -/
def rfmtFmt : RFmt → Fmt
  | .f32 => .f32 | .bf16 => .bf16 | .f16 => .f16

def execVrelub (v g : VReg) (a : SReg) (f : RFmt) (s : State) : Out :=
  let fm := rfmtFmt f; let grad := s.rV g; let w := fm.width
  s.readTile v (s.rS a) .vrelub 6 (fun h p =>
    if kNelem h ≠ 4096 / w then none
    else some (eltwise w (BitVec.allOnes 128) 0 (fun i =>
      if storedPositive (kForm h) p i then (fmtSpec fm).quiet (elem grad w i) else (0, 0))))

def execVmaxpb (v g : VReg) (a : SReg) (win : BitVec 6) (f : RFmt) (s : State) : Out :=
  let fm := rfmtFmt f; let grad := s.rV g; let w := fm.width; let n := win.toNat + 1
  s.readTile v (s.rS a) .vmaxpb 6 (fun h p =>
    let cols := kCols h
    if kNelem h ≠ 4096 / w ∨ !(if kForm h = 2 then kWin h == n else cols % n == 0) then none
    else some (eltwise w (BitVec.allOnes 128) 0 (fun i =>
      let k := i / cols * (cols / n) + i % cols / n
      if i % n = storedOffset (kForm h) p n k then (fmtSpec fm).quiet (elem grad w k) else (0, 0))))

def execVldk (v : VReg) (a : SReg) (k : BitVec 2) (s : State) : Out :=
  s.readTile v (s.rS a) .vldk 6 (fun h p =>
    some (BitVec.ofNat 4096 (p % 2 ^ (8 * kPlen h) / 2 ^ (4096 * k.toNat)), 0))

def execVdeqk (v : VReg) (a : SReg) (k : BitVec 2) (s : State) : Out :=
  s.readTile v (s.rS a) .vdeqk 8 (fun h p =>
    let n := kNelem h
    some (eltwise 32 (BitVec.allOnes 128) 0 (fun i =>
      let j := 128 * k.toNat + i
      if j < n then narrowElem p n j else (0, 0))))

end Sys2Proof.Machine
end

