-- ==== Sys2Proof/Machine/Matrix.lean ====
section
/-! DEFINITION. The M slot: geometry sets, the M queue, operands, row progress (03 R71, R72;
09 R200 to R216). -/

namespace Sys2Proof.Machine

/-! ### Geometry sets (09 R200, R204) -/

/-- The check of a captured set (09 R204). -/
def gsetUsable (g : Line) (e2m1 : Bool) : Bool :=
  !gErr g && gM g != 0 && gN g != 0 && gK g != 0 && (!e2m1 || decide (gK g % 8 = 0 ∧ gK g ≤ 1024))

/-! ### Formats (03 R71, 09 R203) -/

/-- The format of an operand code. -/
def mfmtSpec : MFmt → FSpec
  | .bf16 => fsBF16 | .f16 => fsF16 | .e4m3 => fsE4M3 | .e5m2 => fsE5M2 | .e2m1 => fsE2M1
/-- The wider of two widths. -/
def mWide (a b : MFmt) : Nat := Nat.max (mfmtBits a) (mfmtBits b)
/-- The group size of R71. -/
def mGroup (a b : MFmt) : Nat := 256 / mWide a b
/-- Values of k per cycle of R71. -/
def mRate (a b : MFmt) : Nat := 16 / mWide a b
/-- Formats of `mst` and `mld`. -/
def tfmtSpec : TFmt → FSpec
  | .f32 => fsF32 | .bf16 => fsBF16 | .f16 => fsF16 | .e4m3 => fsE4M3 | .e5m2 => fsE5M2

/-! ### Tiles (09 R207) -/

/-- Row `r` of a tile: lane j is bits 32j+31:32j. -/
def tileRow (t : BitVec 262144) (r : Nat) : VWord := t.extractLsb' (4096 * r) 4096
def tileSetRow (t : BitVec 262144) (r : Nat) (v : VWord) : BitVec 262144 := setF t (4096 * r) 4096 v.toNat

/-- The core's tile that a block's tile number names. -/
def Ctx.tileNo (c : Ctx) (t : BitVec 3) : Nat := (match c.block with | some b => b.tileBase | none => 0) + t.toNat
/-- A tile of context `i`. -/
def State.tileAt (s : State) (i : Nat) (t : BitVec 3) : BitVec 262144 :=
  vget 0 (s.coreAt (coreOf i)).tiles ((s.ctxAt i).tileNo t)
/-- Writes a tile of context `i`. -/
def State.setTile (s : State) (i : Nat) (t : BitVec 3) (x : BitVec 262144) : State :=
  s.modCoreAt (coreOf i) (fun k => { k with tiles := vset k.tiles ((s.ctxAt i).tileNo t) x })
/-- Scale buffer `k` of context `i`. -/
def Ctx.kbufNo (c : Ctx) (k : BitVec 2) : Nat := (match c.block with | some b => b.kbufBase | none => 0) + k.toNat
def State.kbufAt (s : State) (i : Nat) (k : BitVec 2) : KBuf :=
  vget .zero (s.coreAt (coreOf i)).kbufs ((s.ctxAt i).kbufNo k)

/-- The busy bit of a tile (09 R207). -/
def Ctx.tileBusy (c : Ctx) (t : BitVec 3) : Bool := c.mq.any (fun o => o.tile == t)
/-- Whether the busy bit of a tile has cleared in this cycle. -/
def Ctx.clearsNow (c : Ctx) (t : BitVec 3) (now : Nat) : Bool := c.tileT.any (fun e => e.1 == t.toNat && e.2 == now)
/-- The M queue holds eight operations. -/
def Ctx.mFull (c : Ctx) : Bool := decide (8 ≤ c.mq.length)

/-- Whether an uncorrectable error stands in a row of a tile, in a scale buffer (24 R381). -/
def State.badRow (s : State) (i : Nat) (t : BitVec 3) (row : Nat) : Bool :=
  (s.coreAt (coreOf i)).bad.contains (.row ((s.ctxAt i).tileNo t) row)
def State.badScale (s : State) (i : Nat) (k : BitVec 2) : Bool :=
  (s.coreAt (coreOf i)).bad.any (fun b => match b with | .scale n _ => n == (s.ctxAt i).kbufNo k | _ => false)

/-- Rows that are written whole lose their errors. -/
def State.mendRows (s : State) (i : Nat) (t : BitVec 3) (p : Nat → Bool) : State :=
  s.modCoreAt (coreOf i) (fun k => { k with bad := k.bad.filter (fun b => match b with
    | .row n r => !(n == (s.ctxAt i).tileNo t && p r)
    | _ => true) })

/-- A row whose 128 columns an operation has written loses its errors. -/
def State.wholeRow (s : State) (i : Nat) (o : MOp) (row : Nat) : State :=
  s.mendRows i o.tile (fun n => n == row && gN o.gset == 128)

/-- Declarations of the block (02 R34). -/
def Ctx.declTile (c : Ctx) (t : BitVec 3) : Bool :=
  match c.block with | some b => decide (t.toNat < b.kernel.tiles) | none => false
def Ctx.declSet (c : Ctx) (g : BitVec 2) : Bool :=
  match c.block with | some b => decide (g.toNat < b.kernel.gset.length) | none => false
def Ctx.declKbuf (c : Ctx) (k : BitVec 2) : Bool :=
  match c.block with | some b => decide (k.toNat < b.kernel.kbufs) | none => false

/-! ### M words at issue (09 R203, R204, R207, R209, R212) -/

/-- Delivers the class C fault of the held operation: TPCW names the bundle, SLOTRES is 0 (09 R212). -/
def State.deliverC (s : State) : State :=
  match s.ctx.heldOp with
  | some o => match o.held with
    | some (code, tval) => (s.takeTrap s.cur code 2 tval s.issue.pc 0 0).halted
    | none => s
  | none => s

/-- The scratchpad as the context's stores leave it, with its releases there that still wait (09 R210). -/
def State.snapshot (s : State) : List Host.Cell :=
  s.ctx.stores.foldl (fun m t => match t.kind with
    | .window k off n => if k = coreOf s.cur then memWrite m off (natBytes n t.data.toNat) else m
    | _ => m) (s.coreAt (coreOf s.cur)).scratch

/-- An M operation as it commits. -/
def State.mOp (s : State) (k : MKind) (t : BitVec 3) : MOp :=
  { word := s.issue.word, kind := k, tile := t, af := .bf16, bf := .bf16, tf := .f32, z := false, addrA := 0, addrB := 0, gset := 0,
    bufA := .zero, bufB := .zero, data := 0, row := 0, seq := s.ctx.seq, time := s.ptime, flags := 0, held := none,
    user := s.issue.user, snap := s.snapshot, badA := false, badB := false, plainA := false, frames := [] }

/-- Cycles from an operation's start to the clearing of its tile's busy bit (09 R208). -/
def MOp.cycles (o : MOp) : Nat :=
  match o.kind with
  | .mma => (gK o.gset + mRate o.af o.bf - 1) / mRate o.af o.bf + 24
  | .mzero | .mwr => 2
  | .mrd => 4
  | .mst | .mld => 2 * gM o.gset + 8

/-- The start of an operation that joins a queue: an `mma` follows every `mma` that the core's array has before it by
ceil(K / kpc) cycles (09 R208). -/
def MOp.startAfter (o : MOp) (q : List MOp) : MOp :=
  if o.kind = .mma then
    { o with time := (q.filter (fun p => p.kind == .mma)).foldl (fun t p => Nat.max t (p.time + (p.cycles - 24))) o.time }
  else o

/-- The virtual pages of an operation's global operands. -/
def MOp.pages (o : MOp) : List Nat :=
  o.spans.foldl (fun l x => match regionOf x.1 with
    | .virt va => (range (va / 4096) ((va + x.2 + 4095) / 4096 - va / 4096)).foldl (fun l p => if l.contains p then l else p :: l) l
    | _ => l) []

/-- The frames of those pages that the page tables of the context in issue map (log 49). -/
def State.framesOf (s : State) (o : MOp) : List (Nat × Nat) :=
  o.pages.filterMap (fun p =>
    match (s.walkVa (dieOf s.cur) s.ctx.part s.ctx.asid s.ctx.lkey (4096 * p)).1 with
    | .ok l => some (p, l.pa / 4096 + (p - l.page))
    | .error _ => none)

/-- Puts an operation on the M queue. The array is the core's, so that an `mma` follows those of both contexts. -/
def State.mPush (s : State) (o : MOp) : State :=
  let other := (s.ctxAt (partner s.cur)).mq
  s.modCtx (fun c => { c with mq := c.mq ++ [{ o.startAfter (c.mq ++ other) with frames := s.framesOf o }], seq := c.seq + 1 })

/-- Whether a store to a geometry set of the context still waits, behind a fence or a join. -/
def Ctx.gsetPending (c : Ctx) : Bool :=
  c.stores.any (fun t => match t.kind with | .engine off => decide (0x4000 ≤ off ∧ off < 0x4100) | _ => false)

/-- The order of an M word at issue: the delivery of a held fault, the queue, the tile's busy bit, the
declaration, the class A checks `chk`; then it commits, closing the region (09 R209), and acts. The fault of an operation that
is held only after the bundle has issued is left to the next bundle that R212 names. -/
def State.mWord (s : State) (t : BitVec 3) (declared : Bool) (chk : Option (Nat × Word)) (act : State → Out) : Out :=
  if s.ctx.heldOp.isSome && s.ctx.inIssue.isNone then .next s.deliverC
  else if s.ctx.mFull then .next s.waitResource
  else if s.ctx.tileBusy t then .next s.hold
  else if !(s.ctx.declTile t && declared) then .next s.faultUndeclared
  else match chk with
    | some (c, v) => .next (s.faultA c v)
    | none => act s

/-- The class A checks of an operand base (09 R203). -/
def mBase (a : Word) : Option (Nat × Word) :=
  match regionOf a with
  | .virt _ | .window _ _ => if a.toNat % 64 ≠ 0 then some (0x09, a) else none
  | _ => some (0x0B, tvalUndeclared a)

/-- Commits an operation that captures a geometry set: the region closes first; a set that fails the
check of R204 raises matrix-operand with the region closed (09 R204, R209). -/
def State.mCapture (s : State) (g : BitVec 2) (e2m1 : Bool) (o : MOp) : Out :=
  let r := s.restart s.cur s.issue.pc s.issue.slot s.ctx.resume
  if r.ctx.gsetPending then .next r.hold
  else
    let set := tget gsetUndefined r.ctx.gset g.toNat
    if !gsetUsable set e2m1 then .next (r.faultA 0x1C 0)
    else .next ((r.mPush { o with gset := set }).mark)

def execMma (af bf : MFmt) (t : BitVec 3) (sa sb : SReg) (g : BitVec 2) (z : Bool) (ka kb : BitVec 2) (s : State) : Out :=
  let a := s.rS sa; let b := s.rS sb
  let e := af == .e2m1
  let bad := match mBase a with
    | some f => some f
    | none => mBase b
  s.mWord t (s.ctx.declSet g && (!e || (s.ctx.declKbuf ka && s.ctx.declKbuf kb))) bad (fun s =>
    s.mCapture g e { s.mOp .mma t with
      af := af, bf := bf, z := z, addrA := a, addrB := b,
      bufA := (if e then s.kbufAt s.cur ka else .zero), bufB := (if e then s.kbufAt s.cur kb else .zero),
      badA := e && s.badScale s.cur ka, badB := e && s.badScale s.cur kb })

def execMzero (t : BitVec 3) (s : State) : Out :=
  s.mWord t true none (fun s => .next ((s.mPush (s.mOp .mzero t)).mark))

/-- The row that S[r] names, or matrix-operand (09 R215). -/
def mRowBad (x : Word) : Option (Nat × Word) := if 64 ≤ x.toNat then some (0x1C, 0) else none

/-- V[v] receives the row at commit and is readable when the operation is performed; `addrA` holds the
register's number. -/
def execMrd (t : BitVec 3) (v : VReg) (r : SReg) (s : State) : Out :=
  let x := s.rS r
  let bad := match mRowBad x with
    | some f => some f
    | none => if s.badRow s.cur t x.toNat then some (0x19, s.badTval) else none
  s.mWord t true bad (fun s =>
    let o := { s.mOp .mrd t with addrA := v.setWidth 64 }
    .next (((s.wV 4 v (tileRow (s.tileAt s.cur t) x.toNat)).mPush o).mark))

def execMwr (t : BitVec 3) (v : VReg) (r : SReg) (s : State) : Out :=
  let x := s.rS r; let d := s.rV v
  s.mWord t true (mRowBad x) (fun s => .next ((s.mPush { s.mOp .mwr t with data := d, addrA := x }).mark))

def execMst (f : TFmt) (t : BitVec 3) (sa : SReg) (g : BitVec 2) (s : State) : Out :=
  let a := s.rS sa
  s.mWord t (s.ctx.declSet g) (mBase a) (fun s => s.mCapture g false { s.mOp .mst t with tf := f, addrA := a })

/-- It issues in the cycle after the busy bit clears (09 R208). -/
def execMwait (t : BitVec 3) (s : State) : Out :=
  s.mWord t true none (fun s => if s.ctx.clearsNow t s.ptime then .next s.hold
    else .next ((s.modCtx (·.ordered (fun e => e.queue == 1 && e.mark == t.toNat))).mark))

def execMld (f : TFmt) (t : BitVec 3) (sa : SReg) (g : BitVec 2) (s : State) : Out :=
  let a := s.rS sa
  s.mWord t (s.ctx.declSet g) (mBase a) (fun s => s.mCapture g false { s.mOp .mld t with tf := f, addrA := a })

/-! ### Reaching operand bytes (09 R203, R210, R211) -/

/-- An operation as its engine runs it: the state, the latest arrival of its global operands, the slots that its requests
overran, the flags of its rows, what stopped it, whether it waits, and the lines that it waits to write. -/
structure MRun where
  s : State
  last : Nat
  over_ : List Nat
  flags : BitVec 5
  stop : Option (Nat × Word)
  wait : Bool
  shut : List Nat
  deriving DecidableEq, Repr

/-- A run that begins. -/
def MRun.start (s : State) (flags : BitVec 5) : MRun :=
  { s := s, last := 0, over_ := [], flags := flags, stop := none, wait := false, shut := [] }

/-- Whether the run still goes on. -/
def MRun.ok (r : MRun) : Bool := r.stop.isNone && !r.wait
def MRun.fail (r : MRun) (code : Nat) (tval : Word) : MRun := if r.ok then { r with stop := some (code, tval) } else r
def MRun.orFlags (r : MRun) (f : BitVec 5) : MRun := { r with flags := r.flags ||| f }
/-- A request arrives, having overrun slots. -/
def MRun.arrive (r : MRun) (t : Nat × List Nat) : MRun := { r with last := Nat.max r.last t.1, over_ := r.over_ ++ t.2 }

/-- What a run of queue `q` that does not end leaves in the state: what its engine has asked for, and the merging windows
that its stores have shut (02 R49, R56; 18 R315; 21 R352). -/
def State.engWait (s : State) (i q : Nat) (r : MRun) : State :=
  let c := r.s.ctxAt i
  (r.shut.foldl State.shutWindow ({ s with free := r.s.free } : State)).modCtxAt i (fun x =>
    { x with engReqs := c.engReqs, asked := tset x.asked q (tget [] c.asked q) })

/-- Where one piece of an engine's access lies. -/
inductive Spot
  | virt (e : Extent) (pa : Nat)
  | win (core off : Nat)
  | bad
  deriving DecidableEq, Repr

/-- Reaches `n` bytes at an address for queue `q`'s engine of context `i`. -/
def MRun.reach (r : MRun) (i q : Nat) (user : Bool) (k : AccKind) (ea : Word) (n : Nat) : Spot × MRun :=
  if !r.ok then (.bad, r) else
  match regionOf ea with
  | .virt va => match r.s.translateNow i q va n k user with
    | (.ok e pa, s, o) => (.virt e pa, { r with s := s, over_ := r.over_ ++ o })
    | (.fault f, s, o) => (.bad, ({ r with s := s, over_ := r.over_ ++ o } : MRun).fail f.code f.tval)
    | (.walk _, s, _) => (.bad, { r with s := s, wait := true })
  | .window m byte => match r.s.windowAt i m byte n with
    | some (core, off) => (.win core off, r)
    | none => (.bad, r.fail 0x0A ea)
  | _ => (.bad, r.fail 0x0B (tvalUndeclared ea))

/-- Reads a line for queue `q` of context `i`, asked for at time `at_`: through the die's RDC, which it fills, or at the
home; a page that is `so` bypasses the RDC (02 R48, 21 R352). -/
def MRun.fetch (r : MRun) (i q : Nat) (so : Bool) (l at_ : Nat) : Line × MRun :=
  let s := r.s; let die := dieOf i
  match s.rdcServes i l so with
  | some e => (e.data, r.arrive (at_ + 64, []))
  | none =>
    let data := s.askData i q l
    if data.isNone && !(isHbm (64 * l) && s.inL2 (64 * l)) && s.engHeld i q l then (0, { r with s := s.askWait i q l, wait := true })
    else if s.pkg.poisoned.contains l then (0, r.fail 0x19 (BitVec.ofNat 64 (64 * l)))
    else
      let d := data.getD (memLine s.mem l)
      let t := s.joinArrival die l at_
      let s := s.modDieAt (homeDie (64 * l)) (·.joinWindow l s.ptime)
      let s := (s.askTook i q l (some d) t.1).homeTouch l
      (d, ({ r with s := if viaRdc die (64 * l) && !so then
                       s.modDieAt die (·.rdcAdd { part := (s.ctxAt i).part, pline := l, data := d } (Config.victimWay s.free))
                     else s } : MRun).arrive t)


/-- The run waits to write a line. -/
def MRun.waitPut (r : MRun) (i q l : Nat) : MRun :=
  if r.ok then { r with s := r.s.askWait i q l, wait := true, shut := l :: r.shut } else r

/-- The context's own waiting stores of order below `n` over a line (04 R84). -/
def Ctx.forwardTo (c : Ctx) (n l : Nat) (base : Line) : Line :=
  ({ c with stores := c.stores.filter (fun t => decide (t.seq < n)) } : Ctx).forward l base

/-- A line of the context's own footprint: as it stood at the commit, or, where a later store is
seen, as it stands now (09 R210, log 17). -/
def State.snapLine (s : State) (o : MOp) (core off : Nat) (own : Bool) : Line :=
  let now := memLine (s.coreAt core).scratch (off / 64)
  if own && !Config.sawLateStore (o.seq * 2 ^ 20 + off / 64) then memLine o.snap (off / 64) else now

/-- Reads up to 64 bytes at a 64-byte boundary for an M operation; `kept` for a kept operand, whose reads set no filter
bit until the tile is accepted (16 R288). -/
def MRun.line (r : MRun) (i : Nat) (o : MOp) (kept : Bool) (ea : Word) (n : Nat) : Line × MRun :=
  match r.reach i 1 o.user .read ea n with
  | (.virt e pa, r) =>
    (match keptFault e kept false ea.toNat with
    | some f => (0, r.fail f.code f.tval)
    | none =>
      let l := pa / 64
      let (x, r) := r.fetch i 1 (e.kind == .so) l o.time
      ((r.s.ctxAt i).forwardTo o.seq l x,
        if kept || !r.ok then r else { r with s := r.s.modCtxAt i (·.noteAccess ea.toNat true false) }))
  | (.win core off, r) =>
    if (r.s.coreAt core).badLine (off / 64) (byteMask 0 n) then (0, r.fail 0x19 r.s.badTval)
    else (r.s.snapLine o core off (core == coreOf i), r)
  | (.bad, r) => (0, r)

/-- Reads `n` bytes from a 64-byte boundary, as one number; `k` bounds the lines. -/
def MRun.bytes (i : Nat) (o : MOp) (kept : Bool) : Nat → MRun → Word → Nat → Nat × MRun
  | 0, r, _, _ => (0, r)
  | k + 1, r, ea, n =>
    if n = 0 then (0, r) else
    let m := Nat.min n 64
    let (x, r) := r.line i o kept ea m
    let (y, r) := MRun.bytes i o kept k r (ea + 64) (n - m)
    (x.toNat % 2 ^ (8 * m) + 2 ^ (8 * m) * y, r)

/-- Whether an earlier store of the context to a byte of a line waits (04 R84). -/
def Ctx.storeBefore (c : Ctx) (n l : Nat) (m : BitVec 64) : Bool :=
  c.stores.any (fun t => decide (t.seq < n) && t.onLine l && t.mask &&& m != 0)

/-- What an `mst` of order `n` has written to the context's own footprint is seen by the operations behind it, which are
performed in order (04 R89). -/
def Ctx.seenBy (c : Ctx) (n l : Nat) (d : Line) (m : BitVec 64) : Ctx :=
  { c with mq := c.mq.map (fun o => if n < o.seq then { o with snap := memWriteLine o.snap l d m } else o) }

/-- Writes up to 64 bytes at a 64-byte boundary for an `mst` (09 R210). -/
def MRun.put (r : MRun) (i : Nat) (o : MOp) (ea : Word) (n x : Nat) : MRun :=
  match r.reach i 1 o.user .write ea n with
  | (.virt e pa, r) =>
    (match keptFault e false false ea.toNat with
    | some f => r.fail f.code f.tval
    | none =>
      let l := pa / 64
      let c := r.s.ctxAt i
      if r.s.landsLater i 1 l then r.waitPut i 1 l
      else if c.storeBefore o.seq l (byteMask 0 n) then { r with wait := true }
      else
        let s := (r.s.askTook i 1 l none 0).storeLine l (BitVec.ofNat 512 x) (byteMask 0 n) c.wid c.writer.1 c.writer.2
        ({ r with s := s.modCtxAt i (fun c => (c.noteAccess ea.toNat false true).direct
            { line := l, queue := 1, seq := o.seq, un := e.kind == .un, mark := o.tile.toNat }) } : MRun).arrive
          ((r.s.arrival (dieOf i) pa o.time).1, r.s.writeOver (dieOf i) pa o.time))
  | (.win core off, r) =>
    let s := r.s.scratchLine i 1 core off (BitVec.ofNat 512 x) (byteMask 0 n)
    { r with s := if core = coreOf i then s.modCtxAt i (·.seenBy o.seq (off / 64) (BitVec.ofNat 512 x) (byteMask 0 n)) else s }
  | (.bad, r) => r

/-- Checks that `n` bytes can be written from a 64-byte boundary. -/
def MRun.mayPut (i : Nat) (o : MOp) : Nat → MRun → Word → Nat → MRun
  | 0, r, _, _ => r
  | k + 1, r, ea, n =>
    if n = 0 then r else
    let m := Nat.min n 64
    let r := match r.reach i 1 o.user .write ea m with
      | (.virt e _, r) => (match keptFault e false false ea.toNat with | some f => r.fail f.code f.tval | none => r)
      | (_, r) => r
    MRun.mayPut i o k r (ea + 64) (n - m)

/-- Writes `n` bytes from a 64-byte boundary. -/
def MRun.puts (i : Nat) (o : MOp) : Nat → MRun → Word → Nat → Nat → MRun
  | 0, r, _, _, _ => r
  | k + 1, r, ea, n, x =>
    if n = 0 then r else
    let m := Nat.min n 64
    MRun.puts i o k (r.put i o ea m (x % 2 ^ (8 * m))) (ea + 64) (n - m) (x / 2 ^ (8 * m))

/-! ### Operand values (09 R203, R205, R206) -/

/-- An operand row: values with the flags that reading them raises. -/
abbrev MRow := List (FVal × BitVec 5)

/-- A row of codes of a format that is not scaled. -/
def plainRow (f : MFmt) (k x : Nat) : MRow :=
  let g := mfmtSpec f; let w := mfmtBits f
  (range 0 k).map (fun j => let c := x / 2 ^ (w * j) % 2 ^ w; (g.value c, g.snan c))

/-- A row of scaled codes: block scale of element j, band scale (03 R69). -/
def scaledRow (k x : Nat) (bs : Nat → Nat) (band : Nat) : MRow :=
  (range 0 k).map (fun j =>
    let v := scaledVal (x / 2 ^ (4 * j) % 16) (bs j) band
    (v.1, if v.2 then fNV else 0))

/-- An operand of an `mma`: plain rows in memory, or the payload of a kept tile. -/
inductive MSrc
  | rows (base : Word) (ld : Nat)
  | tile (p n cols : Nat)
  deriving DecidableEq, Repr

/-- Reads and checks the kept tile at an address: faults in reaching its lines come before the header is examined
(05 R109), the CRC is checked before the geometry (05 R110, 09 R206; log 47). A tile that is refused is not read. -/
def MRun.tile (r : MRun) (i : Nat) (o : MOp) (f : MFmt) (base : Word) (rows : Nat) : MSrc × MRun :=
  let (h, u) := r.line i o true base 64
  let lines := payloadLines h base.toNat
  let (p, u) := MRun.bytes i o true lines u (base + 64) (64 * lines)
  let hdrPa := match r.reach i 1 o.user .read base 64 with | (.virt _ pa, _) => pa | _ => 0
  let u := if f == .e2m1 && accepted .mma h base.toNat then u else u.fail 0x10 (tvalTile base h)
  let u := if crc32c (natBytes (kPlen h) p) != kCrc h then u.fail 0x19 (BitVec.ofNat 64 hdrPa) else u
  let u := if kRows h = rows ∧ kCols h = gK o.gset then u else u.fail 0x1C 0
  if u.ok then
    let note (c : Ctx) : Ctx := (range 0 (lines + 1)).foldl (fun c k => c.noteAccess (chunkAt base k).toNat true false) c
    (.tile p (kNelem h) (kCols h), { u with s := u.s.modCtxAt i note })
  else if u.wait then (.rows base 0, u)
  else (.rows base 0, { r with stop := u.stop })

/-- Finds out what an operand is: plain rows, whose scale buffer `bad` says cannot be read, or a kept tile
(09 R205, R206). -/
def MRun.source (r : MRun) (i : Nat) (o : MOp) (f : MFmt) (base : Word) (ld rows : Nat) (bad : Bool) : MSrc × MRun :=
  let plain (r : MRun) : MSrc × MRun := (.rows base ld, if f == .e2m1 && bad then r.fail 0x19 r.s.badTval else r)
  match r.reach i 1 o.user .read base 1 with
  | (.virt e _, r) => if e.k then r.tile i o f base rows else plain r
  | (_, r) => plain r

/-- Row `j` of an operand. -/
def MRun.operand (r : MRun) (i : Nat) (o : MOp) (f : MFmt) (src : MSrc) (buf : KBuf) (j : Nat) : MRow × MRun :=
  let k := gK o.gset
  match src with
  | .tile p n cols =>
    (scaledRow k (p / 2 ^ (4 * (j * cols))) (fun e => p / 2 ^ (4 * n + 8 * ((j * cols + e) / 8)) % 256)
      (p / 2 ^ (5 * n) % 2 ^ 16), r)
  | .rows base ld =>
    let (x, r) := MRun.bytes i o false 128 r (base + BitVec.ofNat 64 (j * ld)) ((k * mfmtBits f + 7) / 8)
    if f = .e2m1 then
      (scaledRow k x (fun e => getF buf.bytes (8 * (j * (k / 8) + e / 8)) 8)
        (if j < 64 then buf.bnd0.toNat else buf.bnd1.toNat), r)
    else (plainRow f k x, r)

/-! ### The sum of a group (03 R71, R72) -/

/-- The products of a group and what the special cases of R72 need: their exact sum, flags, whether
a +∞ and a −∞ product occurred. -/
def groupSum : MRow → MRow → FVal × BitVec 5 → Bool × Bool → (FVal × BitVec 5) × (Bool × Bool)
  | (a, fa) :: as, (b, fb) :: bs, acc, inf =>
    let (p, inv) := a.mul b
    let inf := match p with | .inf n => (inf.1 || !n, inf.2 || n) | _ => inf
    groupSum as bs ((acc.1.add p).1, acc.2 ||| fa ||| fb ||| (if inv then fNV else 0)) inf
  | _, _, acc, inf => (acc, inf)

/-- The exact sum S of a group with its flags. The sum starts from its first product, so that it is
−0 only when every product is −0. -/
def groupDot (as bs : MRow) : FVal × BitVec 5 :=
  match as, bs with
  | (a, fa) :: ar, (b, fb) :: br =>
    let (p, inv) := a.mul b
    let (r, inf) := groupSum ar br (p, fa ||| fb ||| (if inv then fNV else 0))
      (match p with | .inf n => (!n, n) | _ => (false, false))
    (r.1, r.2 ||| (if inf.1 && inf.2 then fNV else 0))
  | _, _ => (.fin false 0 0, 0)

/-- An accumulation over at most `n` groups of size `g`, rounded once per group. A signaling NaN that the accumulator
holds raises nothing (log 48). -/
def accumulate (g : Nat) : Nat → MRow → MRow → Nat × BitVec 5 → Nat × BitVec 5
  | 0, _, _, x => x
  | n + 1, as, bs, x =>
    if as.isEmpty then x else
    let (sum, fl) := groupDot (as.take g) (bs.take g)
    let (v, inv) := (fsF32.value x.1).add sum
    let (c, fl2) := fsF32.ofVal v
    accumulate g n (as.drop g) (bs.drop g) (c, x.2 ||| fl ||| fl2 ||| (if inv then fNV else 0))

/-- A row of a tile with columns from a list in place of its first ones. -/
def rowWith (old : VWord) (xs : List Nat) : VWord :=
  BitVec.ofNat 4096 (ofElems 32 xs + old.toNat / 2 ^ (32 * xs.length) * 2 ^ (32 * xs.length))

/-! ### Rows (09 R211, R214, R216) -/

/-- Reads the rows of B. -/
def MRun.rowsB (i : Nat) (o : MOp) (src : MSrc) : Nat → MRun → List MRow × MRun
  | 0, r => ([], r)
  | n + 1, r =>
    let (rest, r) := MRun.rowsB i o src n r
    let (x, r) := r.operand i o o.bf src o.bufB n
    (rest ++ [x], r)

/-- Row `row` of an operation: `none` in `stop` when it has committed. An error in the accumulator's own row counts as a fault
of that row (log 23). -/
def MRun.row (r : MRun) (i : Nat) (o : MOp) (sa : MSrc) (bs : List MRow) (row : Nat) : MRun :=
  match o.kind with
  | .mma =>
    let (a, r) := r.operand i o o.af sa o.bufA row
    if !r.ok then r else
    if !o.z && r.s.badRow i o.tile row then r.fail 0x19 r.s.badTval else
    let t := r.s.tileAt i o.tile
    let old := tileRow t row
    let n := (gK o.gset + mGroup o.af o.bf - 1) / mGroup o.af o.bf
    let xs := (range 0 (gN o.gset)).map (fun j =>
      accumulate (mGroup o.af o.bf) n a ((nth bs j).getD []) (if o.z then 0 else elem old 32 j, 0))
    ({ r with s := (r.s.setTile i o.tile (tileSetRow t row (rowWith old (xs.map Prod.fst)))).wholeRow i o row } : MRun).orFlags
      (xs.foldl (fun f x => f ||| x.2) 0)
  | .mld =>
    let w := tfmtBits o.tf; let n := gN o.gset
    let (x, r) := MRun.bytes i o false 8 r (o.addrA + BitVec.ofNat 64 (row * gLdc o.gset)) (n * w / 8)
    if !r.ok then r else
    let t := r.s.tileAt i o.tile
    let xs := (range 0 n).map (fun j =>
      let c := x / 2 ^ (w * j) % 2 ^ w
      if o.tf = .f32 then (c, 0) else (tfmtSpec o.tf).convert fsF32 c)
    ({ r with s := (r.s.setTile i o.tile (tileSetRow t row (rowWith (tileRow t row) (xs.map Prod.fst)))).wholeRow i o row } : MRun).orFlags
      (xs.foldl (fun f x => f ||| x.2) 0)
  | .mst =>
    let w := tfmtBits o.tf; let n := gN o.gset
    let ea := o.addrA + BitVec.ofNat 64 (row * gLdc o.gset)
    let r := MRun.mayPut i o 8 r ea (n * w / 8)
    if !r.ok then r else
    if r.s.badRow i o.tile row then r.fail 0x19 r.s.badTval else
    let old := tileRow (r.s.tileAt i o.tile) row
    let xs := (range 0 n).map (fun j =>
      if o.tf = .f32 then (elem old 32 j, 0) else fsF32.convert (tfmtSpec o.tf) (elem old 32 j))
    (MRun.puts i o 8 r ea (n * w / 8) (ofElems w (xs.map Prod.fst))).orFlags (xs.foldl (fun f x => f ||| x.2) 0)
  | _ => r

/-- Runs rows from `row` on, at most `n` of them; answers the row that did not commit. -/
def MRun.rows (i : Nat) (o : MOp) (sa : MSrc) (bs : List MRow) : Nat → Nat → MRun → MRun × Nat
  | 0, row, r => (r, row)
  | n + 1, row, r =>
    let r' := r.row i o sa bs row
    if r'.ok then MRun.rows i o sa bs n (row + 1) r' else (r', row)

/-- Runs the operation at the head of context `i`'s M queue from its row on; answers the row that a fault names. A fault
outside the rows of A counts as row 0 (09 R211). -/
def State.runM (s : State) (i : Nat) (o : MOp) : MRun × Nat :=
  let r := MRun.start s o.flags
  match o.kind with
  | .mzero => ({ r with s := (s.setTile i o.tile 0).mendRows i o.tile (fun _ => true) }, 0)
  | .mwr => ({ r with s := (s.setTile i o.tile (tileSetRow (s.tileAt i o.tile) o.addrA.toNat o.data)).mendRows i o.tile (fun n => n == o.addrA.toNat) }, 0)
  | .mrd => (r, 0)
  | .mst | .mld => MRun.rows i o (.rows 0 0) [] (gM o.gset - o.row) o.row r
  | .mma =>
    let (sb, r) := r.source i o o.bf o.addrB (gLdb o.gset) (gN o.gset) o.badB
    let (bs, r) := MRun.rowsB i o sb (gN o.gset) r
    let (sa, r) := if o.plainA then (.rows o.addrA (gLda o.gset), r)
      else r.source i o o.af o.addrA (gLda o.gset) (gM o.gset) o.badA
    if r.ok then MRun.rows i o sa bs (gM o.gset - o.row) o.row r else (r, 0)

/-- The head of an M queue that may run: not held, not behind a join, and no return awaited after a
discard (09 R213). -/
def Ctx.mHead (c : Ctx) : Option MOp :=
  match c.mq with
  | o :: _ => if o.held.isNone && !c.leaving && !c.mfreeze && c.joinsClear o.seq (fun j => j.m) then some o else none
  | [] => none

/-- M_OP_COMPLETE: the operation at the head is performed, its busy bit clears, its flags join FFLAGS
and the shadow copy (03 R79, R81; 09 R207, R208). -/
def execMOpComplete (i : Nat) (s : State) : Out :=
  match (s.ctxAt i).mHead with
  | none => .next s
  | some o =>
    let (r, _) := s.runM i o
    if r.stop.isSome then .next s
    else if r.wait || decide (s.ptime < Nat.max o.time r.last + o.cycles) then .next (s.engWait i 1 r)
    else
      let t := r.s.modCtxAt i (fun c =>
        (({ c with mq := c.mq.drop 1, tileT := tset c.tileT o.tile.toNat s.ptime } : Ctx).orFlagsM s.ptime r.flags).dropJoins.askDone 1)
      let t := t.overrun i 1 r.over_
      if t.noRoom then .next s else .next (t.settle i (t.ctxAt i).stores.length)

/-- MATRIX_ROW_FAULT: a byte of a row cannot be reached. Rows below it are final, the operation is
held, and MROW names its tile and row (09 R211). -/
def execMatrixRowFault (i : Nat) (s : State) : Out :=
  match (s.ctxAt i).mHead with
  | none => .next s
  | some o =>
    let (r, row) := s.runM i o
    match r.stop with
    | none => .next s
    | some f => if r.wait then .next s else
      let plain := match r.s.translate i o.addrA.toNat 1 .read o.user with | .ok e _ => !e.k | _ => true
      let t := r.s.modCtxAt i (fun c =>
        ({ c with mq := { o with row := row, flags := r.flags, held := some f, plainA := o.plainA || (row != 0 && plain) } :: c.mq.drop 1,
                  mval := true, macc := o.tile, mrow := BitVec.ofNat 7 row } : Ctx).askDone 1)
      let t := t.overrun i 1 r.over_
      if t.noRoom then .next s else .next t

end Sys2Proof.Machine
end

