-- ==== Sys2Proof/Machine/Copies.lean ====
section
/-! DEFINITION. `probe` and its fills, copies, their claims and landings (02 R50 to R53;
10 R244 to R252; 05 R113). -/

namespace Sys2Proof.Machine

/-! ### probe (02 R52, R53; 10 R237) -/

/-- The lowest slot that satisfies a test, among `n` from `k`. -/
def lowestSlot (test : Nat → Bool) : Nat → Nat → Option Nat
  | 0, _ => none
  | n + 1, k => if test k then some k else lowestSlot test n (k + 1)

/-- The slot that a miss takes: the lowest free unpinned one, else the unpinned one of the oldest age. -/
def State.probeVictim (s : State) (i : Nat) : Option Nat :=
  let c := s.ctxAt i
  match lowestSlot (fun k => gState (c.tagAt k) == 0 && !s.probePinned i k) c.probeSlots 0 with
  | some k => some k
  | none => c.ages.reverse.find? (fun k => !s.probePinned i k)

/-- A slot becomes the one of the newest age. -/
def Ctx.newest (c : Ctx) (k : Nat) : Ctx := { c with ages := k :: c.ages.filter (fun x => x != k) }

/-- The fill of a slot: 4 KiB from its page. -/
def fillCopy (tag : Nat) (win : Word) (k seq : Nat) (user : Bool) : Copy :=
  { start := 0, tmpl := BitVec.ofNat 512 (tag * 4096 + win.toNat * 2 ^ 64 + 511 * 2 ^ 128 + 3 * 2 ^ 176 + 511 * 2 ^ 192),
    seq := seq, srcSlot := none, dstSlot := none, begun := false, wp0 := 0, held := false, nbDone := false,
    probe := some k, recv := [], user := user, began := 0, last := 0, lastN := 0, mdata := [] }

/-- Copies of a channel that are queued or whose starts still wait (10 R240). -/
def Ctx.chanLoad (c : Ctx) (n : Nat) : Nat :=
  (c.chan n).length + (c.stores.filter (fun t => t.kind == .start n)).length

/-- The slot whose tag a probe of a page meets. -/
def Ctx.probeHit (c : Ctx) (tag : Nat) : Option Nat :=
  lowestSlot (fun k => gState (c.tagAt k) != 0 && gTag (c.tagAt k) == tag) c.probeSlots 0

/-- The transfer of a `probe`: taken on a miss. -/
def State.probeTo (s : State) (miss : Bool) (imm : BitVec 16) : State :=
  s.transferTo miss (s.issue.after2 + imm.signExtend 64)

def execProbe (d a : SReg) (imm : BitVec 16) (s : State) : Out :=
  let i := s.cur
  let c := s.ctx
  let tag := getF (s.rS a) 12 45
  if c.probeSlots = 0 then .next (s.faultA 0x14 31)
  else match c.probeHit tag with
    | some k =>
      let x := c.probeWin k + (if gState (c.tagAt k) = 1 then 1 else 0)
      .next ((((s.wS 1 d x).modCtx (·.newest k)).probeTo false imm).mark)
    | none => match s.probeVictim i with
      | none => .next (((s.wS 1 d 0).probeTo true imm).mark)
      | some k =>
        if 16 ≤ c.chanLoad 15 then .next s.waitResource
        else
          let x := c.probeWin k
          let s := ((s.wS 1 d (x + 1)).probeTo true imm).mark
          .next (s.modCtx (fun c =>
            let c := (c.newest k).setChan 15 (c.chan 15 ++ [fillCopy tag x k c.seq s.issue.user])
            { c with tags := tset c.tags k (BitVec.ofNat 512 (tag + 2 ^ 45)), seq := c.seq + 1 }))

/-! ### Records of a copy (10 R244, R247; 19 R334) -/

/-- A class D record of a copy of context `i` on channel `n`. -/
def State.copyRec (s : State) (i n : Nat) (o : Copy) (code : Nat) (flags : BitVec 16) (tval aux : Word) : State :=
  s.postEng i (16 + n) { s.ctxRec i code 3 1 flags tval o.start aux with chan := n, wp := (s.ctxAt i).wp n }

/-! ### COPY_HEAD (10 R244, R251) -/

/-- Refusals of a copy at its channel's head (10 R244). -/
def Ctx.copyRefused (c : Ctx) (o : Copy) : Bool :=
  let t := o.tmpl
  let g := Nat.max 1 c.gangSize
  let out := match o.dstSlot with
    | some k =>
      let lo := c.handleWin (tDh t) k
      (dstChunks t (c.copyDst o)).any (fun a => decide (hSize (c.handle (tDh t)) < (a - lo).toNat + 64))
    | none =>
      tMC t != 0 && (dstChunks t (doff o.start)).any (fun a => decide (hSize (c.handle (tDh t)) < a.toNat + 64))
  tErr t || tSCount t != tDCount t || tSC t 0 * tSsz t % 64 != 0 || tDC t 0 * tDsz t % 64 != 0
    || (tDhEn t && !hEn (c.handle (tDh t))) || (tShEn t && !hEn (c.handle (tSh t)))
    || (tMC t != 0 && (!tDhEn t || tRed t != 0 || decide (2 ^ g ≤ (tMC t).toNat)))
    || out

/-- A copy of context `i` leaves the head of channel `n`, and joins that waited for it end. -/
def State.copyGone (s : State) (i n : Nat) : State :=
  let s := s.modCtxAt i (fun c => ((c.askDone (16 + n)).setChan n ((c.chan n).drop 1)).dropJoins)
  s.settle i (s.ctxAt i).stores.length

/-- Whether the head of a channel may begin: the copy before it has been performed, and no join holds it. -/
def Ctx.copyAtHead (c : Ctx) (n : Nat) : Option Copy :=
  match c.chan n with
  | o :: _ => if c.joinsClear o.seq (fun j => getB j.chans n) && !c.leaving then some o else none
  | [] => none

/-- Replaces the head of a channel. -/
def Ctx.setHead (c : Ctx) (n : Nat) (o : Copy) : Ctx := c.setChan n (o :: (c.chan n).drop 1)

def execCopyHead (i n : Nat) (s : State) : Out :=
  let c := s.ctxAt i
  match c.copyAtHead n with
  | none => .next s
  | some o =>
    if o.begun then .next s
    else
      let t := o.tmpl
      let s1 :=
        if c.copyRefused o then (s.copyRec i n o 0x1A 0 0 0).copyGone i n
        else
          let src := match o.srcSlot with | some k => hState (c.handle (tSh t)) k == 2 | none => true
          let dst := match o.dstSlot with | some k => hState (c.handle (tDh t)) k == 0 | none => true
          if src && dst then
            s.modCtxAt i (fun c =>
              let c := match o.srcSlot with
                | some k => c.setHandle (tSh t) (hSetState (c.handle (tSh t)) k 3) | none => c
              let c := match o.dstSlot with
                | some k => c.setHandle (tDh t) (hSetState (c.handle (tDh t)) k 1) | none => c
              let recv := ((range 0 48).filter (fun m => getB (tMC t) m)).map (fun m =>
                { member := m, slot := none, failed := false, lines := 0 })
              c.setHead n { o with begun := true, wp0 := c.wp n, nbDone := tNB t == 0, began := s.ptime,
                                   last := s.ptime, recv := recv })
          else
            let s := if src then s else s.copyRec i n o 0x14 0 (BitVec.ofNat 64 (tSh t)) 0
            let s := if dst then s else s.copyRec i n o 0x13 0 0 0
            s.copyGone i n
      if s1.noRoom then .next s else .next s1

/-- COPY_NOT_BEFORE: PTIME has reached NB (10 R245). -/
def execCopyNotBefore (i n : Nat) (s : State) : Out :=
  match (s.ctxAt i).copyAtHead n with
  | none => .next s
  | some o =>
    if o.begun && !o.nbDone && decide (tNB o.tmpl ≤ s.ptime) then
      .next (s.modCtxAt i (·.setHead n { o with nbDone := true, began := s.ptime, last := s.ptime }))
    else .next s

/-! ### Lines of a copy (10 R245, R246) -/

/-- Converts a source element (10 R245). -/
def copyConv (t : Line) (x : Nat) : Nat :=
  match tConv t with
  | 1 => (fsF32.convert fsBF16 x).1
  | 2 => (fsBF16.convert fsF32 x).1
  | 3 => (fsF32.convert fsE4M3 x).1
  | _ => x

/-- A reducing landing of one element (10 R245). -/
def copyRed (t : Line) (old x : Nat) : Nat :=
  match tRed t with
  | 1 => (fsF32.addCodes fsF32 old x).1
  | 2 => (fsBF16.addCodes fsBF16 old x).1
  | 3 => (fsF32.extreme true old x).1
  | _ => x

/-- The copy as it asks for the source lines of its destination line `j`: one line's requests in each cycle from
its beginning on (log 24). -/
def Copy.asking (o : Copy) (j : Nat) : Copy := { o with last := o.began + j }

/-- Reads one source element for a copy on channel `c`; its request is made at the time `o.last` (see `Copy.asking`). An
element lies in one line. -/
def MRun.copyElem (r : MRun) (i c : Nat) (o : Copy) (ea : Word) : Nat × MRun :=
  let n := tSsz o.tmpl
  match r.reach i (16 + c) o.user .read ea n with
  | (.virt e pa, r) =>
    (match keptFault e false (tRaw o.tmpl) ea.toNat with
    | some f => (0, r.fail f.code f.tval)
    | none =>
      let (d, r) := r.fetch i (16 + c) (e.kind == .so) (pa / 64) o.last
      (getF d (8 * (pa % 64)) (8 * n), if r.ok then { r with s := r.s.modCtxAt i (·.noteAccess ea.toNat true false) } else r))
  | (.win core off, r) => if (r.s.coreAt core).badBytes off n then (0, r.fail 0x19 r.s.badTval) else (r.s.scratchNat core off n, r)
  | (.bad, r) => (0, r)

/-- Reads the source elements of a destination line. -/
def MRun.copyElems (i c : Nat) (o : Copy) (src : Word) : List Nat → MRun → List Nat × MRun
  | [], r => ([], r)
  | e :: es, r =>
    let (x, r) := r.copyElem i c o (elemAddr src (tSC o.tmpl) (tSS o.tmpl) (tSsz o.tmpl) e)
    let (xs, r) := MRun.copyElems i c o src es r
    (copyConv o.tmpl x :: xs, r)

/-- Applies the elements of a line to it, in order. -/
def applyElems (t dst : Line) (offs : List Nat) (xs : List Nat) : Line :=
  let w := 8 * tDsz t
  (offs.zip xs).foldl (fun d p => setF d (8 * p.1) w (copyRed t (getF d (8 * p.1) w) p.2)) dst

/-- Reads the new elements of one line: their offsets in it and values. -/
def MRun.copyLine (r : MRun) (i n : Nat) (o : Copy) (src dst l : Word) : (List Nat × List Nat) × MRun :=
  let es := lineElems o.tmpl dst l
  let (xs, r) := MRun.copyElems i n o src es r
  ((es.map (fun e => (elemAddr dst (tDC o.tmpl) (tDS o.tmpl) (tDsz o.tmpl) e).toNat % 64), xs), r)

/-- Writes a line of a copy at its destination: a plain landing, or an atomic one when it reduces. -/
def MRun.landLine (r : MRun) (i n : Nat) (o : Copy) (l : Word) (f : Line → Line) : MRun :=
  let t := o.tmpl
  match r.reach i (16 + n) o.user (if tRed t = 0 then .write else .readWrite) l 64 with
  | (.virt e pa, r) =>
    (match keptFault e false (tRaw t) l.toNat with
    | some x => r.fail x.code x.tval
    | none =>
      if !r.ok then r else
      let c := r.s.ctxAt i
      let k := pa / 64
      if r.s.landsLater i (16 + n) k then r.waitPut i (16 + n) k
      else if tRed t ≠ 0 ∧ r.s.pkg.poisoned.contains k then r.fail 0x19 (BitVec.ofNat 64 (64 * k))
      else
        let d := f (if tRed t = 0 then 0 else memLine r.s.mem k)
        let s := r.s.askTook i (16 + n) k none 0
        let s := if tRed t = 0 then s.storeLine k d (BitVec.allOnes 64) c.wid c.writer.1 c.writer.2
                 else s.storeSealed k d (BitVec.allOnes 64) c.wid c.writer.1 c.writer.2
        { r with s := s.modCtxAt i (fun c => (c.noteAccess l.toNat false true).direct
                    { line := k, queue := 16 + n, seq := o.seq, un := e.kind == .un, mark := (c.wp n).toNat + 64 }),
                 over_ := r.over_ ++ r.s.writeOver (dieOf i) pa r.s.ptime })
  | (.win core off, r) =>
    if !r.ok then r else
    if tRed t ≠ 0 ∧ (r.s.coreAt core).badLine (off / 64) (BitVec.allOnes 64) then r.fail 0x19 r.s.badTval else
    { r with s := r.s.scratchLine i 4 core off (f (if tRed t = 0 then 0 else memLine (r.s.coreAt core).scratch (off / 64)))
                    (BitVec.allOnes 64) }
  | (.bad, r) => r

/-- Whether the head of a channel may land line `j` now: its claims and its not-before time, the earlier
accesses of the S queue (04 R90), and the rates of R245: one line of a channel in a cycle, none in the cycle in which the
copy began (log 24), two lines of a core. A multicast line may land at several receivers in one cycle (log 25). -/
def State.mayLand (s : State) (i j : Nat) (o : Copy) : Bool :=
  let c := s.ctxAt i; let k := s.coreAt (coreOf i)
  o.begun && o.nbDone && !o.held && c.stores.all (fun t => decide (o.seq ≤ t.seq)) && s.ptime != o.began
    && (if s.ptime = o.last then j == o.lastN else !(k.landT == s.ptime && decide (2 ≤ k.landN)))

/-- Counts the landing of a copy's line, of its core in the present cycle. -/
def State.noteLanding (s : State) (i : Nat) (o : Copy) : State :=
  if o.last = s.ptime then s
  else s.modCoreAt (coreOf i) (fun k => { k with landT := s.ptime, landN := if k.landT = s.ptime then k.landN + 1 else 1 })

/-- A copy is performed: its slots become full and free, its channel proceeds (10 R251, 02 R52). -/
def State.copyDone (s : State) (i n : Nat) (o : Copy) : State :=
  let t := o.tmpl
  let s := s.modCtxAt i (fun c =>
    let c := match o.srcSlot with | some k => c.setHandle (tSh t) (hSetState (c.handle (tSh t)) k 0) | none => c
    let c := match o.dstSlot with | some k => c.setHandle (tDh t) (hSetState (c.handle (tDh t)) k 2) | none => c
    match o.probe with | some k => { c with tags := tset c.tags k (setF (c.tagAt k) 45 2 2) } | none => c)
  s.copyGone i n

/-- A copy meets a fault at a line: it is held with a record (10 R247). -/
def State.copyHeld (s : State) (i n : Nat) (o : Copy) (f : Nat × Word) : State :=
  (s.copyRec i n o f.1 fHeld f.2 0).modCtxAt i (fun c => (c.askDone (16 + n)).setHead n { o with held := true })

/-- COPY_LINE_LANDING: the next line of the copy at the head of a channel lands. -/
def execCopyLineLanding (i n : Nat) (s : State) : Out :=
  let c := s.ctxAt i
  match c.copyAtHead n with
  | none => .next s
  | some o =>
    let j := (c.wp n - o.wp0).toNat / 64
    if !s.mayLand i j o || tMC o.tmpl != 0 then .next s
    else
      let dst := c.copyDst o
      let lines := dstLines o.tmpl dst
      match nth lines j with
      | none => .next s
      | some l =>
        let (p, u) := (MRun.start s 0).copyLine i n (o.asking j) (c.copySrc o) dst l
        let r := if u.ok && s.ptime < u.last then u else u.landLine i n o l (fun d => applyElems o.tmpl d p.1 p.2)
        if r.wait then .next (s.engWait i (16 + n) r)
        else match r.stop with
          | some f =>
            let t := s.copyHeld i n o f
            if t.noRoom then .next s else .next t
          | none =>
            if s.ptime < r.last then .next (s.engWait i (16 + n) r)
            else
              let t := (r.s.noteLanding i o).modCtxAt i (fun c =>
                (({ c with wps := tset c.wps n (c.wp n + 64) } : Ctx).askDone (16 + n)).setHead n { o with last := s.ptime, lastN := j })
              let t := t.overrun i (16 + n) r.over_
              let t := if lines.length ≤ j + 1 then t.copyDone i n o else t
              if t.noRoom then .next s else .next t

/-! ### Multicast (10 R252) -/

/-- Sets a receiver of the copy. -/
def setRecv (l : List Receiver) (r : Receiver) : List Receiver := l.map (fun x => if x.member = r.member then r else x)

/-- WP moves to the lines that every receiver without a fault has; when all have it, or none is left,
the copy is performed (10 R252, log 25). -/
def State.advanceMulticast (s : State) (i n total : Nat) (o : Copy) : State :=
  let live := o.recv.filter (fun r => !r.failed)
  let done := live.foldl (fun m r => Nat.min m r.lines) total
  let s := s.modCtxAt i (fun c =>
    ({ c with wps := tset c.wps n (o.wp0 + BitVec.ofNat 64 (64 * done)) } : Ctx).setHead n o)
  if done = total then s.copyDone i n o else s

/-- A receiver whose slot is not free: records at the receiver and at the sender. -/
def State.recvOverrun (s : State) (i n : Nat) (o : Copy) (m : Nat) (j : Option Nat) : State :=
  let me := BitVec.ofNat 64 (s.ctxAt i).member
  let s := match j with | some j => s.copyRec j n o 0x13 fRecv 0 me | none => s
  s.copyRec i n o 0x13 0 0 (BitVec.ofNat 64 m)

/-- The bytes of destination line `k` of a multicast copy at the destination `l`, which the first receiver to take it reads
for all. -/
def MRun.castLine (r : MRun) (i n : Nat) (o : Copy) (k : Nat) (src l : Word) : Line × MRun :=
  match nth o.mdata k with
  | some d => (d, r)
  | none =>
    let (q, r) := r.copyLine i n (o.asking k) src (doff o.start) l
    (applyElems o.tmpl 0 q.1 q.2, r)

/-- MULTICAST_LANDING: the next line of a multicast copy lands at one receiver. The first one tests the receiver's slot as
it lands: once its source has been read (10 R251, R252). A receiver whose block has ended after its first line has no
footprint: the copy meets a bounds fault there (log 25). -/
def execMulticastLanding (i n m : Nat) (s : State) : Out :=
  let c := s.ctxAt i
  match c.copyAtHead n with
  | none => .next s
  | some o => match o.recv.find? (fun r => r.member == m) with
    | none => .next s
    | some rv =>
      let t := o.tmpl
      let pattern := dstLines t (doff o.start)
      let total := pattern.length
      let j := s.memberCtx i m
      let free := match j with
        | some j => let h := (s.ctxAt j).handle (tDh t); hEn h && hState h (hPP h) == 0
        | none => false
      let src := match nth pattern rv.lines with
        | some p => ((MRun.start s 0).castLine i n o rv.lines (c.copySrc o) p).2
        | none => MRun.start s 0
      if !s.mayLand i rv.lines o || rv.failed || decide (total ≤ rv.lines) then .next s
      else if rv.slot.isNone && !free && src.stop.isNone then
        if src.wait || decide (s.ptime < src.last) then .next (s.engWait i (16 + n) src)
        else
          let o' := { o with recv := setRecv o.recv { rv with failed := true } }
          let u := (s.recvOverrun i n o m j).advanceMulticast i n total o'
          if u.noRoom then .next s else .next u
      else match j, nth pattern rv.lines with
        | some j, some p =>
          let h := (s.ctxAt j).handle (tDh t)
          let slot := match rv.slot with | some k => k | none => hPP h
          let l := (s.ctxAt j).handleWin (tDh t) slot + p
          let (d, r) := (MRun.start s 0).castLine i n o rv.lines (c.copySrc o) p
          let r := if r.ok && s.ptime < r.last then r else r.landLine i n o l (fun _ => d)
          if r.wait then .next (s.engWait i (16 + n) r)
          else match r.stop with
            | some f =>
              let u := s.copyHeld i n o f
              if u.noRoom then .next s else .next u
            | none =>
              if s.ptime < r.last then .next (s.engWait i (16 + n) r)
              else
                let lines := rv.lines + 1
                let u := ((r.s.noteLanding i o).modCtxAt i (·.askDone (16 + n))).modCtxAt j (fun x =>
                  let h := x.handle (tDh t)
                  let h := if rv.slot.isNone then hSetPP (hSetState h slot 1) (hPP h + 1) else h
                  x.setHandle (tDh t) (if lines = total then hSetState h slot 2 else h))
                let o' := { o with recv := setRecv o.recv { rv with slot := some slot, lines := lines },
                                   mdata := (if rv.lines < o.mdata.length then o.mdata else o.mdata ++ [d]),
                                   last := s.ptime, lastN := rv.lines }
                let u := (u.overrun i (16 + n) r.over_).advanceMulticast i n total o'
                if u.noRoom then .next s else .next u
        | none, some p =>
          let gone := winAddr m (hSlot (c.handle (tDh t)) (rv.slot.getD 0)) + p
          let u := s.copyHeld i n o (0x0A, gone)
          if u.noRoom then .next s else .next u
        | _, none => .next s

end Sys2Proof.Machine
end

