-- ==== Sys2Proof/Machine/Flits.lean ====
section
/-! DEFINITION. Flits, links and routes (23 R363 to R366, R371). -/

namespace Sys2Proof.Machine

/-! ### Flits (23 R363) -/

def fSeq (f : BitVec 2048) : BitVec 12 := f.extractLsb' 0 12
def fAck (f : BitVec 2048) : BitVec 12 := f.extractLsb' 16 12
def fNak (f : BitVec 2048) : Bool := getB f 31
/-- The virtual lane: 0 request, 1 response, 2 collective, 3 control. -/
def fLane (f : BitVec 2048) : Nat := getF f 32 2
/-- Lines carried. -/
def fNl (f : BitVec 2048) : Nat := getF f 34 2
def fOn (f : BitVec 2048) : BitVec 4 := f.extractLsb' 40 4
def fDev (f : BitVec 2048) : Nat := getF f 48 16
def fAddr (f : BitVec 2048) : Word := f.extractLsb' 64 64
/-- Line `k` of a flit. -/
def fLine (f : BitVec 2048) (k : Nat) : Line := f.extractLsb' (128 + 512 * k) 512
/-- The lines of a flit. -/
def fLines (f : BitVec 2048) : List Line := (range 0 (fNl f)).map (fLine f)
/-- Whether the CRC of bytes 0 to 207 is right. -/
def fCrcOk (f : BitVec 2048) : Bool := crc32c (natBytes 208 (getF f 0 1664)) == getF f 1664 32

/-- What the sender of a flit puts in: lane, destination, address or control word, at most three lines. -/
structure Cargo where
  lane : Nat
  dev : Nat
  addr : Word
  lines : List Line
  deriving DecidableEq, Repr

/-- The cargo of a flit. -/
def fCargo (f : BitVec 2048) : Cargo := { lane := fLane f, dev := fDev f, addr := fAddr f, lines := fLines f }

/-- The flit of a cargo with a SEQ, an ACK and its NAK bit, and ON bits. -/
def mkFlit (seq ack : BitVec 12) (nak : Bool) (on : BitVec 4) (c : Cargo) : BitVec 2048 :=
  let n := Nat.min 3 c.lines.length
  let data := ((range 0 3).zip c.lines).foldl (fun x e => x + e.2.toNat * 2 ^ (128 + 512 * e.1)) 0
  let head := seq.toNat + ack.toNat * 2 ^ 16 + bit nak * 2 ^ 31 + c.lane % 4 * 2 ^ 32 + n * 2 ^ 34 + on.toNat * 2 ^ 40
    + c.dev % 8192 * 2 ^ 48 + c.addr.toNat * 2 ^ 64 + data
  let body := head + crc32c (natBytes 208 head) * 2 ^ 1664
  BitVec.ofNat 2048 (body + (Config.fec (BitVec.ofNat 1696 body)).toNat * 2 ^ 1696)

/-! ### Sending (23 R364, R365) -/

/-- Whether a link takes `n` more flits of a lane: it is up, the receiver's ON bit is set, and the replay buffer of
2,048 flits has room. -/
def Link.takes (l : Link) (lane n : Nat) : Bool := l.up && getB l.onSeen lane && decide (l.replay.length + n ≤ 2048)

/-- The link carries traffic of a partition (or of none) (23 R365). -/
def Link.carry (l : Link) (part : Option Nat) : Link :=
  match part with
  | some p => if l.carried.contains p then l else { l with carried := p :: l.carried }
  | none => l

/-- Sends a flit of a partition's traffic (or of none), with the answer that is owed: it stays in the replay buffer until
an ACK covers it. -/
def Link.send (l : Link) (c : Cargo) (part : Option Nat) : Link :=
  { l.carry part with txSeq := l.txSeq + 1, nak := false, owed := false,
                      replay := l.replay ++ [mkFlit (l.txSeq + 1) l.rxSeq l.nak l.onSent c] }

/-- The replay buffer without the flits that an ACK covers. -/
def ackedTo (ack : BitVec 12) : List (BitVec 2048) → List (BitVec 2048)
  | [] => []
  | f :: t => if fSeq f = ack then t else if t.any (fun g => fSeq g == ack) then ackedTo ack t else f :: t

/-- The ON bits of a link: clear at 48 flits held or more, set at 16 or fewer. -/
def Link.onBits (l : Link) : BitVec 4 :=
  (range 0 4).foldl (fun x v =>
    let n := (vget [] l.skid v).length
    if 48 ≤ n then setF x v 1 0 else if n ≤ 16 then setF x v 1 1 else x) l.onSent

/-- Sets the ON bits; a change is owed to the neighbour. -/
def Link.setOn (l : Link) : Link := { l with onSent := l.onBits, owed := l.owed || l.onBits != l.onSent }

/-! ### Routes (23 R366) -/

def Package.linkAt (p : Package) (i : Nat) : Link := vget Link.reset p.links i
def Package.setLink (p : Package) (i : Nat) (l : Link) : Package := { p with links := vset p.links i l }

/-- The direction, 0 plus or 1 minus, from a coordinate to another round a ring; none when they are equal. -/
def turn (a b n : Nat) : Option Nat :=
  if a = b then none else if 2 * ((b + n - a) % n) ≤ n then some 0 else some 1

/-- The place of a device in the torus. -/
def Package.place (p : Package) (d : Nat) : Nat × Nat × Nat :=
  let (x, y, z) := p.torus
  (d % x, d / x % y, d / (x * y) % z)

/-- The turns from one device to another in x, y and z. -/
def Package.turns (p : Package) (a b : Nat) : Option Nat × Option Nat × Option Nat :=
  let (x, y, z) := p.torus
  let a := p.place a; let b := p.place b
  (turn a.1 b.1 x, turn a.2.1 b.2.1 y, turn a.2.2 b.2.2 z)

/-- The direction of the next hop to a device: +x, −x, +y, −y, +z, −z from 0; x first, then y, then z. -/
def Package.direction (p : Package) (dev : Nat) : Option Nat :=
  match p.turns p.devNum dev with
  | (some d, _, _) => some d
  | (none, some d, _) => some (2 + d)
  | (none, none, some d) => some (4 + d)
  | (none, none, none) => none

/-- The direction that faces the last hop of a flit from a device. -/
def Package.facing (p : Package) (dev : Nat) : Option Nat :=
  match p.turns dev p.devNum with
  | (_, _, some d) => some (4 + (1 - d))
  | (_, some d, none) => some (2 + (1 - d))
  | (some d, none, none) => some (1 - d)
  | (none, none, none) => none

/-- The device that link `i` faces. -/
def Package.neighbour (p : Package) (i : Nat) : Nat :=
  let (x, y, z) := p.torus
  let (a, b, c) := p.place p.devNum
  let (a, b, c) := match i / 2 with
    | 0 => ((a + 1) % x, b, c)
    | 1 => ((a + x - 1) % x, b, c)
    | 2 => (a, (b + 1) % y, c)
    | 3 => (a, (b + y - 1) % y, c)
    | 4 => (a, b, (c + 1) % z)
    | _ => (a, b, (c + z - 1) % z)
  a + x * b + x * y * c

/-- Where a flit goes next. -/
inductive Route
  | link (l : Nat)
  /-- It is held until the pair's partner takes the traffic. -/
  | wait
  /-- No link leads to the device. -/
  | gone
  deriving DecidableEq, Repr

/-- The route to a device: link 2i for even, 2i + 1 for odd device numbers, its partner after a major slot has
moved the traffic of a link that is down. -/
def Package.route (p : Package) (dev : Nat) : Route :=
  match p.direction dev with
  | none => .gone
  | some i =>
    let l := 2 * i + dev % 2
    let m := 2 * i + 1 - dev % 2
    if (p.linkAt l).up then .link l
    else if !(p.linkAt m).up then .gone
    else if (p.linkAt l).failover then .link m else .wait

/-- Whether a major slot or its drain lead runs at a time. -/
def Cal.slotOrLead (c : Cal) (t : Nat) : Bool := decide (c.majorNext t ≤ t + c.lead)

/-- Whether either end of link `i` is in a major slot or its drain lead (23 R371). The neighbour's PTIME stands at the
offset of the latest check (23 R370). -/
def Package.linkHeld (p : Package) (now i : Nat) : Bool :=
  p.cal.slotOrLead now || p.cal.slotOrLead ((now : Int) + (nth p.offsets i).getD 0).toNat

/-- Sends cargoes to their devices, all of them or none; none on a link that is held. -/
def Package.sendAll (p : Package) (now : Nat) (part : Option Nat) : List Cargo → Option Package
  | [] => some p
  | c :: t => match p.route c.dev with
    | .link l =>
      if (p.linkAt l).takes c.lane 1 && !p.linkHeld now l then (p.setLink l ((p.linkAt l).send c part)).sendAll now part t
      else none
    | _ => none

/-- Lines in groups of at most three, at most `n` groups. -/
def threes {α : Type} : Nat → List α → List (List α)
  | 0, _ => []
  | _, [] => []
  | n + 1, l => l.take 3 :: threes n (l.drop 3)

/-- Sends cargoes of a partition's traffic (or of none) now, all of them or none. -/
def State.sendAll (s : State) (part : Option Nat) (cs : List Cargo) : Option State :=
  (s.pkg.sendAll s.ptime part cs).map (fun p => { s with pkg := p })

end Sys2Proof.Machine
end

