-- ==== Sys2Proof/Machine/Engines.lean ====
section
/-! DEFINITION. The E slot: handles, queue fences, barriers, collectives, write pointers
(04 R91, R99, R100; 10 R253 to R258). -/

namespace Sys2Proof.Machine

/-! ### Handles (10 R253) -/

/-- Whether a count is one that a handle instruction may name; it depends on the descriptor. Handle
h31 beside a probe region takes no count. -/
def Ctx.countOk (c : Ctx) (h : BitVec 5) (n : BitVec 16) : Bool :=
  (h == 31 && c.probeSlots != 0) || decide (1 ≤ n.toNat ∧ n.toNat ≤ hCount (c.handle h.toNat))

/-- The checks of a handle instruction with a count: reserved-field, then handle-state. -/
def State.handleWord (s : State) (h : BitVec 5) (n : BitVec 16) (act : State → Out) : Out :=
  if !s.ctx.countOk h n then .next (s.faultWord 0x03)
  else if !s.ctx.handleOk h.toNat then .next (s.faultA 0x14 (hNum h))
  else act s

/-- Whether the n slots from the consumer pointer are full. -/
def Ctx.slotsFull (c : Ctx) (h : BitVec 5) (n : BitVec 16) : Bool :=
  let d := c.handle h.toNat; slotsAll d (hCP d) n.toNat (fun i => hState d i == 2)
/-- Whether the n slots from the producer pointer are free. -/
def Ctx.slotsFree (c : Ctx) (h : BitVec 5) (n : BitVec 16) : Bool :=
  let d := c.handle h.toNat; slotsAll d (hPP d) n.toNat (fun i => hState d i == 0)

def execCbwait (h : BitVec 5) (n : BitVec 16) (s : State) : Out :=
  s.handleWord h n (fun s => if s.ctx.slotsFull h n then .next s else .next s.waitResource)

/-- Whether S[a] is the window address of a probe slot that is full. -/
def Ctx.probeFull (c : Ctx) (a : Word) : Bool :=
  (range 0 c.probeSlots).any (fun k => c.probeWin k == a && gState (c.tagAt k) == 2)

/-- `cbwait h31` on a probe slot (02 R54). Without a probe region its count of 0 is reserved. -/
def execCbwaitProbe (a : SReg) (s : State) : Out :=
  if s.ctx.probeSlots = 0 then .next (s.faultWord 0x03)
  else if s.ctx.probeFull (s.rS a) then .next s else .next s.waitResource

def execCbfree (h : BitVec 5) (n : BitVec 16) (s : State) : Out :=
  s.handleWord h n (fun s => if s.ctx.slotsFree h n then .next s else .next s.waitResource)

def execCbadvc (h : BitVec 5) (n : BitVec 16) (s : State) : Out :=
  s.handleWord h n (fun s =>
    if !s.ctx.slotsFull h n then .next (s.faultA 0x14 (hNum h))
    else .next (s.modCtx (fun c =>
      let d := c.handle h.toNat
      c.setHandle h.toNat (hSetCP (slotsSet d (hCP d) n.toNat 0) (hCP d + n.toNat)))).mark)

/-- Whether one of the n slots from the producer pointer is pinned (10 R251). -/
def State.slotsPinned (s : State) (i : Nat) (h : BitVec 5) (n : BitVec 16) : Bool :=
  let d := (s.ctxAt i).handle h.toNat
  (range (hPP d) n.toNat).any (fun k => s.touched i (hSlot d (k % hCount d)) (hSize d))

def execCbadvp (h : BitVec 5) (n : BitVec 16) (s : State) : Out :=
  s.handleWord h n (fun s =>
    let d := s.ctx.handle h.toNat
    if !slotsAll d (hPP d) n.toNat (fun i => decide (hState d i ≤ 1)) || s.slotsPinned s.cur h n then
      .next (s.faultA 0x14 (hNum h))
    else .next (s.modCtx (fun c =>
      c.setHandle h.toNat (hSetPP (slotsSet d (hPP d) n.toNat 2) (hPP d + n.toNat)))).mark)

def execCbstat (h : BitVec 5) (d : SReg) (s : State) : Out :=
  if h = 31 ∧ s.ctx.probeSlots ≠ 0 then .next (s.faultA 0x14 (hNum h))
  else .next (s.wS 1 d ((s.ctx.handle h.toNat).extractLsb' 64 64))

/-! ### Queue fences (04 R91, 10 R254) -/

/-- The stores of the region take their places ahead of the join. -/
def execQfence (qs qm qx : Bool) (cs : BitVec 16) (s : State) : Out :=
  let s := s.mark.modCtx (fun c =>
    if !qs && !qm && !qx && cs == 0 then c
    else { c with joins := c.joins ++ [{ seq := c.seq, s := qs, m := qm, x := qx, chans := cs }], seq := c.seq + 1 })
  .next (s.settle s.cur s.ctx.stores.length)

/-! ### Barriers (04 R99, 10 R255) -/

/-- Whether a context's earlier accesses, which its barrier releases, have been performed. -/
def Ctx.quiet (c : Ctx) : Bool :=
  !c.stores.any (fun t => t.isAccess && t.page != .un) && c.joins.all (fun j => !j.s || c.joinDone j)

/-- The contexts that hold the members of context `i`'s gang. -/
def State.gangCtxs (s : State) (i : Nat) : List (Option Nat) :=
  (range 0 (s.ctxAt i).gangSize).map (s.memberCtx i)

/-- Whether every member has reached the barrier that context `i` stands at. -/
def State.barReached (s : State) (i : Nat) : Bool :=
  (s.ctxAt i).barOpen || (s.gangCtxs i).all (fun m => match m with
    | some j => (j == i || (s.ctxAt j).barHere) && (s.ctxAt j).quiet && (s.ctxAt j).bars == (s.ctxAt i).bars
    | none => false)

/-- The members that wait at the same barrier may pass it. -/
def State.openBar (s : State) (i : Nat) : State :=
  if (s.ctxAt i).barOpen then s
  else (s.gangCtxs i).foldl (fun s m => match m with
    | some j => if j = i then s else s.modCtxAt j (fun c => { c with barOpen := true })
    | none => s) s

/-- Whether the accesses that member `j` orders before its barrier number `n` have been performed (04 R99). A member
whose block has ended has performed all of its own. -/
def Ctx.barPast (c : Ctx) (n : Nat) : Bool :=
  decide (n < c.bars) || (c.bars == n && !c.stores.any (fun t => t.isAccess && t.page != .un && decide (t.seq < c.barSeq)))

/-- The accesses after a barrier of context `i` may be performed once those of every member before it have been; the
acquire comes before them (04 R99). -/
def State.settleBar (s : State) (i : Nat) : State :=
  let c := s.ctxAt i
  if c.barHold && (s.gangCtxs i).all (fun m => match m with | some j => (s.ctxAt j).barPast c.bars | none => true) then
    let s := (s.modCtxAt i (fun c => { c with barHold := false })).acquire i .cl
    s.settle i (s.ctxAt i).stores.length
  else s

/-- A release and an acquire at cluster scope around a wait for the gang. Another member may pass while the earlier slots
of this one's bundle have not run: accesses after the barrier wait for them (04 R99). A block that is not ganged
has no handle that TVAL could name (log 19). -/
def execBar (s : State) : Out :=
  if s.ctx.gangSize = 0 then .next (({ s with free := s.free + 1 } : State).faultA 0x14 (Config.freeWord s.free))
  else if s.barReached s.cur then
    .next ((((s.openBar s.cur).modCtx (fun c =>
      { c with bars := c.bars + 1, barHere := false, barOpen := false, barHold := true, barSeq := c.seq })).acquire s.cur .cl).mark)
  else .next ((s.modCtx (fun c => { c with barHere := true })).waitResource)

/-! ### Write pointers (10 R258) -/

def execWpwait (c : BitVec 4) (a : SReg) (s : State) : Out :=
  let n := (s.rS a).toNat
  if n ≤ (s.ctx.wp c.toNat).toNat then
    .next (s.modCtx (·.ordered (fun e => e.queue == 16 + c.toNat && decide (e.mark < n + 64))))
  else .next s.waitResource

/-! ### Collectives (10 R256, R257; 18 R310) -/

/-- NMEM of a group, and where its member descriptors lie. -/
def State.groupMembers (s : State) (part g : Nat) : Nat × Nat :=
  let e := (s.partAt part).grp.toNat + 16 * g
  (memNat s.mem e 2, memNat s.mem (e + 8) 8)

/-- Whether descriptor `k` of a group names context `i`. -/
def State.isMember (s : State) (i base k : Nat) : Bool :=
  match (s.ctxAt i).block with
  | none => false
  | some b =>
    let d : Word := BitVec.ofNat 64 (memNat s.mem (base + 8 * k) 8)
    getF d 0 13 == s.pkg.devNum && getF d 13 4 == b.part && getF d 17 6 == b.queue && getF d 23 24 == b.b

/-- The member number of context `i` in a group, if it is a member. -/
def State.memberOf (s : State) (i part g : Nat) : Option Nat :=
  let (n, base) := s.groupMembers part g
  (range 0 n).find? (s.isMember i base)

/-- The checks at issue of a `cred`: cause and TVAL. -/
def State.credCheck (s : State) (h : BitVec 5) (a : Word) (g : BitVec 8) : Option (Nat × Word) :=
  let c := s.ctx
  let size := hSize (c.handle h.toNat)
  if (s.memberOf s.cur c.part g.toNat).isNone || decide (4096 < size) then some (0x1B, g.setWidth 64)
  else match regionOf a with
    | .window m byte =>
      if byte % 64 ≠ 0 then some (0x09, a)
      else if m ≠ c.member ∨ c.scratch < byte + size then some (0x0A, a)
      else if !c.handleOk h.toNat then some (0x14, hNum h)
      else none
    | _ => some (0x0B, tvalUndeclared a)

/-- Whether a `cred` waits: for room in the X queue, or for the slot at the producer pointer. -/
def Ctx.credWaits (c : Ctx) (h : BitVec 5) : Bool :=
  let d := c.handle h.toNat
  decide (4 ≤ c.xq.length) || (c.handleOk h.toNat && hState d (hPP d) != 0)

/-- The operation joins the X queue. -/
def execCred (h : BitVec 5) (a : SReg) (g : BitVec 8) (op : BitVec 4) (s : State) : Out :=
  let x := s.rS a
  if s.ctx.credWaits h then .next s.waitResource
  else if 5 ≤ op.toNat then .next (s.faultWord 0x03)
  else match s.credCheck h x g with
    | some (c, t) => .next (s.faultA c t)
    | none =>
      .next (s.modCtx (fun c =>
        let k := tget 0 c.credN g.toNat
        { c with xq := c.xq ++ [{ k := k, op := op, h := h.toNat, slot := 0, group := g.toNat, addr := getF x 0 20,
                                  size := hSize (c.handle h.toNat), seq := c.seq, read := none, time := s.ptime }],
                 credN := tset c.credN g.toNat (k + 1), seq := c.seq + 1 })).mark

/-- What has been given for a collective. -/
def State.collOf (s : State) (part g k : Nat) : Coll :=
  match s.colls.find? (fun c => c.part == part && c.group == g && c.k == k) with
  | some c => c
  | none => { part := part, group := g, k := k, got := [], recv := [], taken := [], last := 0 }

/-- The device of member `k` of a group. -/
def State.memberDev (s : State) (part g k : Nat) : Nat := memNat s.mem ((s.groupMembers part g).2 + 8 * k) 2 % 2 ^ 13

/-- What a member has given again, for the next collective of the same number. -/
def Coll.again (c : Coll) : List (Nat × Nat × Nat × Option (List Byte)) :=
  (c.got.foldl (fun (acc : List Nat × List (Nat × Nat × Nat × Option (List Byte))) e =>
    if acc.1.contains e.1 then (acc.1, acc.2 ++ [e]) else (e.1 :: acc.1, acc.2)) ([], [])).2

/-- Replaces a collective; one whose result every member on this device has taken goes, and leaves what members of other
devices have since given (log 57). -/
def State.setColl (s : State) (n : Nat) (c : Coll) : State :=
  let rest := s.colls.filter (fun x => !(x.part == c.part && x.group == c.group && x.k == c.k))
  let ended := (range 0 n).all (fun m => s.memberDev c.part c.group m != s.pkg.devNum || c.taken.contains m)
  let next : Coll := { c with got := c.again, taken := [] }
  { s with colls := if !ended then c :: rest else if next.got.isEmpty && next.recv.isEmpty then rest else next :: rest }

/-- What a collective is for member `m`: the next one of its number, once it has taken the result. -/
def Coll.next (c : Coll) (m : Nat) : Coll := if c.taken.contains m then { c with got := c.again, taken := [] } else c

/-- Whether each of `n` members has given. -/
def Coll.whole (c : Coll) (n : Nat) : Bool := (range 0 n).all (fun k => c.got.any (fun e => e.1 == k))

/-- A member leaves with its block: what it has given beyond the collective under way goes; of that one its contribution
too, unless every member has given, when the member counts as having taken its result (log 57). -/
def Coll.leave (c : Coll) (n m : Nat) : Coll :=
  let first := (range 0 n).flatMap (fun k => (c.got.filter (fun e => e.1 == k)).take 1)
  if c.taken.contains m || c.whole n then
    { c with got := first ++ c.again.filter (fun e => e.1 != m), taken := if c.taken.contains m then c.taken else m :: c.taken }
  else { c with got := c.got.filter (fun e => e.1 != m) }

/-- Adds what a member has given. -/
def Coll.give (c : Coll) (m op size now : Nat) (x : Option (List Byte)) : Coll :=
  { c with got := c.got ++ [(m, op, size, x)], last := Nat.max c.last now }

/-- The other devices of a group's members. -/
def State.groupDevices (s : State) (part g : Nat) : List Nat :=
  ((range 0 (s.groupMembers part g).1).map (s.memberDev part g)).foldl (fun l d =>
    if d = s.pkg.devNum ∨ l.contains d then l else l ++ [d]) []

/-- A contribution, or a result, as it goes to the other devices of its group on lane 2 (23 R369), in flits of at most three
lines; a member that gives none sends a flit without lines. The spec gives no layout of the control words: they are free
values (log 36). -/
def State.contribution (s : State) (part g : Nat) (x : List Byte) : List Cargo :=
  let lines := (range 0 ((x.length + 63) / 64)).map (fun k => bytesLine 0 ((x.drop (64 * k)).take 64))
  let flits := if lines.isEmpty then [[]] else threes lines.length lines
  let all := (s.groupDevices part g).flatMap (fun d => flits.map (fun l => (d, l)))
  ((range s.free all.length).zip all).map (fun e =>
    { lane := 2, dev := e.2.1, addr := Config.freeWord e.1, lines := e.2.2 })

/-- Sends a contribution or a result to the other devices of its group, or nothing where a link does not take it now. -/
def State.sendPart (s : State) (part g : Nat) (x : List Byte) : Option State :=
  let cargo := s.contribution part g x
  (s.sendAll (some part) cargo).map (fun t => { t with free := s.free + cargo.length })

/-- The operation's slot, at the producer pointer, is claimed at the start: it becomes filling, and the pointer moves
(10 R251). -/
def Ctx.claimCred (c : Ctx) (o : Cred) : Ctx :=
  let d := c.handle o.h
  c.setHandle o.h (hSetPP (hSetState d (hPP d) 1) (hPP d + 1))

/-- CRED_CONTRIBUTION_READ: the operation at the head of the X queue starts, claims its slot and reads its
contribution; a member that differs from the reference member is refused with a record, and its slot returns to free
(10 R251, R257). It waits while the slot is not free (log 57). -/
def execCredContributionRead (i : Nat) (s : State) : Out :=
  let c := s.ctxAt i
  match c.xq, c.block with
  | o :: rest, some b =>
    let d := c.handle o.h
    if o.read.isSome || !c.joinsClear o.seq (fun j => j.x) || c.leaving || hState d (hPP d) != 0 then .next s
    else match s.memberOf i b.part o.group with
      | none => .next s
      | some m =>
        let n := (s.groupMembers b.part o.group).1
        let cl := s.collOf b.part o.group o.k
        let ref := if m = 0 then some (o.op.toNat, o.size)
          else ((cl.next m).got.find? (fun e => e.1 == 0)).map (fun e => (e.2.1, e.2.2.1))
        match ref with
        | none => .next s
        | some (op, size) =>
          let dropped (code : Nat) (tval aux : Word) : Out :=
            match s.sendPart b.part o.group [] with
            | none => .next s
            | some t =>
              let cl := cl.give m o.op.toNat o.size s.ptime none
              let t := t.setColl n { cl with taken := m :: cl.taken }
              let t := t.modCtxAt i (fun c =>
                let c := ({ c with xq := rest } : Ctx).claimCred o
                (c.setHandle o.h (hSetState (c.handle o.h) (hPP d) 0)).dropJoins)
              let t := t.postEng i 2 (t.ctxRec i code 3 2 0 tval 0 aux)
              if t.noRoom then .next s else .next (t.settle i (t.ctxAt i).stores.length)
          if op = o.op.toNat ∧ size = o.size then
            if (s.coreAt (coreOf i)).badBytes (b.scratchBase + o.addr) o.size then dropped 0x19 s.badTval 0 else
            let x := memRead (s.coreAt (coreOf i)).scratch (b.scratchBase + o.addr) o.size
            match s.sendPart b.part o.group x with
            | none => .next s
            | some t =>
              let t := t.setColl n (cl.give m o.op.toNat o.size s.ptime (some x))
              .next (t.modCtxAt i (fun c => { c.claimCred o with xq := { o with slot := hPP d, read := some x, time := s.ptime } :: rest }))
          else dropped 0x1B (BitVec.ofNat 64 o.group) 0
  | _, _ => .next s

/-- One element of a tree node (10 R257). -/
def credElem (op x y : Nat) : Nat :=
  match op with
  | 0 => (fsF32.addCodes fsF32 x y).1
  | 1 => (fsF32.extreme true x y).1
  | 2 => (fsF32.extreme false x y).1
  | 3 => (fsBF16.addCodes fsBF16 x y).1
  | _ => (x + y) % 2 ^ 32

/-- Bytes of an element of an op. -/
def credBytes (op : Nat) : Nat := if op = 3 then 2 else 4

/-- One level of the tree: neighbours are joined, a last odd one passes up. -/
def credLevel (f : Nat → Nat → Nat) : List Nat → List Nat
  | x :: y :: t => f x y :: credLevel f t
  | l => l

/-- The tree over at most `2^n` values. -/
def credTree (f : Nat → Nat → Nat) : Nat → List Nat → Nat
  | 0, l => (l.head?).getD 0
  | n + 1, l => credTree f n (credLevel f l)

/-- The result of a collective over contributions in ascending member number. -/
def credSum (op size : Nat) (xs : List (List Byte)) : List Byte :=
  let w := credBytes op
  (range 0 (size / w)).flatMap (fun e =>
    natBytes w (credTree (credElem op) 13 (xs.map (fun x => bytesNat ((x.drop (w * e)).take w)))))

/-- The major slots that open after a collective has started at time `t` and before its result: overruns, where its group
spans devices, whose links are in the slot (21 R351, R353, 23 R369). One of a single device moves in scratchpads alone, which
no slot affects (log 68). -/
def State.credOver (s : State) (part g t : Nat) : List Nat :=
  if (s.groupDevices part g).isEmpty then [] else (s.overFrom 0x100000000000 t 16 s.ptime []).2.map Prod.fst

/-- CRED_RESULT: every member has given its contribution; the result stands in the claimed slot, which is full (10 R251, R257).
The reference member's device sends it to the other devices of the group, for which it waits (23 R369; log 36). -/
def execCredResult (i : Nat) (s : State) : Out :=
  let c := s.ctxAt i
  match c.xq, c.block with
  | o :: rest, some b =>
    match s.memberOf i b.part o.group with
    | none => .next s
    | some m =>
      let n := (s.groupMembers b.part o.group).1
      let cl := s.collOf b.part o.group o.k
      if c.leaving || o.read.isNone || cl.taken.contains m || !cl.whole n || decide (s.ptime < cl.last + 24) then .next s
      else
        let xs := (range 0 n).filterMap (fun k =>
          (cl.got.find? (fun e => e.1 == k && e.2.1 == o.op.toNat && e.2.2.1 == o.size)).bind (fun e => e.2.2.2))
        let y := credSum o.op.toNat o.size xs
        match if m = 0 then s.sendPart b.part o.group y else some s with
        | none => .next s
        | some u =>
          let t := u.modCoreAt (coreOf i) (·.putBytes (b.scratchBase + hSlot (c.handle o.h) o.slot) y)
          let t := t.setColl n { cl with taken := m :: cl.taken }
          let t := t.modCtxAt i (fun c =>
            (({ c with xq := rest } : Ctx).setHandle o.h (hSetState (c.handle o.h) o.slot 2)).dropJoins)
          let t := t.overrun i 2 (s.credOver b.part o.group o.time)
          if t.noRoom then .next s else .next (t.settle i (t.ctxAt i).stores.length)
  | _, _ => .next s

end Sys2Proof.Machine
end

