-- ==== Sys2Proof/Machine/System.lean ====
section
/-! DEFINITION. System registers, package time, the calendar, `ddsync` (07 R164 to R171). -/

namespace Sys2Proof.Machine

/-! ### System registers (07 R164 to R166, R170) -/

/-- CSTAT of context `i`. RRA is 1 while the open region holds a gated store. -/
def Ctx.cstat (c : Ctx) (i : Nat) : Word :=
  BitVec.ofNat 64 (bit c.priv + bit c.ppriv * 2 + bit c.te * 4 + bit c.pte * 8 + bit (c.stores.any (fun t => t.gated)) * 16
    + c.dly.toNat * 32 + bit c.dtk * 128 + c.slotres.toNat * 256 + i % 2 * 65536)

/-- MSDEFCNT: the pseudo-channel that the context last named, with its used counts; `msdef` holds that
number plus one. -/
def State.msdefcnt (s : State) (i : Nat) : Word :=
  match (s.ctxAt i).msdef.toNat with
  | 0 => 0
  | n + 1 => BitVec.ofNat 64 (n * 2 ^ 32 + (range 0 8).foldl (fun x g => x + vget 0 (s.pchCal n).used g * 2 ^ (4 * g)) 0)

/-- MROW. -/
def Ctx.mrowWord (c : Ctx) : Word := BitVec.ofNat 64 (bit c.mval * 2 ^ 11 + c.macc.toNat * 2 ^ 8 + c.mrow.toNat)

/-- The value of a system register, by its number. -/
def State.sysReg (s : State) (i r : Nat) : Word :=
  let c := s.ctxAt i
  match r with
  | 0x0 => c.cstat i
  | 0x1 => c.tcause.setWidth 64
  | 0x2 => c.tval
  | 0x3 => c.tpcw
  | 0x4 => c.tvec
  | 0x5 => c.mrowWord
  | 0x6 => c.tdtgt
  | 0x7 => c.upcw
  | 0x8 => (c.fflagsAt s.ptime).setWidth 64
  | 0x9 => (c.countLat s.ptime).latcnt
  | 0xA => c.pausecnt
  | 0xB => c.specdrop
  | 0xC => s.msdefcnt i
  | 0xD => c.uhvec
  | 0xE => c.ucause.setWidth 64
  | 0xF => c.uval
  | 0x10 => BitVec.ofNat 64 (c.asid * 2 ^ 32 + c.wid.toNat)
  | 0x11 => BitVec.ofNat 64 c.part
  | _ => Config.featv

/-- Registers that user privilege may read. -/
def userReads (r : Nat) : Bool := [0x7, 0x8, 0x9, 0xD, 0xE, 0xF].contains r
/-- Registers that user privilege may write. -/
def userWrites (r : Nat) : Bool := [0x8, 0xD].contains r

/-- Whether `rdsr` of FFLAGS waits for results that are not written yet (03 R80). -/
def State.flagsPending (s : State) : Bool := s.ctx.fpend.any (fun e => decide (s.ptime < e.1))

def execRdsr (d : SReg) (r : BitVec 16) (s : State) : Out :=
  if s.issue.user && !userReads r.toNat then .next (s.faultA 0x08 0)
  else if r = 0x8 ∧ s.flagsPending then .next s.hold
  else .next (s.wS 1 d (s.sysReg s.cur r.toNat))

/-- A write of MROW; clearing VAL discards a held operation, and the queue waits for the return
(09 R213). -/
def Ctx.writeMrow (c : Ctx) (now : Nat) (v : Word) : Ctx :=
  let c := { c with mval := getB v 11, macc := v.extractLsb' 8 3, mrow := v.extractLsb' 0 7 }
  if !getB v 11 && c.heldOp.isSome then { c.discardHeld now with mfreeze := true } else c

/-- A supervisor's write of a system register. One of FFLAGS keeps the flags of results that are written in this cycle or
later (03 R80). -/
def Ctx.writeSys (c : Ctx) (now r : Nat) (v : Word) : Ctx :=
  match r with
  | 0x0 => { c with priv := getB v 0, ppriv := getB v 1, te := getB v 2, pte := getB v 3, dly := v.extractLsb' 5 2,
                    dtk := getB v 7, slotres := v.extractLsb' 8 3 }
  | 0x1 => { c with tcause := v.setWidth 10 }
  | 0x2 => { c with tval := v }
  | 0x3 => { c with tpcw := v }
  | 0x4 => { c with tvec := v }
  | 0x5 => c.writeMrow now v
  | 0x6 => { c with tdtgt := v }
  | 0x7 => { c with upcw := v }
  | 0x8 => { c with fflags := v.setWidth 5, fpend := c.fpend.filter (fun e => decide (now ≤ e.1)) }
  | 0x9 => { c with latcnt := v, yieldLat := c.yieldLat + (v - c.latcnt) }
  | 0xA => { c with pausecnt := v }
  | 0xB => { c with specdrop := v }
  | 0xD => { c with uhvec := v }
  | 0xE => { c with ucause := v.setWidth 13 }
  | 0xF => { c with uval := v }
  | _ => c

def execWrsr (a : SReg) (r : BitVec 16) (s : State) : Out :=
  let n := r.toNat
  if s.issue.user && !userReads n then .next (s.faultA 0x08 0)
  else if s.issue.user && !userWrites n then .next s
  else
    let t := s.modCtx (·.writeSys s.ptime n (s.rS a))
    .next (if n = 5 then t.settle t.cur t.ctx.stores.length else t)

def execRdtime (d : SReg) (s : State) : Out := .next (s.wS 1 d (BitVec.ofNat 64 s.ptime))

/-! ### The calendar (07 R168, R169) -/

/-- Translates S[a] as a load would, every fault in class A (07 R168). -/
def State.calendarAt (s : State) (ea : Word) (act : Nat → State → Out) : Out :=
  match regionOf ea with
  | .virt va => match s.translate s.cur va 1 .read s.issue.user with
    | .ok e pa => act pa (s.modCtx (·.useExtent e (va / 4096)))
    | .fault f => .next (s.faultA f.code f.tval)
    | .walk v => .next (s.needWalk v .read)
  | _ => .next (s.faultA 0x0B (tvalUndeclared ea))

/-- The answer for a slot kind that does not affect the address. -/
def noSlot : Word := BitVec.allOnes 64

def execMscal (d a : SReg) (k : CalKind) (s : State) : Out :=
  s.calendarAt (s.rS a) (fun pa s =>
    let c := s.pkg.cal
    match k with
    | .major => .next (s.wS 4 d (BitVec.ofNat 64 (c.majorNext s.ptime)))
    | .sweep => .next (s.wS 4 d (if isHbm pa then BitVec.ofNat 64 (c.sweepNext (stackOf pa) s.ptime) else noSlot))
    | .bg =>
      if isHbm pa then
        .next ((s.wS 4 d (BitVec.ofNat 64 ((s.pchCal (pchOf pa)).nextBg c (bgOf pa) s.ptime))).modCtx
          (fun c => { c with msdef := BitVec.ofNat 64 (pchOf pa + 1) }))
      else .next (s.wS 4 d noSlot))

/-- Cycles until `msdefer` answers: 8 to 96, set by what the spec does not fix (07 R141, log 19). -/
def deferLatency (k : Nat) : Nat := 8 + (Config.freeWord k).toNat % 89

/-- MSDEFCNT names the new pseudo-channel at once, before the answer (log 51). -/
def execMsdefer (d a : SReg) (s : State) : Out :=
  s.calendarAt (s.rS a) (fun pa s =>
    let lat := deferLatency s.free
    let s := { s with free := s.free + 1 }
    if !isHbm pa then .next (s.wS lat d noSlot).mark
    else
      let p := pchOf pa; let g := bgOf pa
      let q := s.pchCal p
      let left := q.allowance s.pkg.cal g
      let s := s.modCtx (fun c => { c with msdef := BitVec.ofNat 64 (p + 1) })
      if left = 0 then .next (s.wS lat d noSlot).mark
      else .next ((s.setPch p (q.defer s.pkg.cal g s.ptime)).wS lat d (BitVec.ofNat 64 (left - 1))).mark)

/-! ### ddsync (06 R133, 07 R171) -/

/-- Later bundles are held until the dictionary stores released by then have been performed. -/
def execDdsync (s : State) : Out := .next (s.modCtx (fun c => { c with resume := { c.resume with sync := true } })).mark

/-- DDSYNC_COMPLETE: every dictionary store has been performed, so later bundles decode with them; what has been fetched
is fetched again. -/
def execDdsyncComplete (i : Nat) (s : State) : Out :=
  let c := s.ctxAt i
  if c.ddsync && !c.stores.any (fun t => match t.kind with | .dict _ _ => true | _ => false) then
    .next (s.modCtxAt i (fun c => { c with ddsync := false, dictPend := [], ibuf := [] }))
  else .next s

end Sys2Proof.Machine
end

