-- ==== Sys2Proof/Machine/Launch.lean ====
section
/-! DEFINITION. Queues, launch records in a ring, `lnch` and `rlnch` (07 R172, R173; 18 R297 to R300). -/

namespace Sys2Proof.Machine

/-! ### Queues (18 R299) -/

/-- Entries of a queue's rings. -/
def Queue.entries (q : Queue) : Nat := 2 ^ q.log2n
/-- Whether a queue is full. -/
def Queue.full (q : Queue) : Bool := (q.tail + 1) % q.entries == q.head
/-- The physical address of a submission record. -/
def Queue.slotPa (q : Queue) (k : Nat) : Nat := q.base.toNat / 64 * 64 + 512 * (k % q.entries)

/-- The next launch identity: 0 is skipped (18 R300). -/
def nextLid (l : BitVec 32) : BitVec 32 := if l + 1 = 0 then 1 else l + 1

/-- The identity that a record takes as it enters a queue: the next one of the partition, or, for a
relaunch, its target's (18 R300). One whose CMD is neither takes the next one too (log 64). -/
def Part.enterLid (p : Part) (q : Nat) (cmd kobj : Nat) : Part :=
  if cmd = 2 then p.modQueueAt q (fun u => { u with entered := u.entered ++ [BitVec.ofNat 32 kobj] })
  else { p.modQueueAt q (fun u => { u with entered := u.entered ++ [p.lidNext] }) with lidNext := nextLid p.lidNext }

/-- Appends a record of 512 bytes to a queue: its bytes, its identity, TAIL. -/
def State.appendRec (s : State) (part q : Nat) (bs : List Byte) : State :=
  let u := (s.partAt part).queueAt q
  let s := s.deviceWrite (u.slotPa u.tail) bs
  s.modPartAt part (fun p =>
    (p.enterLid q (bytesNat (bs.take 1)) (bytesNat ((bs.drop 8).take 8))).modQueueAt q (fun u =>
      { u with tail := (u.tail + 1) % u.entries }))

/-! ### lnch and rlnch (07 R172, R173) -/

/-- −1, −2 and −3, the answers of a queue that does not take the record. -/
def answer (n : Nat) : Word := BitVec.ofInt 64 (-(n : Int))

/-- The wait of a device append: its release at package scope covers the block's earlier accesses
(04 R87). The answer comes after a time that the spec does not bound (log 27). `extra`, the −3 of `rlnch`, comes behind −2 and
−1 (log 64). -/
def State.append (s : State) (d b : SReg) (extra : Option Word) (bs : List Byte) (lid : State → Word) : Out :=
  if !s.ctx.quiet then .next s.waitEarlier
  else
    let part := s.ctx.part
    let n := (s.rS b).toNat
    let lat := (Config.freeWord s.free).toNat % 65536
    let s := { s with free := s.free + 1 }
    let s := s.releaseSeals s.cur .pkg s.ctx.seq
    let u := (s.partAt part).queueAt n
    if 64 ≤ n ∨ !(u.en && u.own) then .next (s.wS lat d (answer 2)).mark
    else if u.full then .next (s.wS lat d (answer 1)).mark
    else match extra with
      | some x => .next (s.wS lat d x).mark
      | none => .next ((s.appendRec part n bs).wS lat d (lid s)).mark

/-- The lines of a launch record: faults of R172 are class B. The record is no operand that 16 R288 names: its read sets no
filter bit. -/
def State.recordPieces (s : State) (ea : Word) : List (Word × Piece × BitVec 64) :=
  (range 0 8).map (fun c => (chunkAt ea c, s.piece (chunkAt ea c) 64 64 .read false false, BitVec.allOnes 64))

def execLnch (d a b : SReg) (s : State) : Out :=
  let ea := s.rS a
  if ea.toNat % 64 ≠ 0 then .next (s.faultA 0x09 ea)
  else if !(match regionOf ea with | .virt _ => true | _ => false) then .next (s.faultB 0x0B (tvalUndeclared ea))
  else
    let ps := s.recordPieces ea
    match firstBad (ps.map (fun p => p.2.1)) with
    | some p => .next (s.stopped .read p)
    | none => match s.unread ps with
      | some t => .next t
      | none =>
        let (ls, s', _) := s.readPieces ps
        let bs := ls.flatMap (fun l => natBytes 64 l.toNat)
        let s := if s.ctx.quiet then s'.modCtx (fun c => { c with rfilter := s.ctx.rfilter }) else s
        s.append d b none bs (fun s =>
          let p := s.partAt s.ctx.part
          if bytesNat (bs.take 1) = 2 then BitVec.ofNat 64 (bytesNat ((bs.drop 8).take 4)) else p.lidNext.setWidth 64)

/-- The record of a relaunch. -/
def relaunchBytes (lid : Nat) : List Byte := natBytes 8 2 ++ natBytes 8 lid ++ natBytes 496 0

def execRlnch (d a b : SReg) (s : State) : Out :=
  let x := s.rS a
  if getF x 32 32 ≠ 0 then .next (s.faultWord 0x03)
  else
    let known := (s.partAt s.ctx.part).traces.any (fun t => t.lid == x.extractLsb' 0 32)
    s.append d b (if known then none else some (answer 3)) (relaunchBytes x.toNat) (fun _ => x)

end Sys2Proof.Machine
end

