-- ==== Sys2Proof/Machine/Place.lean ====
section
/-! DEFINITION. Loop tables, placement, fit on a core, the arbiter's candidates and choices
(01 R6 to R11; 02 R33; 18 R301, R304 to R307). -/

namespace Sys2Proof.Machine

/-! ### Loop tables (01 R6 to R8) -/

/-- The counts of the levels of a kind, outermost first. -/
def LRec.counts (r : LRec) (kind : Nat) : List Nat := (r.lt.filter (fun e => e.kind == kind)).map (fun e => e.count)
def product (l : List Nat) : Nat := l.foldl (fun n c => n * c) 1
/-- Dn and Cn. -/
def LRec.dn (r : LRec) : Nat := product (r.counts 0)
def LRec.cn (r : LRec) : Nat := product (r.counts 1)
/-- The number of blocks. -/
def LRec.nblk (r : LRec) : Nat := r.dn * r.cn
/-- The gang size, 0 without a gang flag. -/
def LRec.gangN (r : LRec) : Nat := match r.lt.find? (fun e => e.gang) with | some e => e.count | none => 0
/-- The gang of a block, by its place among all gangs of the launch. -/
def LRec.gangOf (r : LRec) (b : Nat) : Nat := if r.gangN = 0 then b else b / r.gangN
/-- The blocks that are dispatched together with a block: its gang, or itself. -/
def LRec.unit_ (r : LRec) (b : Nat) : List Nat := if r.gangN = 0 then [b] else range (b / r.gangN * r.gangN) r.gangN

/-- The digits of a number in a mixed radix, the first most significant. -/
def digits (x : Nat) : List Nat → List Nat
  | [] => []
  | _ :: t => x / product t :: digits (x % product t) t

/-- The indices of the loop-table levels of block `b`; 0 for a T level (01 R13). -/
def LRec.indices (r : LRec) (b : Nat) : List Nat := spread (r.lt.map (fun e => e.kind))
    (digits (b / r.cn) (r.counts 0)) (digits (b % r.cn) (r.counts 1))
where
  spread : List Nat → List Nat → List Nat → List Nat
    | [], _, _ => []
    | 0 :: t, d :: ds, cs => d :: spread t ds cs
    | 1 :: t, ds, c :: cs => c :: spread t ds cs
    | _ :: t, ds, cs => 0 :: spread t ds cs

/-- The first check of 01 R7 that a loop table breaks: 1 level count, 2 count, 3 prefix, 4 block count,
5 gang, 6 pre. -/
def LRec.tableReason (r : LRec) : Option Nat :=
  let kinds := r.lt.map (fun e => e.kind)
  let rec rising : List Nat → Bool
    | a :: b :: t => decide (a ≤ b) && rising (b :: t)
    | _ => true
  let cs := r.lt.filter (fun e => e.kind == 1)
  let gangs := r.lt.filter (fun e => e.gang)
  if r.nlev = 0 ∨ 6 < r.nlev then some 1
  else if r.lt.any (fun e => e.count == 0) then some 2
  else if !rising kinds then some 3
  else if 2 ^ 24 < r.nblk then some 4
  else if gangs.any (fun e => e.kind != 1 || decide (48 < e.count)) || decide (1 < gangs.length)
      || (!gangs.isEmpty && (match cs.getLast? with | some e => !e.gang | none => true)) then some 5
  else if r.lt.any (fun e => e.pre && e.kind != 2) || decide (1 < (r.lt.filter (fun e => e.pre)).length) then some 6
  else none

/-! ### Placement (01 R9, R10) -/

/-- The clusters of a partition, die × 8 + cluster, in core-list order. -/
def Part.clusters (p : Part) : List Nat := (range 0 32).filter (fun k => getB p.cl k)
/-- The dies of a partition. -/
def Part.dies (p : Part) : List Nat := (range 0 4).filter (fun d => (range 0 8).any (fun c => getB p.cl (8 * d + c)))
/-- The core list of a partition. -/
def Part.cores (p : Part) : List Nat := p.clusters.flatMap (fun k => range (48 * k) 48)

/-- Where a block goes: core, placement parity, member number, the core of member 0. -/
structure Placement where
  core : Nat
  parity : Nat
  member : Nat
  gangCore : Nat
  deriving DecidableEq, Repr

/-- The placement of block `b`; none in a partition without a core for it. -/
def Part.place (p : Part) (r : LRec) (b : Nat) : Option Placement :=
  let d := b / r.cn; let c := b % r.cn
  let n := p.dies.length
  let onDies := r.lt.any (fun e => e.kind == 0)
  let j := d * n / r.dn
  let first := if onDies then (j * r.dn + n - 1) / n else 0
  let cls := if onDies then (match nth p.dies j with
      | some die => p.clusters.filter (fun k => k / 8 == die)
      | none => [])
    else p.clusters
  let g := r.gangN
  if cls.isEmpty then none
  else if g = 0 then
    let size := 48 * cls.length
    let e := c % size
    let before := (d - first) * ((r.cn - e + size - 1) / size) + c / size
    match nth cls (e / 48) with
    | some k => some { core := 48 * k + e % 48, parity := before % 2, member := 0, gangCore := 48 * k + e % 48 }
    | none => none
  else
    let f := 48 / g
    let k := (d - first) * (r.cn / g) + c / g
    let s := k % (cls.length * f)
    match nth cls (s / f) with
    | some q => some { core := 48 * q + s % f * g + c % g, parity := k / (cls.length * f) % 2, member := c % g,
                       gangCore := 48 * q + s % f * g }
    | none => none

/-- The partition that owns a core's cluster. -/
def State.ownerOf (s : State) (core : Nat) : Option Nat :=
  (s.parts.find? (fun e => getB e.2.cl (core / 48))).map (fun e => e.1)

/-! ### Fit (02 R33, 01 R9) -/

/-- A kernel with the shares that a launch record declares (18 R298; log 28). -/
def LRec.declares (r : LRec) (k : Kernel) : Kernel :=
  { k with scratch := r.scratch, tiles := r.tiles, kbufs := r.kbufs }

/-- Whether two blocks fit on one core together. -/
def Kernel.fits (a b : Kernel) : Bool :=
  decide (a.scratch + b.scratch ≤ 0x100000 ∧ a.tiles + b.tiles ≤ 8 ∧ a.kbufs + b.kbufs ≤ 4
    ∧ a.tmpl.length + b.tmpl.length ≤ 256 ∧ a.gset.length + b.gset.length ≤ 4 ∧ a.pslots + b.pslots ≤ 256)

/-- The loaded kernel of a record. -/
def State.kernelOf (s : State) (r : LRec) : Option Kernel := (s.pkg.kernels.find? (fun e => e.1 == r.kobj)).map (fun e => e.2)

/-- Whether context `i` is free for a block of a launch. -/
def State.freeFor (s : State) (i part : Nat) (l : Launch) (parity : Nat) : Bool :=
  (s.ctxAt i).status == .free && (match (s.ctxAt (partner i)).block, s.kernelOf l.lrec with
    | some o, some k => o.kernel.fits (l.lrec.declares k) && !(o.part == part && o.key == l.key && o.parity == parity)
    | none, some _ => true
    | _, none => false)

/-- The free context of a core for a block of a launch. When both are free the rules name none: context 0 takes it
(log 55). -/
def State.freeCtx (s : State) (core part : Nat) (l : Launch) (parity : Nat) : Option Nat :=
  [2 * core, 2 * core + 1].find? (fun i => s.freeFor i part l parity)

/-! ### Candidates (18 R301, R304) -/

/-- An offer of a queue for a core: the record, its block, the saved block's slot, the stated run. -/
structure Offer where
  queue : Nat
  launch : Launch
  b : Nat
  slot : Option Nat
  run : Nat
  deriving DecidableEq, Repr

/-- The lowest block from number `k` on that passes a test. -/
def firstBlock (test : Nat → BState → Bool) : List BState → Nat → Option Nat
  | [], _ => none
  | a :: t, k => if test k a then some k else firstBlock test t (k + 1)

/-- The image in a slot of the pool. -/
def Part.imageAt (p : Part) (slot : Nat) : Option Image := (p.images.find? (fun e => e.1 == slot)).map (fun e => e.2)

/-- Whether block `b` is placed on a core. -/
def Part.on (p : Part) (l : Launch) (core b : Nat) : Bool := (p.place l.lrec b).map (fun x => x.core) == some core

/-- The saved blocks of a launch that R307 ties to a core, as (time, block, slot). -/
def Part.savedOn (p : Part) (l : Launch) (core : Nat) : List (Nat × Nat × Nat) :=
  ((range 0 l.blocks.length).zip l.blocks).filterMap (fun e => match e.2 with
    | .saved k t => if p.on l core e.1 then some (t, e.1, k) else none
    | _ => none)

/-- The earliest of saved blocks. -/
def earliest : List (Launch × Nat × Nat × Nat) → Option (Launch × Nat × Nat × Nat)
  | [] => none
  | x :: t => match earliest t with
    | some y => if y.2.1 < x.2.1 then some y else some x
    | none => some x

/-- The records of a queue that have not posted, in order. -/
def Part.recordsOf (p : Part) (q : Nat) : List Launch := p.launches.filter (fun l => l.queue == q)

/-- Whether SER leaves a record free to go: for a serial one the record before it has posted its completion (18 R301). -/
def Part.serialOk (p : Part) (l : Launch) : Bool :=
  !l.ser || (match l.prev with | some k => p.launches.all (fun x => x.key != k) | none => true)

/-- Whether a record may dispatch. -/
def Part.mayDispatch (p : Part) (l : Launch) : Bool := l.decided && p.serialOk l

/-- The offer of a queue for a core. -/
def Part.offer (p : Part) (q core : Nat) : Option Offer :=
  if !(p.queueAt q).en then none
  else
    let ls := p.recordsOf q
    match earliest (ls.flatMap (fun l => (p.savedOn l core).map (fun e => (l, e)))) with
    | some (l, _, b, k) =>
      some { queue := q, launch := l, b := b, slot := some k,
             run := match p.imageAt k with | some im => im.ctx.run | none => 0 }
    | none => match ls.find? (fun l => !l.decided || l.blocks.any (fun b => b == .pending)) with
      | none => none
      | some l =>
        if !p.mayDispatch l then none
        else (firstBlock (fun b st => st == .pending && p.on l core b) l.blocks 0).map (fun b =>
          { queue := q, launch := l, b := b, slot := none, run := l.lrec.runest })

/-- The rank by which an offer competes: the rank, or the level of R306. -/
def Part.weight (p : Part) (q : Nat) : Nat :=
  let u := p.queueAt q
  if p.mode = 0 then u.rank else Nat.min 7 (u.rank / 8 + u.level)

/-- Whether an offer fits the slice that is left (18 R305). -/
def Offer.fits (o : Offer) (now : Nat) : Bool :=
  decide ((if o.run = 0 then 1024 else Nat.min o.run 1024) * 64 ≤ 65536 - now % 65536)

/-- The contexts that an offer takes, one for each block of its gang that has not ended; none while one is wanting
(01 R11; 18 R307). -/
def State.seats (s : State) (part : Nat) (o : Offer) : Option (List (Nat × Nat)) :=
  let p := s.partAt part
  let seat (b : Nat) : Option (List (Nat × Nat)) := match p.place o.launch.lrec b, nth o.launch.blocks b with
    | some x, some st =>
      let waits := match st, o.slot with
        | .pending, none => true
        | .saved _ _, some _ => true
        | _, _ => false
      if st == .done && b != o.b then some []
      else if waits then (s.freeCtx x.core part o.launch x.parity).map (fun i => [(b, i)]) else none
    | _, _ => none
  (o.launch.lrec.unit_ o.b).foldr (fun b acc => match acc, seat b with
    | some l, some x => some (x ++ l)
    | _, _ => none) (some [])

/-- The offers for a core, in queue order; under ARB = 1 only that of NEXTQ (18 R314). -/
def State.offers (s : State) (part core : Nat) : List Offer :=
  let p := s.partAt part
  let qs := if getB s.pkg.duty 5 then [p.nextq] else p.queues.map (fun e => e.1)
  ((range 0 64).filter (fun q => qs.contains q)).filterMap (fun q => p.offer q core)

/-- The offer of highest weight; ties go to the lower queue number. -/
def Part.best (p : Part) : List Offer → Option Offer
  | [] => none
  | o :: t => match p.best t with
    | some x => if p.weight o.queue < p.weight x.queue then some x else some o
    | none => some o

/-- Whether fit counts: in normal service (18 R305, R306). -/
def Part.fitting (p : Part) (now : Nat) (o : Offer) : Bool := p.mode != 0 || o.fits now

/-- Whether a requested change of shape changes the owner of a core's cluster (18 R313). -/
def State.clusterMoves (s : State) (part core : Nat) : Bool :=
  s.pkg.resize && getB ((s.partAt part).cl ^^^ (tget PartShadow.reset s.pkg.rxPart part).cl) (core / 48)

/-- Whether blocks are dispatched at all: bring-up is complete and no change of shape concerns the core's
cluster (18 R313, 24 R374). -/
def State.mayStart (s : State) (part core : Nat) : Bool := s.pkg.dev == .ready && !s.clusterMoves part core

/-- What the arbiter dispatches for the free contexts of a core, with the seats (18 R305). -/
def State.winner (s : State) (part core : Nat) : Option (Offer × List (Nat × Nat)) :=
  if !s.mayStart part core then none
  else
    let p := s.partAt part
    match p.best ((s.offers part core).filter (fun o => (s.seats part o).isSome && p.fitting s.ptime o)) with
    | some o => (s.seats part o).map (fun l => (o, l))
    | none => none

/-- Whether a context waits for the next slice (18 R305 step 2). -/
def State.waitsSlice (s : State) (i : Nat) : Bool :=
  (s.partAt ((s.ownerOf (coreOf i)).getD 0)).mode == 0 && (s.ctxAt i).sliceWait == some (s.ptime / 65536)

/-- What the arbiter dispatches now that takes context `i`: it wins on the core of one of its seats that does
not wait for the next slice (18 R305, 01 R11; log 29). -/
def State.chosen (s : State) (part i : Nat) : Option (Offer × Nat × List (Nat × Nat)) :=
  let p := s.partAt part
  let mine := s.offers part (coreOf i)
  mine.findSome? (fun o => match s.seats part o with
    | none => none
    | some l => match l.find? (fun e => e.2 == i) with
      | none => none
      | some e =>
        if l.any (fun x => !s.waitsSlice x.2 && (match s.winner part (coreOf x.2) with
            | some (w, _) => w.queue == o.queue && w.launch.key == o.launch.key
                && o.launch.lrec.gangOf w.b == o.launch.lrec.gangOf o.b && p.fitting s.ptime o
            | none => false))
        then some (o, e.1, l) else none)

/-- Whether the arbiter finds offers for context `i` and none of them fits the slice. -/
def State.nothingFits (s : State) (i : Nat) : Bool :=
  match s.ownerOf (coreOf i) with
  | none => false
  | some part =>
    let p := s.partAt part
    let os := (s.offers part (coreOf i)).filter (fun o => match s.seats part o with
      | some l => l.any (fun e => e.2 == i)
      | none => false)
    p.mode == 0 && s.mayStart part (coreOf i) && !os.isEmpty && os.all (fun o => !o.fits s.ptime)

/-! ### The pre-emption choice (18 R305, R307) -/

/-- Free slots of the pool: those that no image holds and no running block is to be saved in. -/
def State.poolFree (s : State) (part : Nat) : List Nat :=
  let p := s.partAt part
  let held := (s.ctxs.filter (fun e => e.2.part == part && e.2.block.isSome && e.2.preempt == .checkpoint)).length
  ((range 0 p.ckCount).filter (fun k => (p.imageAt k).isNone)).drop held

/-- Whether a core has a free context for an offer's block (02 R33). -/
def State.freeHere (s : State) (part core : Nat) (o : Offer) : Bool :=
  match (s.partAt part).place o.launch.lrec o.b with
  | some x => (s.freeCtx core part o.launch x.parity).isSome
  | none => false

/-- The offer that pre-empts the block of context `i`, if there is one: no free context of this core fits it
(18 R305). -/
def State.rival (s : State) (i : Nat) : Option Offer :=
  match (s.ctxAt i).block with
  | none => none
  | some b =>
    let p := s.partAt b.part
    p.best ((s.offers b.part (coreOf i)).filter (fun o =>
      p.fitting s.ptime o && decide (p.weight b.queue < p.weight o.queue) && !s.freeHere b.part (coreOf i) o))

/-- What becomes of a running block. -/
inductive Choice | go | drain | kill | checkpoint
  deriving DecidableEq, Repr

/-- The choice of R307 for a candidate of `tokens`. -/
def State.preemptChoice (s : State) (i tokens : Nat) : Choice :=
  match (s.ctxAt i).block with
  | none => .go
  | some b =>
    let p := s.partAt b.part
    let e := b.lrec.rest - (s.ptime - b.dispatchT)
    if e ≤ p.drain then .drain
    else if b.lrec.idem ∧ p.kill ≤ tokens then .kill
    else if b.lrec.lt.any (fun x => x.pre) ∧ Nat.max 1 b.gangSize ≤ (s.poolFree b.part).length then .checkpoint
    else .drain

/-- The contexts that hold the gang of context `i`'s block, or `i` alone. -/
def State.mates (s : State) (i : Nat) : List Nat :=
  if (s.ctxAt i).gangSize = 0 then [i] else (s.gangCtxs i).filterMap id

end Sys2Proof.Machine
end

