-- ==== Sys2Proof/Machine/Squash.lean ====
section
/-! DEFINITION. Squashing copies and engines, freeing a context, killing a block, removal of a dead
context and the reset of a core (10 R248; 18 R307; 19 R336). -/

namespace Sys2Proof.Machine

/-! ### Copies (10 R248) -/

/-- A receiver's claim is undone: its slot is free and its pointer steps back. -/
def State.unclaim (s : State) (i : Nat) (o : Copy) (r : Receiver) : State :=
  match r.slot, s.memberCtx i r.member with
  | some k, some j => s.modCtxAt j (fun c =>
      let h := c.handle (tDh o.tmpl)
      c.setHandle (tDh o.tmpl) (hSetPP (hSetState h k 0) (hPP h + hCount h - 1)))
  | _, _ => s

/-- A begun copy's claims return to what they were; its reserved slots stay reserved for the reissue. -/
def Ctx.unclaimOwn (c : Ctx) (o : Copy) : Ctx :=
  if !o.begun then c
  else
    let c := match o.srcSlot with
      | some k => c.setHandle (tSh o.tmpl) (hSetState (c.handle (tSh o.tmpl)) k 2) | none => c
    match o.dstSlot with
    | some k => c.setHandle (tDh o.tmpl) (hSetState (c.handle (tDh o.tmpl)) k 0) | none => c

/-- A squashed copy as it is kept for the reissue. -/
def Copy.squashed (o : Copy) : Copy :=
  { o with begun := false, wp0 := 0, held := false, nbDone := false, recv := [], began := 0, last := 0, mdata := [] }

/-- Squashes the copies of channel `n` of context `i`: claims and WP return, the copies start afresh. -/
def State.squashChan (s : State) (i n : Nat) : State :=
  (((s.ctxAt i).chan n).foldl (fun s o =>
    let s := o.recv.reverse.foldl (fun s r => s.unclaim i o r) s
    s.modCtxAt i (fun c =>
      let c := c.unclaimOwn o
      if o.begun then { c with wps := tset c.wps n o.wp0 } else c)) s).modCtxAt i (fun c =>
        (c.askDone (16 + n)).setChan n ((c.chan n).map Copy.squashed))

/-- Squashes every copy of context `i` that is not performed. -/
def State.squashCopies (s : State) (i : Nat) : State := (range 0 16).foldl (fun s n => s.squashChan i n) s

/-! ### Blocks of a record -/

/-- What context `i` has given to collectives whose results it has not taken is given up (log 57). -/
def State.leaveColls (s : State) (i : Nat) : State :=
  let part := (s.ctxAt i).part
  (s.colls.filter (fun c => c.part == part)).foldl (fun s c =>
    match s.memberOf i part c.group with
    | some m => let n := (s.groupMembers part c.group).1; s.setColl n (c.leave n m)
    | none => s) s

/-- Whether a queue holds an undispatched candidate. -/
def Part.holdsWork (p : Part) (q : Nat) : Bool :=
  (p.queueAt q).en && (p.recordsOf q).any (fun l => !l.decided || l.blocks.any (fun b => match b with
    | .pending | .saved _ _ => true
    | _ => false))

/-- A queue that holds no undispatched candidate starts to age as it gets one, new or returned (18 R306). -/
def Part.startAging (p : Part) (q now : Nat) : Part :=
  if p.holdsWork q then p else p.modQueueAt q (fun u => { u with waitT := some now })

/-- Updates the record of a key. -/
def Part.modLaunch (p : Part) (key : Nat) (f : Launch → Launch) : Part :=
  { p with launches := p.launches.map (fun l => if l.key = key then f l else l) }

/-- Sets the state of a block. -/
def Launch.setBlock (l : Launch) (b : Nat) (st : BState) : Launch := { l with blocks := setAt l.blocks b st }

def State.setBlock (s : State) (part key b : Nat) (st : BState) : State :=
  s.modPartAt part (fun p => p.modLaunch key (fun l => l.setBlock b st))

/-- The lines that the stores of a context were directed to. -/
def Ctx.lines (c : Ctx) : List Nat := c.directed.map Directed.line

/-- What a context keeps when its block leaves it: breakpoints and controls of the debugger, record
buffers. -/
def Ctx.vacant (c : Ctx) : Ctx :=
  { Ctx.reset with bps := c.bps, halt := c.halt, sq := c.sq, kaddr := c.kaddr, terr := c.terr, busyRead := c.busyRead,
                   fbuf := c.fbuf, ebuf := c.ebuf }

/-- The context becomes free (07 R158); the lines of its stores stand with its record for the release of
the completion (18 R302). -/
def State.vacate (s : State) (i : Nat) : State :=
  let c := s.ctxAt i
  match c.block with
  | none => s.modCtxAt i Ctx.vacant
  | some b => (s.modPartAt b.part (fun p => p.modLaunch b.key (fun l => { l with lines := c.lines ++ l.lines }))).modCtxAt i
      Ctx.vacant

/-! ### Killing (18 R307) -/

/-- Performs the released stores of context `i` that can be performed, oldest first, at most `n`. -/
def State.performReady (s : State) (i : Nat) : Nat → State
  | 0 => s
  | n + 1 => match (s.ctxAt i).stores.find? (fun t => (s.ctxAt i).storeReady t) with
    | some t => (s.performStore i t).performReady i n
    | none => s

/-- The block of context `i` is discarded: its open region, its copies, and it returns to the head of its
queue as undispatched. Its stores of closed regions are performed (log 30). -/
def State.killBlock (s : State) (i : Nat) : State :=
  match (s.ctxAt i).block with
  | none => s
  | some b =>
    let s := s.modCtxAt i (fun c => { c with stores := c.stores.filter (fun t => !t.gated) })
    let s := s.performReady i (s.ctxAt i).stores.length
    let s := (s.squashCopies i).leaveColls i
    let s := s.modPartAt b.part (fun p => p.startAging b.queue s.ptime)
    (s.setBlock b.part b.key b.b .pending).vacate i

/-- The members of a block's gang that have ended return to the queue with it: a killed gang resumes whole (18 R307, 01 R11;
log 61). -/
def State.reviveGang (s : State) (b : Block) : State :=
  if b.lrec.gangN = 0 then s
  else s.modPartAt b.part (fun p => p.modLaunch b.key (fun l =>
    (l.lrec.unit_ b.b).foldl (fun l k => if nth l.blocks k = some .done then l.setBlock k .pending else l) l))

/-- A killed gang member takes its gang with it. -/
def State.killUnit (s : State) (i : Nat) : State :=
  let t := (s.mates i).foldl State.killBlock s
  match (s.ctxAt i).block with | some b => t.reviveGang b | none => t

/-! ### The arbiter at a yield bundle (01 R27; 18 R305, R307) -/

/-- Applies a choice to the block of context `i`. -/
def State.applyChoice (s : State) (i : Nat) (c : Choice) : State :=
  match c with
  | .go => s
  | .drain => s.modCtxAt i (fun c => { c with preempt := .drain })
  | .kill => s.killUnit i
  | .checkpoint => (s.mates i).foldl (fun s j => s.modCtxAt j (fun c => { c with preempt := .checkpoint })) s

/-- A yield point of context `i`: a block that has a choice already keeps it, and one that was to be killed here is
(18 R313). -/
def State.yieldPoint (s : State) (i : Nat) : State :=
  if (s.ctxAt i).preempt = .kill then s.killUnit i
  else if (s.ctxAt i).preempt ≠ .none then s
  else match s.rival i with
    | some o => s.applyChoice i (s.preemptChoice i o.launch.lrec.tokens)
    | none => s

/-! ### Removal (19 R336) -/

/-- Starts the removal of context `i`: its gated stores are discarded. -/
def State.startRemoval (s : State) (i : Nat) : State :=
  s.modCtxAt i (fun c => { c with status := .removing 1 s.ptime, stores := c.stores.filter (fun t => !t.gated) })

/-- Squashes the operations of the engine of a step: 1 copies, 2 collectives, 3 matrix unit, 4 L and V
units, 5 scalar unit. -/
def State.squashEngine (s : State) (i step : Nat) : State :=
  match step with
  | 1 => (s.squashCopies i).modCtxAt i (fun c =>
      { c with chans := [], stores := c.stores.filter (fun t => !t.gated) })
  | 2 => s.modCtxAt i (fun c => { c with xq := [] })
  | 3 => s.modCtxAt i (fun c => { c with mq := [] })
  | 4 => s.modCtxAt i (fun c => { c with kpend := [], stores := c.stores.filter (fun t => t.scalar || t.fwd) })
  | _ => s.modCtxAt i (fun c => { c with stores := c.stores.filter (fun t => t.fwd), joins := [], walkReq := none })

/-- Requests in flight with the context's tag in the engine of a step: lines under way, stores at a CXL
port. -/
def State.inFlight (s : State) (i step : Nat) : Bool :=
  let c := s.ctxAt i
  match step with
  | 4 => (match c.stall with | some x => decide (s.ptime < x.earliest) | none => false)
      || c.stores.any (fun t => t.fwd && !t.scalar)
  | 5 => (match c.stall with | some x => decide (s.ptime < x.earliest) | none => false)
      || c.stores.any (fun t => t.fwd)
  | _ => false

/-- A block of a record is removed: no further block of it is dispatched, and its completion has STATUS 2. -/
def Launch.stop (l : Launch) (b : Nat) : Launch :=
  { l with stopped := true,
           blocks := (l.setBlock b .removed).blocks.map (fun st => match st with
             | .pending => .skipped
             | .saved _ _ => .removed
             | x => x) }

/-- The images of a record's saved blocks leave the pool. -/
def Part.dropImages (p : Part) (l : Launch) : Part :=
  { p with images := p.images.filter (fun e => !l.blocks.any (fun b => match b with | .saved k _ => k == e.1 | _ => false)) }

/-- The record of a key. -/
def Part.launchOf (p : Part) (key : Nat) : Option Launch := p.launches.find? (fun l => l.key == key)

/-- Marks a block removed. -/
def State.stopBlock (s : State) (part key b : Nat) : State :=
  s.modPartAt part (fun p => match p.launchOf key with
    | some l => (p.dropImages l).modLaunch key (fun l => l.stop b)
    | none => p)

end Sys2Proof.Machine
end

