-- ==== Sys2Proof/Machine/Trace.lean ====
section
/-! DEFINITION. Dependence traces: trace storage, block records, conflicts, the decision of a relaunch, and
completion entries (16 R284 to R294; 18 R302). -/

namespace Sys2Proof.Machine

/-! ### Trace storage (16 R289, R290) -/

/-- The pieces of `n` bytes from an address that cross no line, as (address, bytes). -/
def linePieces : Nat → Nat → Nat → List (Nat × Nat)
  | 0, _, _ => []
  | k + 1, va, n => if n = 0 then [] else
    let m := Nat.min n (64 - va % 64)
    (va, m) :: linePieces k (va + m) (n - m)

/-- Translates an access of the trace storage through the launch's address space, without the checks of
declared ranges: the physical address, or cause and TVAL. The rules name no check of K: a kept page of the storage is
written (log 56). Under host walking nothing is walked: the access fails (18 R315; log 58). A write of a whole line meets no
error in it (24 R381). -/
def State.storageAt (s : State) (part key : Nat) (r : LRec) (va n : Nat) (w : Bool) : (Except (Nat × Word) Nat) × State :=
  let die := ((s.partAt part).dies.head?).getD 0
  if getB s.pkg.duty 0 then (.error (0x0C, tvalWalk 0x0C 0 va), s) else
  let (x, s) := s.walkVa die part r.asid key va
  match x with
  | .error e => (.error (e.1, tvalWalk e.1 e.2 va), s)
  | .ok l =>
    let pa := l.pa + (va - l.page * 4096)
    if !getB l.entry 2 || (w && !getB l.entry 3) then (.error (0x0E, tvalVa l.level va), s)
    else if s.pkg.poisoned.contains (pa / 64) && !(w && n == 64) then (.error (0x19, BitVec.ofNat 64 (pa / 64 * 64)), s)
    else (.ok pa, s)

/-- Writes bytes to the trace storage until one piece fails; a dump updates no write time (16 R289). -/
def State.storageWrite (s : State) (part key : Nat) (r : LRec) (dump : Bool) :
    List (Nat × Nat) → List Byte → State × Option (Nat × Word)
  | [], _ => (s, none)
  | (va, n) :: t, bs =>
    let (x, s) := s.storageAt part key r va n true
    match x with
    | .error f => (s, some f)
    | .ok pa => ((if dump then s.deviceDump pa (bs.take n) else s.deviceWrite pa (bs.take n)) : State).storageWrite part key r dump t (bs.drop n)

/-- Reads bytes of the trace storage; none when a piece fails. -/
def State.storageRead (s : State) (part key : Nat) (r : LRec) : List (Nat × Nat) → Option (List Byte) × State
  | [] => (some [], s)
  | (va, n) :: t =>
    let (x, s) := s.storageAt part key r va n false
    match x with
    | .error _ => (none, s)
    | .ok pa =>
      let (y, s) := s.storageRead part key r t
      (y.map (fun bs => memRead s.mem pa n ++ bs), s)

/-- Pieces of a write or read of the storage. -/
def piecesOf (va n : Nat) : List (Nat × Nat) := linePieces (n + 1) va n

/-- Updates what the device keeps of a traced launch. -/
def State.modTrace (s : State) (part : Nat) (lid : BitVec 32) (f : Trace → Trace) : State :=
  s.modPartAt part (fun p => { p with traces := p.traces.map (fun t => if t.lid = lid then f t else t) })

def Part.traceOf (p : Part) (lid : BitVec 32) : Option Trace := p.traces.find? (fun t => t.lid == lid)

/-- A header or record write outside a context; a failure is recorded and breaks the trace (16 R289). -/
def State.headerWrite (s : State) (part key : Nat) (lid : BitVec 32) (r : LRec) (va : Nat) (bs : List Byte) : State :=
  let (s, f) := s.storageWrite part key r false (piecesOf va bs.length) bs
  match f with
  | none => s
  | some (code, tval) =>
    let s := s.postPkg part { s.pkgRec code 0 0 with lid := lid, tval := tval }
    s.modTrace part lid (fun t => { t with broken := true })

/-- HFLAGS of the storage, 0 when it cannot be read. -/
def State.hflags (s : State) (part key : Nat) (r : LRec) : Nat :=
  match (s.storageRead part key r (piecesOf (r.tstore + 12) 4)).1 with | some bs => bytesNat bs | none => 0

/-- Clears COMPLETE, with LID and NBLK in place (16 R290; log 31). -/
def State.openTrace (s : State) (part key : Nat) (lid : BitVec 32) (r : LRec) : State :=
  s.headerWrite part key lid r r.tstore
    (natBytes 8 lid.toNat ++ natBytes 4 r.nblk ++ natBytes 4 (s.hflags part key r % 2))

/-! ### Runs of a filter (16 R288, R289) -/

/-- The maximal intervals of set bits below bit `n`, as (first, end), highest first. -/
def bitRuns (f : BitVec 4096) : Nat → List (Nat × Nat)
  | 0 => []
  | n + 1 =>
    let t := bitRuns f n
    if getB f n then (match t with
      | (a, e) :: u => if e = n then (a, n + 1) :: u else (n, n + 1) :: t
      | [] => [(n, n + 1)])
    else t

/-- Splits a run into runs of at most 2^19 granules. -/
def splitRun : Nat → Nat → Nat → List (Nat × Nat)
  | 0, _, _ => []
  | k + 1, g, n => if n = 0 then [] else
    let m := Nat.min n (2 ^ 19)
    (g, m) :: splitRun k (g + m) (n - m)

/-- The runs of a filter over the pieces of the order, as (granule, count). -/
def pieceRuns (ivs : List (Nat × Nat)) : List (Nat × Nat) → Nat → List (Nat × Nat)
  | [], _ => []
  | (g, n) :: t, off =>
    (ivs.flatMap (fun e =>
      let lo := Nat.max e.1 off; let hi := Nat.min e.2 (off + n)
      if lo < hi then splitRun ((hi - lo) / 2 ^ 19 + 1) (g + (lo - off)) (hi - lo) else []))
      ++ pieceRuns ivs t (off + n)

/-- The runs of a filter of a launch. -/
def LRec.runs (r : LRec) (f : BitVec 4096) : List (Nat × Nat) :=
  let segs := r.granules
  let c := (granuleCount segs + 4095) / 4096
  let ivs := (bitRuns f 4096).reverse.map (fun e => (e.1 * c, Nat.min (e.2 * c) (granuleCount segs)))
  pieceRuns ivs segs 0

/-- At most 64 runs as 512 bytes; more than 64 are stored as none (16 R289). -/
def runBytes (l : List (Nat × Nat)) : List Byte :=
  if 64 < l.length then natBytes 512 0
  else (l.flatMap (fun e => natBytes 8 (e.1 % 2 ^ 45 + (e.2 - 1) * 2 ^ 45))) ++ natBytes (512 - 8 * l.length) 0

/-- Runs stored, and whether the ALL flag is set. -/
def runCount (l : List (Nat × Nat)) : Nat := if 64 < l.length then 0 else l.length

/-- The record of a block (16 R291). -/
def blockRecord (r : LRec) (start now gen : Nat) (rf wf : BitVec 4096) : List Byte :=
  let rd := r.runs rf; let wr := r.runs wf
  natBytes 8 start ++ natBytes 8 now ++ natBytes 1 (runCount rd) ++ natBytes 1 (runCount wr)
    ++ natBytes 2 (bit (decide (64 < rd.length)) + bit (decide (64 < wr.length)) * 2 + 4) ++ natBytes 4 gen
    ++ natBytes 40 0 ++ runBytes rd ++ runBytes wr

/-- The address of a block's record. -/
def LRec.recordAt (r : LRec) (b : Nat) : Nat := r.tstore + 64 + b * 1088

/-- The dump of context `i` at its exit (16 R289). A block that never issued starts at the dump. -/
def State.dump (s : State) (i : Nat) : State :=
  let c := s.ctxAt i
  match c.block with
  | none => s
  | some b =>
    if !b.lrec.trace then s
    else
      let gen := (match (s.partAt b.part).traceOf b.lid with | some t => t.nrun | none => 0) + 1
      let start := match c.startT with | some t => t | none => s.ptime
      let bs := blockRecord b.lrec start s.ptime gen c.rfilter c.wfilter
      let (s, f) := s.storageWrite b.part b.key b.lrec true (piecesOf (b.lrec.recordAt b.b) 1088) bs
      match f with
      | none => s
      | some (code, tval) =>
        (s.postCtx i (s.ctxRec i code 3 0 0 tval 0 0)).modTrace b.part b.lid (fun t => { t with broken := true })

/-- Clears VALID of a block's record: the block was removed (16 R291). -/
def State.invalidate (s : State) (part key : Nat) (lid : BitVec 32) (r : LRec) (b : Nat) : State :=
  if !r.trace then s
  else
    let a := r.recordAt b + 18
    match (s.storageRead part key r (piecesOf a 2)).1 with
    | some bs => s.headerWrite part key lid r a (natBytes 2 (bytesNat bs % 4))
    | none => s

/-! ### Records as read (16 R291) -/

/-- A block record; runs of none cover every traced granule. -/
structure BRec where
  start : Nat
  valid : Bool
  rd : Option (List (Nat × Nat))
  wr : Option (List (Nat × Nat))
  deriving DecidableEq, Repr

/-- Runs from their bytes. -/
def runsOf (bs : List Byte) (n : Nat) : List (Nat × Nat) :=
  (range 0 (Nat.min n 64)).map (fun k =>
    let x := bytesNat ((bs.drop (8 * k)).take 8)
    (x % 2 ^ 45, x / 2 ^ 45 + 1))

/-- Reads the record of block `b`; one that cannot be read is not valid and has no runs (16 R292). -/
def State.readRecord (s : State) (part key : Nat) (r : LRec) (b : Nat) : BRec :=
  match (s.storageRead part key r (piecesOf (r.recordAt b) 1088)).1 with
  | none => { start := 0, valid := false, rd := some [], wr := some [] }
  | some bs =>
    let at_ (o n : Nat) : Nat := bytesNat ((bs.drop o).take n)
    let fl := at_ 18 2
    { start := at_ 0 8, valid := fl.testBit 2,
      rd := if fl.testBit 0 then none else some (runsOf (bs.drop 64) (at_ 16 1)),
      wr := if fl.testBit 1 then none else some (runsOf (bs.drop 576) (at_ 17 1)) }

/-- Whether two sets of granules meet; none covers every traced granule. -/
def runsMeet (a b : Option (List (Nat × Nat))) : Bool :=
  match a, b with
  | none, none => true
  | none, some y => !y.isEmpty
  | some x, none => !x.isEmpty
  | some x, some y => x.any (fun e => y.any (fun f => decide (e.1 < f.1 + f.2 ∧ f.1 < e.1 + e.2)))

/-- Whether the records of a launch conflict (16 R294). -/
def conflicts (l : List BRec) : Bool :=
  match l with
  | [] => false
  | x :: t => t.any (fun y => runsMeet x.rd y.wr || runsMeet y.rd x.wr || runsMeet x.wr y.wr) || conflicts t

/-! ### Completion (16 R290, R294; 18 R302) -/

/-- The completion entry of a record: written, its vector raised. -/
def State.postEntry (s : State) (part q : Nat) (lid : BitVec 32) (status reason : Nat) : State :=
  let u := (s.partAt part).queueAt q
  let s := s.deviceWrite (u.cbase.toNat / 16 * 16 + 16 * u.ctail)
    (natBytes 4 lid.toNat ++ natBytes 2 status ++ natBytes 2 reason ++ natBytes 8 s.ptime)
  s.modPartAt part (fun p =>
    { p.modQueueAt q (fun u => { u with ctail := (u.ctail + 1) % u.entries }) with vectors := (1 + q) :: p.vectors })

/-- The header update of a completed run: NRUN, COMPLETE, CONFLICT. -/
def State.closeTrace (s : State) (part key : Nat) (lid : BitVec 32) (r : LRec) : State :=
  if !r.trace then s
  else
    let s := s.modTrace part lid (fun t => { t with nrun := t.nrun + 1 })
    let n := match (s.partAt part).traceOf lid with | some t => t.nrun | none => 0
    let recs := (range 0 r.nblk).map (s.readRecord part key r)
    let old := s.hflags part key r % 2
    s.headerWrite part key lid r r.tstore (natBytes 8 lid.toNat ++ natBytes 4 r.nblk
      ++ natBytes 4 (Nat.max old (bit (conflicts recs)) + 2) ++ natBytes 4 n ++ natBytes 44 0)

/-- Whether a block has nothing more to do in its run. -/
def BState.ended : BState → Bool
  | .done | .skipped | .removed => true
  | _ => false

/-- Whether a slot holds the write of a queue's next completion entry, or the update of its write time (21 R352). -/
def State.entryHeld (s : State) (u : Queue) : Bool :=
  let a := u.cbase.toNat / 16 * 16 + 16 * u.ctail
  s.slotHolds a || (match s.timeEntry a with | some e => s.slotHolds e | none => false)

/-- A record whose blocks have all ended posts its completion, a release at package scope (18 R302), once no slot holds it. -/
def State.finish (s : State) (part key : Nat) : State :=
  match (s.partAt part).launchOf key with
  | none => s
  | some l =>
    if !l.decided || !l.blocks.all BState.ended || s.entryHeld ((s.partAt part).queueAt l.queue) then s
    else
      let s := s.seal l.lines
      let s := (s.postEntry part l.queue l.lid (if l.stopped then 2 else 0) 0).closeTrace part key l.lid l.lrec
      s.modPartAt part (fun p => { p with launches := p.launches.filter (fun x => x.key != key),
                                          asids := p.asids.filter (fun a => a.key != some key) })

/-! ### The decision of a relaunch (16 R292) -/

/-- The write-time entry of a frame (16 R285): time, launch, block; none that can be read (24 R381). -/
def State.writeEntry (s : State) (pa : Nat) : Option (Nat × Nat × Nat) :=
  (if s.timeBad pa then none else s.timeEntry pa).map (fun e => (memNat s.mem e 8, memNat s.mem (e + 8) 4, memNat s.mem (e + 12) 4))

/-- The frame of a granule, where its translation succeeds; none under host walking. -/
def State.granulePa (s : State) (part key : Nat) (r : LRec) (g : Nat) : Option Nat :=
  if getB s.pkg.duty 0 then none else
  match (s.walkVa (((s.partAt part).dies.head?).getD 0) part r.asid key (g * 4096)).1 with
  | .error _ => none
  | .ok l => some (l.pa + (g * 4096 - l.page * 4096))

/-- Whether a granule makes block `b` of launch `lid` rerun. -/
def State.granuleStale (s : State) (part key : Nat) (lid : BitVec 32) (r : LRec) (b start g : Nat) : Bool :=
  match (s.granulePa part key r g).bind s.writeEntry with
  | none => true
  | some (t, wl, wb) => decide (start < t) && !(wl == lid.toNat && wb == b)

/-- Whether block `b` reruns by its own record. -/
def State.rerun (s : State) (part key : Nat) (lid : BitVec 32) (r : LRec) (broken conflict : Bool) (b : Nat) : Bool :=
  if conflict || broken then true
  else
    let x := s.readRecord part key r b
    match x.rd, x.wr with
    | some rd, some wr => !x.valid || (rd ++ wr).any (fun e => (range e.1 e.2).any (s.granuleStale part key lid r b x.start))
    | _, _ => true

/-- The line of the first write-time entry that the decision of block `b` cannot read (24 R381). -/
def State.badTime (s : State) (part key : Nat) (r : LRec) (b : Nat) : Option Nat :=
  let x := s.readRecord part key r b
  ((x.rd.getD []) ++ (x.wr.getD [])).findSome? (fun e => (range e.1 e.2).findSome? (fun g =>
    match s.granulePa part key r g with
    | some pa => if s.timeBad pa then (s.timeEntry pa).map (· / 64) else none
    | none => none))

/-- The blocks of a relaunch: a gang reruns whole when any member reruns. -/
def State.decideBlocks (s : State) (part key : Nat) (lid : BitVec 32) (r : LRec) (broken : Bool) : List BState :=
  let conflict := (s.hflags part key r).testBit 0
  let own := (range 0 r.nblk).map (s.rerun part key lid r broken conflict)
  (range 0 r.nblk).map (fun b => if (r.unit_ b).any (fun m => (nth own m).getD false) then .pending else .skipped)

/-- RELAUNCH_DECISION: once every earlier run or relaunch of the target has posted its completion, every
block is decided; a relaunch that reruns none completes at once (16 R292). A serial relaunch also waits for
the record before it (18 R301). -/
def execRelaunchDecision (part q : Nat) (s : State) : Out :=
  let p := s.partAt part
  match (p.recordsOf q).find? (fun l => !l.decided) with
  | none => .next s
  | some l =>
    let before := p.launches.takeWhile (fun x => x.key != l.key)
    if before.any (fun x => x.lid == l.lid) || !(s.partAt part).serialOk l then .next s
    else
      let broken := match p.traceOf l.lid with | some t => t.broken | none => true
      let blocks := s.decideBlocks part l.key l.lid l.lrec broken
      let s := s.lineLost part ((range 0 l.lrec.nblk).findSome? (s.badTime part l.key l.lrec))
      let s := s.openTrace part l.key l.lid l.lrec
      let s := s.modPartAt part (fun p => p.modLaunch l.key (fun l => { l with decided := true, blocks := blocks }))
      .next (s.finish part l.key)

end Sys2Proof.Machine
end

