-- ==== Sys2Proof/Machine/Records.lean ====
section
/-! DEFINITION. Records at the head of a queue: their fields, the checks in order, acceptance and refusal;
tail writes, aging, slices (18 R297 to R302, R305, R306; 19 R317). -/

namespace Sys2Proof.Machine

/-! ### The fields of a launch record (18 R297) -/

/-- A loop-table entry (15 R278). -/
def loopEnt (x : Nat) : LoopEnt :=
  { count := x % 2 ^ 32, kind := x / 2 ^ 32 % 4, gang := x.testBit 34, pre := x.testBit 35, rest := x / 2 ^ 36 }

/-- The record of 512 bytes. `resv` says that a reserved byte or bit is set. -/
def lrecOf (bs : List Byte) : LRec :=
  let at_ (o n : Nat) : Nat := bytesNat ((bs.drop o).take n)
  let nlev := at_ 1 1
  let ents := (range 0 6).map (fun k => at_ (64 + 8 * k) 8)
  let rng := (range 0 16).map (fun k =>
    { base := at_ (128 + 16 * k) 8, len := at_ (136 + 16 * k) 6, flags := BitVec.ofNat 8 (at_ (142 + 16 * k) 1),
      resv := BitVec.ofNat 8 (at_ (143 + 16 * k) 1) : Range })
  { cmd := at_ 0 1, nlev := nlev, flags := BitVec.ofNat 16 (at_ 2 2), tokens := at_ 4 4, kobj := at_ 8 8,
    param := at_ 16 8, cseg := at_ 24 8, tstore := at_ 32 8, rest := at_ 40 8, runest := at_ 48 4,
    scratch := at_ 52 4, tiles := at_ 56 1, kbufs := at_ 57 1, asid := at_ 58 2, plen := at_ 60 4,
    lt := (ents.take nlev).map loopEnt, rng := rng,
    resv := at_ 112 16 != 0 || at_ 384 128 != 0 || at_ 2 2 / 16 != 0 || (ents.drop nlev).any (fun e => e != 0)
      || (ents.take nlev).any (fun e => (loopEnt e).rest != 0 || (loopEnt e).kind == 3)
      || rng.any (fun g => g.resv != 0 || getF g.flags 4 3 != 0) }

/-! ### Checks (18 R302) -/

/-- The address of an address space's entry in the table (19 R317). -/
def Part.asidPa (p : Part) (asid : Nat) : Nat := p.astBase.toNat / 4096 * 4096 + 16 * asid

/-- The line of an entry that cannot be read (24 R381). -/
def State.asidBad (s : State) (part asid : Nat) : Option Nat :=
  s.pkg.poisoned.find? (fun l => l == (s.partAt part).asidPa asid / 64)

/-- The entry of an address space in the table: root, generation, V (19 R317). One that cannot be read is not valid
(24 R381; log 62). -/
def State.asidEntry (s : State) (part asid : Nat) : Asid :=
  let p := s.partAt part
  let a := p.asidPa asid
  let d0 : Word := BitVec.ofNat 64 (memNat s.mem a 8)
  { asid := asid, key := none, root := eAddr d0, gen := BitVec.ofNat 16 (memNat s.mem (a + 8) 2),
    valid := getB d0 0 && decide (asid < p.nas) && (s.asidBad part asid).isNone }

/-- REASON 10: a range with a zero or unaligned length, a reserved bit, an unknown ASID, PLEN above 65,536. -/
def State.rangeReason (s : State) (part : Nat) (r : LRec) : Bool :=
  r.resv || r.rng.any (fun g => g.declared && (g.len == 0 || g.len % 4096 != 0)) || !(s.asidEntry part r.asid).valid
    || decide (65536 < r.plen)

/-- REASON 7: declarations exceed a core's totals or fall short of the kernel record (18 R298). -/
def LRec.short (r : LRec) (k : Kernel) : Bool :=
  decide (0x100000 < r.scratch) || r.scratch % 4096 != 0 || decide (8 < r.tiles) || decide (4 < r.kbufs)
    || decide (r.scratch < k.scratch) || decide (r.tiles < k.tiles) || decide (r.kbufs < k.kbufs)
    || decide (256 < k.tmpl.length) || decide (4 < k.gset.length) || decide (256 < k.pslots)
    || ((k.rng.zip r.rng).any (fun e => getB e.1 7 && (!e.2.declared || (getB e.1 1 && !e.2.w) || (getB e.1 0 && !e.2.r))))

/-- The REASON of a refused launch record, in the order of R302. -/
def State.reasonOf (s : State) (part : Nat) (r : LRec) : Option Nat :=
  if r.cmd ≠ 1 then some 8
  else match s.kernelOf r with
    | none => some 8
    | some k =>
      if s.rangeReason part r then some 10
      else match r.tableReason with
        | some n => some n
        | none => if r.short k then some 7 else none


/-! ### Acceptance (18 R300; 19 R317) -/

/-- The record that HEAD stands at, with the identity that it took as it entered the queue; none before the queues come
into service (24 R374). -/
def State.headRecord (s : State) (part q : Nat) : Option (List Byte × BitVec 32) :=
  let u := (s.partAt part).queueAt q
  if s.pkg.dev != .ready || !u.en || u.head == u.tail then none
  else some (memRead s.mem (u.slotPa u.head) 512, (u.entered.head?).getD 0)

/-- HEAD passes a record. -/
def Part.passHead (p : Part) (q : Nat) : Part :=
  p.modQueueAt q (fun u => { u with head := (u.head + 1) % u.entries, entered := u.entered.drop 1 })

/-- An ASTSYNC sets the translators' view of an address space, for the launches that run in it as well (19 R317). -/
def Part.syncAsid (p : Part) (a : Asid) : Part :=
  { p with asids := a :: (p.asids.filter (fun x => x.asid != a.asid || x.key.isSome)).map (fun x =>
      if x.asid = a.asid then { a with key := x.key } else x) }

/-- The translators read an address space for a launch that is accepted. -/
def Part.readAsid (p : Part) (key : Nat) (a : Asid) : Part := { p with asids := p.asids ++ [{ a with key := some key }] }

/-- A launch joins its queue; the next record of the queue comes after it. -/
def Part.join (p : Part) (l : Launch) (a : Asid) (now : Nat) : Part :=
  let p := (p.readAsid p.keyNext a).startAging l.queue now
  { p.modQueueAt l.queue (fun u => { u with prevKey := some p.keyNext }) with
    launches := p.launches ++ [{ l with key := p.keyNext, prev := (p.queueAt l.queue).prevKey, dev := (p.queueAt l.queue).own }],
    keyNext := p.keyNext + 1 }

/-- A launch that is not placed in its queue yet. -/
def mkLaunch (lid : BitVec 32) (q : Nat) (r : LRec) (ser relaunch : Bool) : Launch :=
  { key := 0, prev := none, lid := lid, queue := q, lrec := r, ser := ser, dev := false, relaunch := relaunch,
    decided := !relaunch, stopped := false, lines := [], blocks := if relaunch then [] else List.replicate r.nblk .pending }

/-- A record is refused: its completion is posted at once, and no record waits for it. -/
def State.refuse (s : State) (part q : Nat) (lid : BitVec 32) (reason : Nat) : State :=
  (s.postEntry part q lid 1 reason).modPartAt part (fun p => p.modQueueAt q (fun u => { u with prevKey := none }))

/-- A record is accepted: the translators read its address space, and a traced launch opens its trace. -/
def State.accept (s : State) (part q : Nat) (lid : BitVec 32) (r : LRec) : State :=
  let key := (s.partAt part).keyNext
  let s := s.modPartAt part (fun p => p.join (mkLaunch lid q r r.ser false) (s.asidEntry part r.asid) s.ptime)
  if !r.trace then s
  else (s.modPartAt part (fun p => { p with traces := p.traces ++ [{ lid := lid, lrec := r, nblk := r.nblk, broken := false,
                                                                     nrun := 0 }] })).openTrace part key lid r

/-- The line of the record at HEAD that cannot be read (24 R381). -/
def State.recordBad (s : State) (part q : Nat) : Option Nat :=
  let u := (s.partAt part).queueAt q
  s.pkg.poisoned.find? (fun l => (linesOf (u.slotPa u.head) 512).contains l)

/-- The REASON of a record that cannot be read: the spec states none, a free value (log 19, log 62). -/
def freeReason (k : Nat) : Nat := (Config.freeWord k).toNat % 10 + 1

/-- LAUNCH_RECORD: the record at HEAD, whose CMD is not 2, is checked and accepted or refused; one that cannot be read is
refused with a record of class D (24 R381). A refusal waits while a slot holds its completion entry. -/
def execLaunchRecord (part q : Nat) (s : State) : Out :=
  let held := s.entryHeld ((s.partAt part).queueAt q)
  match s.headRecord part q with
  | none => .next s
  | some (bs, lid) =>
    let r := lrecOf bs
    let u := s.modPartAt part (·.passHead q)
    if (s.recordBad part q).isSome then
      if held then .next s
      else .next ((({ u with free := u.free + 1 } : State).lineLost part (s.recordBad part q)).refuse part q lid (freeReason s.free))
    else if r.cmd = 2 then .next s
    else match u.reasonOf part r with
      | some n => if held then .next s else .next ((u.refuse part q lid n).lineLost part (if n = 10 then s.asidBad part r.asid else none))
      | none => .next (u.accept part q lid r)

/-- RELAUNCH_RECORD: the record at HEAD is a relaunch; only CMD, KOBJ and FLAGS.SER are read. A refusal waits while a slot
holds its completion entry. -/
def execRelaunchRecord (part q : Nat) (s : State) : Out :=
  match s.headRecord part q with
  | none => .next s
  | some (bs, lid) =>
    let r := lrecOf bs
    if r.cmd ≠ 2 ∨ (s.recordBad part q).isSome then .next s
    else
      let u := s.modPartAt part (·.passHead q)
      match if r.kobj < 2 ^ 32 then (s.partAt part).traceOf (BitVec.ofNat 32 r.kobj) else none with
      | none => if s.entryHeld ((s.partAt part).queueAt q) then .next s else .next (u.refuse part q lid 9)
      | some t => .next ((u.modPartAt part (fun p =>
          p.join (mkLaunch t.lid q t.lrec r.ser true) (u.asidEntry part t.lrec.asid) u.ptime)).lineLost part
            (s.asidBad part t.lrec.asid))

/-! ### Tail writes (18 R299, R300) -/

/-- Identities for the records from an index up to the new tail, in ring order. -/
def State.enterRecords (s : State) (part q : Nat) : Nat → Nat → State
  | 0, _ => s
  | n + 1, k =>
    let a := ((s.partAt part).queueAt q).slotPa k
    (s.modPartAt part (fun p => p.enterLid q (memNat s.mem a 1) (memNat s.mem (a + 8) 8))).enterRecords part q n (k + 1)

/-- QTAIL_WRITE: a host write of TAIL; without effect while OWN = 1. Queue 64 is the link-transfer queue, whose
descriptors take no identity (23 R367). Queues are in service once bring-up is complete (24 R374). -/
def execQtailWrite (part q : Nat) (v : Word) (s : State) : Out :=
  let u := (s.partAt part).queueAt q
  if !s.serves part then .next s
  else if q = 64 then .next (s.modPartAt part (fun p => { p with xferq := { p.xferq with tail := getF v 0 12 } }))
  else if u.own || decide (64 ≤ q) then .next s
  else
    let t := getF v 0 12
    let n := (t + u.entries - u.tail) % u.entries
    .next ((s.enterRecords part q n u.tail).modPartAt part (fun p => p.modQueueAt q (fun u => { u with tail := t })))

/-! ### Aging and slices (18 R305, R306) -/

/-- Cycles of PTIME in a microsecond (00 R1). -/
def ticksPerUs : Nat := 600

/-- QUEUE_AGING: outside normal service a queue that has waited AGE.US microseconds rises a level, up to 7. -/
def execQueueAging (part q : Nat) (s : State) : Out :=
  let p := s.partAt part
  let u := p.queueAt q
  match u.waitT with
  | none => .next s
  | some t =>
    if p.mode = 0 ∨ !p.holdsWork q ∨ s.ptime < t + p.ageUs * ticksPerUs then .next s
    else .next (s.modPartAt part (fun p => p.modQueueAt q (fun u =>
      { u with waitT := some (t + p.ageUs * ticksPerUs), level := if u.rank / 8 + u.level < 7 then u.level + 1 else u.level })))

/-- A block of the queue has been dispatched: the queue is at its base level, and its wait starts anew for what it still
holds. -/
def Part.dispatched (p : Part) (q now : Nat) : Part :=
  p.modQueueAt q (fun u => { u with level := 0, waitT := if p.holdsWork q then some now else none })

/-- NEXT_SLICE: contexts that found no fitting candidate in an earlier slice are tried again. -/
def execNextSlice (s : State) : Out :=
  .next { s with ctxs := s.ctxs.map (fun e => match e.2.sliceWait with
    | some k => if k < s.ptime / 65536 then (e.1, { e.2 with sliceWait := none }) else e
    | none => e) }

end Sys2Proof.Machine
end

