-- ==== Sys2Proof/Machine/Scale.lean ====
section
/-! DEFINITION. The K slot: scale buffers, whose writes land after twelve of the context's bundles
(09 R217 to R220). -/

namespace Sys2Proof.Machine

/-- A K word in a bundle that issued with TE = 0 is an illegal slot opcode; a buffer beyond the declaration is
undeclared (09 R218, 02 R34). -/
def State.kWord (s : State) (k : BitVec 2) (act : State → Out) : Out :=
  if !s.issue.te then .next (s.faultWord 0x02)
  else if !s.ctx.declKbuf k then .next s.faultUndeclared
  else act s

/-- A write that lands at the end of the twelfth bundle after this one. -/
def Ctx.kPut (c : Ctx) (k : BitVec 2) (w : KWrite) : Ctx :=
  { c with kpend := c.kpend ++ [{ due := c.bnum + 12, buf := k, write := w }] }

/-- A fault of a `kld` is class A, whatever its cause (09 R220). -/
def Piece.classA : Piece → Piece
  | .faultB c t => .faultA c t
  | p => p

def execKld (k : BitVec 2) (a : SReg) (off lm1 : BitVec 8) (s : State) : Out :=
  let ea := s.rS a; let n := lm1.toNat + 1
  s.kWord k (fun s =>
    if !(match regionOf ea with | .virt _ | .window _ _ => true | _ => false) then .next (s.faultA 0x0B (tvalUndeclared ea))
    else if !State.baseOk ea then .next (s.faultA 0x09 ea)
    else
      let ps := (range 0 n).map (fun c =>
        (chunkAt ea c, (s.piece (chunkAt ea c) 64 64 .read false false).classA, BitVec.allOnes 64))
      match firstBad (ps.map (fun p => p.2.1)) with
      | some p => .next (s.stopped .read p)
      | none => match s.firstHeld ps [], ps.findSome? (fun p => s.poisonOf p.2.1 p.2.2) with
        | some l, _ => .next (s.needHold l)
        | none, some l => .next (s.faultA 0x19 (BitVec.ofNat 64 (64 * l)))
        | none, none =>
          let (xs, s, ws) := s.readPieces ps
          let data := xs.flatMap (fun l => natBytes 64 l.toNat)
          let s := s.modCtx (·.kPut k (.load (64 * off.toNat) (64 * n) data))
          match ws with
          | [] => .next s
          | _ => .next (s.addStall (lastOf ws) 0 (ws.map (fun w => w.1)) [] []))

def execKband (k : BitVec 2) (a : SReg) (s : State) : Out :=
  let x := s.rS a
  s.kWord k (fun s => .next (s.modCtx (·.kPut k (.band x))))

def execKclr (k : BitVec 2) (s : State) : Out :=
  s.kWord k (fun s => .next (s.modCtx (·.kPut k .clear)))

/-- What a write does to its buffer. -/
def KBuf.land (b : KBuf) (w : KWrite) : KBuf :=
  match w with
  | .load off len data => { b with bytes := setF b.bytes (8 * off) (8 * len) (bytesNat data) }
  | .band x => { b with bnd0 := x.extractLsb' 0 16, bnd1 := x.extractLsb' 16 16 }
  | .clear => .zero

/-- The errors that a write leaves of its buffer's (24 R381). -/
def KWrite.leaves (w : KWrite) (n : Nat) : Bool :=
  match w with
  | .load off len _ => !decide (off ≤ 8 * n ∧ 8 * n + 8 ≤ off + len)
  | .band _ => n != 2048
  | .clear => false

/-- The writes that are due at the end of bundle `n` land, in issue order (09 R218). -/
def State.landK (s : State) (i n : Nat) : State :=
  let due := (s.ctxAt i).kpend.filter (fun p => decide (p.due ≤ n))
  let s := due.foldl (fun s p =>
    s.modCoreAt (coreOf i) (fun k =>
      let b := (s.ctxAt i).kbufNo p.buf
      { k with kbufs := vset k.kbufs b ((vget .zero k.kbufs b).land p.write),
               bad := k.bad.filter (fun x => match x with | .scale m n => m != b || p.write.leaves n | _ => true) })) s
  s.modCtxAt i (fun c => { c with kpend := c.kpend.filter (fun p => !decide (p.due ≤ n)) })

end Sys2Proof.Machine
end

