-- ==== Sys2Proof/Machine/Tongs.lean ====
section
/-! DEFINITION. The X slot: the tongs (08 R196 to R199). -/

namespace Sys2Proof.Machine

/-- Row `r` of the tongs. -/
def tongsRow (rows : BitVec 131072) (r : Nat) : VWord := rows.extractLsb' (4096 * r) 4096

/-- Rows with row `r` replaced. -/
def tongsSet (rows : BitVec 131072) (r : Nat) (v : VWord) : BitVec 131072 := setF rows (4096 * r) 4096 v.toNat

/-- What an X-slot instruction does to the rows and the width (08 R198). -/
def Tongs.apply (t : Tongs) (o : XOp) : Tongs :=
  match o with
  | .push r v => { t with rows := tongsSet t.rows r.toNat v }
  | .clear => { t with rows := 0 }
  | .width w => { t with rows := 0, width := w }

/-- The tongs as bundle `n` views them: X-slot instructions of bundles up to `n` − 4 are applied, the
later ones stay in the history (08 R197). -/
def Tongs.at (t : Tongs) (n : Nat) : Tongs :=
  let old := t.hist.filter (fun e => decide (e.1 + 4 ≤ n))
  { old.foldl (fun t e => t.apply e.2) t with hist := t.hist.filter (fun e => !decide (e.1 + 4 ≤ n)) }

/-- Bits of an element of a width. -/
def XWidth.bits : XWidth → Nat
  | .w32 => 32 | .w16 => 16 | .w8 => 8

/-- Group `g`, gathered from rows under a width (08 R198). -/
def gather (rows : BitVec 131072) (w g : Nat) : VWord :=
  pack w (4096 / w) (fun n => elem (tongsRow rows (n % 32)) w (128 / w * g + n / 32))

/-- The tongs of the context in issue as its bundle views them. -/
def Ctx.tongsView (c : Ctx) : Tongs := c.tongs.at c.bnum

/-- The group at the pop pointer. -/
def Ctx.group (c : Ctx) : VWord :=
  let t := c.tongsView
  gather t.rows (XWidth.bits t.width) t.pop.toNat

/-- An X word in a bundle issued with TE = 0 is an illegal slot opcode (08 R197). -/
def State.xWord (s : State) (f : State → Out) : Out :=
  if s.issue.te then f (s.modCtx (fun c => { c with tongs := c.tongsView })) else .next (s.faultWord 0x02)

/-- Adds an X-slot instruction of the present bundle to the history. -/
def Ctx.xNote (c : Ctx) (o : XOp) : Ctx := { c with tongs := { c.tongs with hist := c.tongs.hist ++ [(c.bnum, o)] } }

/-- Advances the pop pointer. -/
def Ctx.xAdvance (c : Ctx) : Ctx := { c with tongs := { c.tongs with pop := c.tongs.pop + 1 } }

def execXpush (v : VReg) (s : State) : Out :=
  let x := s.rV v
  s.xWord (fun s => .next (s.modCtx (fun c =>
    let c := c.xNote (.push c.tongs.push x)
    { c with tongs := { c.tongs with push := c.tongs.push + 1 } })))

def execXpop (v : VReg) (s : State) : Out :=
  s.xWord (fun s => .next ((s.wV 2 v s.ctx.group).modCtx (·.xAdvance)))

def execXst (a : SReg) (i : BitVec 16) (s : State) : Out :=
  let ea := s.rS a + i.signExtend 64 * 64
  s.xWord (fun s =>
    if !State.baseOk ea then .next (s.faultA 0x09 ea)
    else
      let t := s.storeLines s.ctx.group (BitVec.allOnes 128) true (chunkAt ea)
      if t.issue.stop = s.issue.stop then .next (t.modCtx (·.xAdvance)) else .next t)

def execXclr (s : State) : Out :=
  s.xWord (fun s => .next (s.modCtx (fun c =>
    let c := c.xNote .clear
    { c with tongs := { c.tongs with push := 0, pop := 0 } })))

def execXwid (w : XWidth) (s : State) : Out :=
  s.xWord (fun s => .next (s.modCtx (fun c =>
    let c := c.xNote (.width w)
    { c with tongs := { c.tongs with push := 0, pop := 0 } })))

end Sys2Proof.Machine
end

