-- ==== Sys2Proof/Machine/Image.lean ====
section
/-! DEFINITION. Checkpoint images in the pool: sections, their bytes, and what a restore reads of them
(19 R337, R338). The spec gives each section's contents and size and few places within it; the others are the model's
(log 12). -/

namespace Sys2Proof.Machine

/-! ### Fields of a section -/

/-- A field of a section: offset, bytes, value. -/
abbrev Field := Nat × Nat × Nat

/-- Doublewords from an offset on. -/
def dwords (off : Nat) (l : List Word) : List Field := ((range 0 l.length).zip l).map (fun e => (off + 8 * e.1, 8, e.2.toNat))

/-- A section as one number. -/
def fieldsNat (l : List Field) : Nat := l.foldl (fun x f => x + f.2.2 % 2 ^ (8 * f.2.1) * 2 ^ (8 * f.1)) 0

/-- `n` bytes at an offset of a section. -/
def fieldAt (x off n : Nat) : Nat := x / 2 ^ (8 * off) % 2 ^ (8 * n)

/-- A doubleword of a section. -/
def wordAt (x off : Nat) : Word := BitVec.ofNat 64 (fieldAt x off 8)

/-- A section of memory as one number. -/
def memSection (m : List Host.Cell) (base n : Nat) : Nat :=
  (m.filter (fun e => decide (base ≤ e.1 ∧ e.1 < base + n))).foldl (fun x e => x + e.2.toNat * 2 ^ (8 * (e.1 - base))) 0

/-- Writes a section: bytes that no field names are 0. -/
def putSection (m : List Host.Cell) (base n : Nat) (l : List Field) : List Host.Cell :=
  l.foldl (fun m f => if f.2.2 = 0 then m else memWrite m (base + f.1) (natBytes f.2.1 f.2.2))
    (m.filter (fun e => !decide (base ≤ e.1 ∧ e.1 < base + n)))

/-! ### Registers -/

/-- A doubleword of the register section: s0 to s31, p0 to p7, q0 to q7, v0 to v31, in their sizes of R338. -/
def Ctx.regDword (c : Ctx) (off : Nat) : Word :=
  let r := c.regs
  if off < 256 then (if off / 8 = 0 then 0 else vget 0 r.s (off / 8))
  else if off < 320 then BitVec.ofNat 64 (bit ((off - 256) / 8 == 0 || vget false r.p ((off - 256) / 8)))
  else if off < 448 then
    let n := (off - 320) / 16
    (if n = 0 then BitVec.allOnes 128 else vget 0 r.q n).extractLsb' (8 * (off % 16)) 64
  else (vget 0 r.v ((off - 448) / 512)).extractLsb' (8 * ((off - 448) % 512)) 64

/-- The fields of the register section. -/
def Ctx.regFields (c : Ctx) : List Field :=
  dwords 0 ((range 0 56).map (fun k => c.regDword (8 * k)))
    ++ (range 0 32).map (fun n => (448 + 512 * n, 512, (vget 0 c.regs.v n).toNat))

/-- The registers that a section holds. -/
def RegFile.ofNat (x : Nat) : RegFile :=
  { s := Vector.ofFn (fun n => wordAt x (8 * n.val)), p := Vector.ofFn (fun n => (wordAt x (256 + 8 * n.val)).getLsbD 0),
    q := Vector.ofFn (fun n => BitVec.ofNat 128 (fieldAt x (320 + 16 * n.val) 16)),
    v := Vector.ofFn (fun n => BitVec.ofNat 4096 (fieldAt x (448 + 512 * n.val) 512)) }

/-! ### Tongs (08 R196) -/

/-- The codes of a width and back. -/
def widthCode : XWidth → Nat | .w32 => 0 | .w16 => 1 | .w8 => 2
def widthOf (n : Nat) : XWidth := match n with | 0 => .w32 | 1 => .w16 | _ => .w8

/-- A held X-slot instruction: how many bundles back, its kind, the row or width that it names. -/
def xopWord (age : Nat) : XOp → Nat
  | .push r _ => 1 + r.toNat * 2 ^ 8 + age * 2 ^ 16
  | .clear => 2 + age * 2 ^ 16
  | .width w => 3 + widthCode w * 2 ^ 8 + age * 2 ^ 16

/-- The number of the bundle at `pc`: its own once it has one, else the next one. -/
def Ctx.nextNum (c : Ctx) : Nat := if c.numbered then c.bnum else c.bnum + 1

/-- The fields of the tongs section: rows, width and pointers, the last three bundles' instructions with the rows pushed. -/
def Ctx.tongsFields (c : Ctx) : List Field :=
  let t := c.tongs.at c.nextNum
  let held := (range 0 3).zip t.hist
  [(0, 16384, t.rows.toNat), (16384, 8, widthCode t.width + t.push.toNat * 2 ^ 8 + t.pop.toNat * 2 ^ 16)]
    ++ held.map (fun e => (16392 + 8 * e.1, 8, xopWord (c.bnum - e.2.1) e.2.2))
    ++ held.filterMap (fun e => match e.2.2 with | .push _ v => some (16448 + 512 * e.1, 512, v.toNat) | _ => none)

/-- The tongs that a section holds, for a context that has issued `n` numbered bundles. -/
def Tongs.ofNat (x n : Nat) : Tongs :=
  let h := fieldAt x 16384 8
  { rows := BitVec.ofNat 131072 x, width := widthOf (h % 2 ^ 8), push := BitVec.ofNat 5 (h / 2 ^ 8), pop := BitVec.ofNat 5 (h / 2 ^ 16),
    hist := (range 0 3).filterMap (fun k =>
      let e := fieldAt x (16392 + 8 * k) 8
      let at_ := n - e / 2 ^ 16 % 2 ^ 8
      match e % 2 ^ 8 with
      | 0 => none
      | 1 => some (at_, .push (BitVec.ofNat 5 (e / 2 ^ 8)) (BitVec.ofNat 4096 (fieldAt x (16448 + 512 * k) 512)))
      | 2 => some (at_, .clear)
      | _ => some (at_, .width (widthOf (e / 2 ^ 8 % 2 ^ 8)))) }

/-! ### Control -/

/-- The yield count of a context (01 R24). -/
def Ctx.yieldCount (c : Ctx) (now : Nat) : Nat := now - c.yieldT - ((c.countLat now).latcnt - c.yieldLat).toNat

/-- A level of the loop stack as five doublewords. -/
def LoopLevel.words (l : LoopLevel) : List Word :=
  [l.start, l.stop, l.count, l.index, BitVec.ofNat 64 (bit l.kind + 2 * bit l.brk)]

def LoopLevel.ofWords (x off : Nat) : LoopLevel :=
  { start := wordAt x off, stop := wordAt x (off + 8), count := wordAt x (off + 16), index := wordAt x (off + 24),
    kind := (wordAt x (off + 32)).getLsbD 0, brk := (wordAt x (off + 32)).getLsbD 1 }

/-- A system register as it is saved: of FFLAGS also what is still to be written. -/
def State.savedReg (s : State) (i n : Nat) : Word :=
  let c := s.ctxAt i
  if n = 8 then (c.fpend.foldl (fun f e => f ||| e.2) c.fflags).setWidth 64 else s.sysReg i n

/-- Numbers of `n` bits side by side from bit `at_` on. -/
def packed (at_ n : Nat) (l : List Nat) : Nat := ((range 0 l.length).zip l).foldl (fun x e => x + e.2 % 2 ^ n * 2 ^ (at_ + n * e.1)) 0

/-- What the resume shadow holds, as one doubleword: how many S, P, Q and V registers, what the slots have set for the end of
the bundle, the registers' numbers and the values of P. -/
def Saved.head (r : Saved) : Nat :=
  Nat.min 4 r.s.length + Nat.min 2 r.p.length * 2 ^ 3 + Nat.min 1 r.q.length * 2 ^ 5 + Nat.min 3 r.v.length * 2 ^ 6
    + bit r.skip.isSome * 2 ^ 8 + bit r.exiting * 2 ^ 9 + bit r.marked * 2 ^ 10 + bit r.sync * 2 ^ 11
    + packed 12 5 ((r.s.take 4).map (fun e => e.1.toNat)) + packed 32 4 ((r.p.take 2).map (fun e => e.1.toNat + 8 * bit e.2))
    + packed 40 3 ((r.q.take 1).map (fun e => e.1.toNat)) + packed 43 5 ((r.v.take 3).map (fun e => e.1.toNat))

/-- The fields of a resume shadow (07 R163) of up to four S, two P, one Q and three V registers, from an offset on; a further
one has no room in the section and stays in the model's own record (log 12). -/
def Saved.fields (r : Saved) (off : Nat) : List Field :=
  [(off, 8, r.head), (off + 8, 8, (r.skip.getD 0).toNat)] ++ dwords (off + 16) ((r.s.take 4).map Prod.snd)
    ++ (r.q.take 1).map (fun e => (off + 48, 16, e.2.toNat))
    ++ ((range 0 3).zip r.v).map (fun e => (off + 64 + 512 * e.1, 512, e.2.2.toNat))

/-- The resume shadow that a section holds; `r` has the registers without room in it. -/
def Saved.load (r : Saved) (x off : Nat) : Saved :=
  let h := fieldAt x off 8
  let at_ (lo n : Nat) : Nat := h / 2 ^ lo % 2 ^ n
  { s := (range 0 (at_ 0 3)).map (fun k => (BitVec.ofNat 5 (at_ (12 + 5 * k) 5), wordAt x (off + 16 + 8 * k))) ++ r.s.drop 4,
    p := (range 0 (at_ 3 2)).map (fun k => (BitVec.ofNat 3 (at_ (32 + 4 * k) 3), h.testBit (35 + 4 * k))) ++ r.p.drop 2,
    q := (range 0 (at_ 5 1)).map (fun _ => (BitVec.ofNat 3 (at_ 40 3), BitVec.ofNat 128 (fieldAt x (off + 48) 16))) ++ r.q.drop 1,
    v := (range 0 (at_ 6 2)).map (fun k =>
      (BitVec.ofNat 5 (at_ (43 + 5 * k) 5), BitVec.ofNat 4096 (fieldAt x (off + 64 + 512 * k) 512))) ++ r.v.drop 3,
    skip := if h.testBit 8 then some (wordAt x (off + 8)) else Option.none,
    exiting := h.testBit 9, marked := h.testBit 10, sync := h.testBit 11 }

/-- The fields of the control section in the order of R338: PC, loop stack, delay state, the resume shadow of a bundle that a
trap has interrupted, yield count and stated run, system registers. -/
def State.controlFields (s : State) (i : Nat) : List Field :=
  let c := s.ctxAt i
  let d := match c.delay with
    | some d => [BitVec.ofNat 64 (1 + 2 * bit d.taken + 4 * d.left), d.target]
    | none => [0, 0]
  dwords 0 [c.pc, BitVec.ofNat 64 c.loops.length] ++ dwords 16 (c.loops.flatMap LoopLevel.words) ++ dwords 256 d
    ++ c.tresume.fields 272 ++ dwords 1872 [BitVec.ofNat 64 (c.yieldCount s.ptime), BitVec.ofNat 64 c.run]
    ++ dwords 1888 ((range 0 0x13).map (s.savedReg i))

/-- A saved system register goes back. The yield count is set apart. -/
def Ctx.loadSys (c : Ctx) (now n : Nat) (v : Word) : Ctx :=
  match n with
  | 0x5 => { c with mval := getB v 11, macc := v.extractLsb' 8 3, mrow := v.extractLsb' 0 7 }
  | 0x8 => { c with fflags := v.setWidth 5, fpend := [] }
  | _ => c.writeSys now n v

/-- The control state that a section holds goes to a context at time `now`. -/
def Ctx.loadControl (c : Ctx) (now x : Nat) : Ctx :=
  let d := fieldAt x 256 8
  let c := (range 0 0x13).foldl (fun c n => c.loadSys now n (wordAt x (1888 + 8 * n))) c
  { c with pc := wordAt x 0, yieldT := now - fieldAt x 1872 8, yieldLat := c.latcnt, lat0 := now, run := fieldAt x 1880 8,
           tresume := c.tresume.load x 272,
           delay := if d % 2 = 0 then none else some { left := d / 4, taken := d.testBit 1, target := wordAt x 264 },
           loops := (range 0 (Nat.min 6 (fieldAt x 8 8))).map (fun k => LoopLevel.ofWords x (16 + 40 * k)) }

/-! ### Engine registers, dictionary, extents, copies -/

/-- The engine-register window (02 R37). -/
def State.engineFields (s : State) (i : Nat) : List Field :=
  let c := s.ctxAt i
  (range 0 256).map (fun n => (64 * n, 64, (tget templateUndefined c.tmpl n).toNat))
    ++ (range 0 4).map (fun n => (0x4000 + 64 * n, 64, (tget gsetUndefined c.gset n).toNat))
    ++ (range 0 32).map (fun n => (0x5000 + 64 * n, 64, (c.handle n).toNat))
    ++ (range 0 c.probeSlots).map (fun n => (0x6000 + 16 * n, 16, (s.tagWord i n).toNat))

/-- A line of a section. -/
def lineAt (x off : Nat) : Line := BitVec.ofNat 512 (fieldAt x off 64)

/-- What the block declares of the window, from the section; reserved bits read as 0 (00 R5). -/
def Ctx.loadEngine (c : Ctx) (k : Kernel) (x : Nat) : Ctx :=
  let lines (off n : Nat) (bits : Line) : Tbl Line := (range 0 n).map (fun e => (e, lineAt x (off + 64 * e) &&& bits))
  { c with tmpl := lines 0 k.tmpl.length templateBits, gset := lines 0x4000 k.gset.length gsetBits,
           handles := lines 0x5000 32 handleBits,
           tags := (range 0 k.pslots).map (fun n => (n, setF (setF (BitVec.ofNat 512 (fieldAt x (0x6000 + 16 * n) 16)) 47 1 0) 48 8 0)) }

/-- The dictionary, and the entries that a section holds. -/
def Ctx.dictFields (c : Ctx) : List Field := (range 0 1024).map (fun e => (64 * e, 64, (tget 0 c.dict e).toNat))
def loadDict (x : Nat) : Tbl Line :=
  (range 0 1024).filterMap (fun e => if fieldAt x (64 * e) 64 = 0 then none else some (e, lineAt x (64 * e) &&& dictBits))

/-- The extents by entry; their order of use is the record's. -/
def Ctx.extentFields (c : Ctx) : List Field := c.extents.map (fun e => (32 * e.entry, 32, e.bits.toNat))
def Ctx.loadExtents (c : Ctx) (x : Nat) : List Extent :=
  c.extents.map (fun e => { e with bits := BitVec.ofNat 256 (fieldAt x (32 * e.entry) 32) })

/-- The squashed copies in channel order: 72 bytes each after the sixteen counts. -/
def Ctx.copyFields (c : Ctx) : List Field :=
  (range 0 16).flatMap (fun n =>
    (4 * n, 4, (c.chan n).length) :: ((range 0 16).zip (c.chan n)).flatMap (fun e =>
      let at_ := 64 + 72 * (16 * n + e.1)
      [(at_, 8, e.2.start.toNat), (at_ + 8, 64, e.2.tmpl.toNat)]))
def Ctx.loadCopies (c : Ctx) (x : Nat) : Ctx :=
  (range 0 16).foldl (fun c n => c.setChan n (((range 0 16).zip (c.chan n)).map (fun e =>
    let at_ := 64 + 72 * (16 * n + e.1)
    { e.2 with start := wordAt x at_, tmpl := lineAt x (at_ + 8) &&& templateBits }))) c

/-! ### Scale buffers, the held operation, pending K writes, tiles, trace -/

/-- A scale buffer of 16,448 bytes: block scales, then the band scales (09 R217). -/
def KBuf.fields (k : KBuf) (off : Nat) : List Field :=
  [(off, 16384, k.bytes.toNat), (off + 16384, 4, k.bnd0.toNat + k.bnd1.toNat * 2 ^ 16)]
def KBuf.ofNat (x off : Nat) : KBuf :=
  { bytes := BitVec.ofNat 131072 (fieldAt x off 16384), bnd0 := BitVec.ofNat 16 (fieldAt x (off + 16384) 2),
    bnd1 := BitVec.ofNat 16 (fieldAt x (off + 16386) 2) }

/-- The held M operation: M word, addresses, MROW, captured set and scales (09 R213). -/
def MOp.fields (o : MOp) : List Field :=
  [(0, 8, o.word.toNat), (8, 8, o.addrA.toNat), (16, 8, o.addrB.toNat), (24, 8, o.row), (64, 64, o.gset.toNat)]
    ++ o.bufA.fields 128 ++ o.bufB.fields 16576
def MOp.load (o : MOp) (x : Nat) : MOp :=
  { o with word := BitVec.ofNat 32 (fieldAt x 0 8), addrA := wordAt x 8, addrB := wordAt x 16, row := fieldAt x 24 8,
           gset := lineAt x 64 &&& gsetBits, bufA := KBuf.ofNat x 128, bufB := KBuf.ofNat x 16576 }

/-- Pending K writes with their remaining counts (09 R217). -/
def Ctx.kFields (c : Ctx) : List Field :=
  ((range 0 c.kpend.length).zip c.kpend).flatMap (fun e =>
    let at_ := 64 + 16448 * e.1
    let head := (4 * e.1, 4, (e.2.due - c.bnum) + e.2.buf.toNat * 2 ^ 8)
    match e.2.write with
    | .load off len data => [head, (at_, 8, off + len * 2 ^ 32), (at_ + 64, len, bytesNat data)]
    | .band w => [head, (at_, 8, w.toNat)]
    | .clear => [head])
def Ctx.loadK (c : Ctx) (x : Nat) : List KPend :=
  ((range 0 c.kpend.length).zip c.kpend).map (fun e =>
    let at_ := 64 + 16448 * e.1
    { e.2 with due := c.bnum + fieldAt x (4 * e.1) 1,
               write := match e.2.write with
                 | .load off len _ => .load off len (natBytes len (fieldAt x (at_ + 64) len))
                 | .band _ => .band (wordAt x at_)
                 | .clear => .clear })

/-- Tiles by rows. -/
def State.tileFields (s : State) (i : Nat) (b : Block) : List Field :=
  (range 0 b.kernel.tiles).flatMap (fun t =>
    (range 0 64).map (fun r => (32768 * t + 512 * r, 512, (tileRow (vget 0 (s.coreAt (coreOf i)).tiles (b.tileBase + t)) r).toNat)))

/-- Filters and start. -/
def Ctx.traceFields (c : Ctx) : List Field :=
  [(0, 512, c.rfilter.toNat), (512, 512, c.wfilter.toNat), (1024, 8, bit c.startT.isSome), (1032, 8, c.startT.getD 0)]
def Ctx.loadTrace (c : Ctx) (x : Nat) : Ctx :=
  { c with rfilter := BitVec.ofNat 4096 x, wfilter := BitVec.ofNat 4096 (fieldAt x 512 512),
           startT := if fieldAt x 1024 8 = 0 then none else some (fieldAt x 1032 8) }

/-! ### The image -/

/-- The bytes of a footprint, by offset. -/
def footprint (m : List Host.Cell) (base n : Nat) : List Host.Cell :=
  (m.filter (fun e => decide (base ≤ e.1 ∧ e.1 < base + n))).map (fun e => (e.1 - base, e.2))

/-- The sections' sizes in the order of R338; the header's first. -/
def Ctx.sectionSizes (c : Ctx) (b : Block) : List Nat :=
  [256, 2048, 16832, 18176, 28672, 65536, 512, 18496, if c.heldOp.isSome then 33024 else 0, 16448 * b.kernel.kbufs,
   64 + 16448 * c.kpend.length, 32768 * b.kernel.tiles, if b.lrec.trace then 1088 else 0, b.kernel.scratch]

/-- The offset of section `k`. Every size is a multiple of 64. -/
def sectionAt (sizes : List Nat) (k : Nat) : Nat := (sizes.take k).foldl (· + ·) 0

/-- LIVE of a context (19 R339). -/
def State.liveBits (s : State) (i : Nat) : Word :=
  let c := s.ctxAt i
  BitVec.ofNat 64 (bit (c.dict.any (fun e => getB e.2 480)) * 2 ^ 7
    + bit (match c.block with | some b => b.lrec.trace | none => false) * 2 ^ 5
    + bit (s.msdefcnt i != 0) * 2 ^ 4 + bit (c.probeSlots != 0) * 2 ^ 2)

/-- The header of 256 bytes: MAGIC, FEATV, LIVE, LID, block, core, context, image length, PTIME of the save. -/
def State.headerFields (s : State) (i : Nat) (b : Block) (length : Nat) : List Field :=
  [(0, 8, 0x4B435856), (8, 8, Config.featv.toNat), (16, 8, (s.liveBits i).toNat), (24, 8, b.lid.toNat), (32, 4, b.b), (36, 4, coreOf i),
   (40, 4, i % 2), (44, 4, length), (48, 8, s.ptime)]

/-- The sections of context `i`'s image: size and fields. -/
def State.sections (s : State) (i : Nat) (b : Block) : List (Nat × List Field) :=
  let c := s.ctxAt i
  let sizes := c.sectionSizes b
  sizes.zip
    [s.headerFields i b (sectionAt sizes 14), s.controlFields i, c.regFields, c.tongsFields, s.engineFields i, c.dictFields, c.extentFields,
     c.copyFields, (match c.heldOp with | some o => o.fields | none => []),
     (range 0 b.kernel.kbufs).flatMap (fun n => (vget .zero (s.coreAt (coreOf i)).kbufs (b.kbufBase + n)).fields (16448 * n)),
     c.kFields, s.tileFields i b, (if b.lrec.trace then c.traceFields else []),
     (footprint (s.coreAt (coreOf i)).scratch b.scratchBase b.kernel.scratch).map (fun e => (e.1, 1, e.2.toNat))]

/-- The physical address of a slot of the pool (19 R337). -/
def Part.poolAt (p : Part) (slot : Nat) : Nat := p.ckBase.toNat / 2 ^ 21 * 2 ^ 21 + 2 ^ 21 * slot

/-- Lines that the device has written are sealed with the tag of its own stores (04 R97; log 42). -/
def State.sealOwn (s : State) (l n : Nat) : State :=
  { s with tags := (range l n).map (fun k => (k, 0x1FFF)) ++ s.tags.filter (fun e => !decide (l ≤ e.1 ∧ e.1 < l + n)) }

/-- Writes sections from an address on. -/
def putSections (m : List Host.Cell) (base : Nat) : List (Nat × List Field) → List Host.Cell
  | [] => m
  | (n, l) :: t => putSections (putSection m base n l) (base + n) t

/-- Writes the image of context `i` to a slot of the pool (19 R337, R338). -/
def State.writeImage (s : State) (i : Nat) (b : Block) (slot : Nat) : State :=
  let base := (s.partAt b.part).poolAt slot
  let n := sectionAt ((s.ctxAt i).sectionSizes b) 14
  let s := (({ s with mem := putSections s.mem base (s.sections i b) } : State).sealOwn (base / 64) (n / 64)).renewAll base n
  (range 0 ((n + 4095) / 4096)).foldl (fun s k => s.writeTime (base + 4096 * k) 0 hostBlock) s

/-- A section of the image in a slot, as one number. -/
def State.readSection (s : State) (part slot k : Nat) (sizes : List Nat) : Nat :=
  memSection s.mem ((s.partAt part).poolAt slot + sectionAt sizes k) ((nth sizes k).getD 0)

/-- FEATV and LIVE in the header of an image. -/
def State.imageFeatv (s : State) (part slot : Nat) : Word := wordAt (memSection s.mem ((s.partAt part).poolAt slot) 256) 8
def State.imageLive (s : State) (part slot : Nat) : Word := wordAt (memSection s.mem ((s.partAt part).poolAt slot) 256) 16

/-- A line of the image in a slot that cannot be read (24 R381). -/
def State.imageBad (s : State) (part slot n : Nat) : Option Nat :=
  let base := (s.partAt part).poolAt slot
  s.pkg.poisoned.find? (fun l => decide (base ≤ 64 * l ∧ 64 * l < base + n))

/-- Whether an image may be restored (19 R339). -/
def imageAccepted (featv live : Word) : Bool :=
  getF featv 36 12 == getF Config.featv 36 12 && (live &&& ~~~Config.featv) == 0

end Sys2Proof.Machine
end

