-- ==== Sys2Proof/Machine/Enter.lean ====
section
/-! DEFINITION. Pretranslation, block entry, dispatch of blocks and gangs, the end of a block, checkpoint
and restore (01 R13, R15; 07 R158; 14 R266; 18 R305; 19 R325, R336 to R339). -/

namespace Sys2Proof.Machine

/-! ### The block of a context -/

/-- The block that a placement gives context `i`: its shares start at the core's ends (02 R40). -/
def mkBlock (i part : Nat) (l : Launch) (k : Kernel) (b : Nat) (x : Placement) (now : Nat) : Block :=
  let k := l.lrec.declares k
  { part := part, queue := l.queue, key := l.key, lid := l.lid, b := b, member := x.member, gang := l.lrec.gangOf b,
    gangCore := x.gangCore, parity := x.parity, wid := BitVec.ofNat 12 (x.core * 2 + x.parity), lrec := l.lrec, kernel := k,
    scratchBase := if i % 2 = 0 then 0 else 0x100000 - k.scratch, tileBase := if i % 2 = 0 then 0 else 8 - k.tiles,
    kbufBase := if i % 2 = 0 then 0 else 4 - k.kbufs, dispatchT := now }

/-- The block that context `i` is to hold. -/
def State.blockFor (s : State) (i part : Nat) (l : Launch) (b : Nat) : Option Block :=
  match s.kernelOf l.lrec, (s.partAt part).place l.lrec b with
  | some k, some x => some (mkBlock i part l k b x s.ptime)
  | _, _ => none

/-! ### Pretranslation (19 R325) -/

/-- Whether a mapping merges with an extent before it. -/
def Extent.joins (x y : Extent) : Bool :=
  y.vb == x.vb + x.npg && y.pb == x.pb + x.npg && getF x.bits 225 31 == getF y.bits 225 31

/-- Adds a mapping to the extents of a table, the last formed first; none when it has no room. -/
def addMapping (l : List Extent) (x : Extent) : Option (List Extent) :=
  match l with
  | y :: t => if y.joins x then some ({ y with bits := setF y.bits 160 32 (y.npg + x.npg) } :: t)
              else if l.length < 16 then some (x :: l) else none
  | [] => some [x]

/-- How pretranslation of a range ends: at its end, with a full table, at a walk whose read waits at its controller. -/
inductive PreEnd | more | full | held
  deriving DecidableEq, Repr

/-- Pretranslates pages of a range, at most `n` mappings from page `p` to `last`, until the table is full or a slot holds a
read of a walk (21 R352). The lines that a walk has read stand in their home slices (log 59). -/
def State.pretranslate (s : State) (i : Nat) (b : Block) (key : RangeKey) (rangeW : Bool) (last : Nat) :
    Nat → Nat → List Extent → List Extent × PreEnd × State
  | 0, _, l => (l, .more, s)
  | n + 1, p, l =>
    if last ≤ p then (l, .more, s)
    else if s.walkHeld (dieOf i) b.part b.lrec.asid b.key (p * 4096) then (l, .held, s) else
    let reads := s.walkReads (dieOf i) b.part b.lrec.asid b.key (p * 4096)
    let (r, s) := s.walkVa (dieOf i) b.part b.lrec.asid b.key (p * 4096)
    let s := reads.foldl (fun s a => s.homeTouch (a / 64)) s
    match r with
    | .error _ => s.pretranslate i b key rangeW last n (p + 1) l
    | .ok leaf =>
      let x := b.cut ((s.partAt b.part).genOf b.lrec.asid b.key) key true rangeW leaf
      match addMapping l x with
      | none => (l, .full, s)
      | some l => (s.setAd leaf x.w).pretranslate i b key rangeW last n (x.vb + x.npg) l

/-- The extents of pretranslation, the last formed first, with the numbers of their entries in order of forming. -/
def numbered (l : List Extent) : List Extent :=
  ((range 0 l.length).zip l).map (fun e => { e.2 with entry := l.length - 1 - e.1 })

/-- Pretranslates a list of ranges in order until the table is full. -/
def State.pretranslateAll (s : State) (i : Nat) (b : Block) : List (RangeKey × Bool) → List Extent → List Extent × PreEnd × State
  | [], l => (l, .more, s)
  | (key, w) :: t, l =>
    let (p, n) := b.rangePages key
    let (l, e, s) := s.pretranslate i b key w (p + n) n p l
    if e = .more then s.pretranslateAll i b t l else (l, e, s)

/-- The ranges that are pretranslated: the code range, then each declared range that is not on demand. -/
def LRec.pretranslated (r : LRec) : List (RangeKey × Bool) :=
  (codeKey, false) :: ((range 0 r.rng.length).zip r.rng).filterMap (fun e =>
    if e.2.declared && !e.2.demand then some ({ no := e.1, code := false, parm := false }, e.2.w) else none)

/-- What `pret` of a context holds for a block. -/
def pretOf (part : Nat) (o : Offer) (b : Nat) : Option (Nat × Nat × Nat) := some (part, o.launch.key, b)

/-- PRETRANSLATION: the extents of the block that the arbiter chooses from queue `q` for context `i`; nothing
is pretranslated under host walking (18 R315). It goes on later where a slot holds a walk (21 R352). -/
def execPretranslation (part q i : Nat) (s : State) : Out :=
  match s.chosen part i with
  | none => .next s
  | some (o, b, _) =>
    if o.queue ≠ q ∨ o.slot.isSome ∨ (s.ctxAt i).pret = pretOf part o b then .next s
    else match s.blockFor i part o.launch b with
      | none => .next s
      | some blk =>
        let (l, e, s) := if getB s.pkg.duty 0 then ([], .more, s) else s.pretranslateAll i blk o.launch.lrec.pretranslated []
        if e = .held then .next s
        else .next (s.modCtxAt i (fun c => { c with extents := numbered l, pret := pretOf part o b }))

/-! ### Block entry (01 R13) -/

/-- S registers at block entry. -/
def entryReg (b : Block) (n : Nat) : Word :=
  let r := b.lrec
  BitVec.ofNat 64 (match n with
    | 1 => b.b
    | 2 => r.param
    | 9 => b.member
    | 16 => r.nblk
    | 17 => b.lid.toNat
    | _ => if 3 ≤ n ∧ n ≤ 8 then (nth (r.indices b.b) (n - 3)).getD 0
           else if 10 ≤ n ∧ n ≤ 15 then ((nth r.lt (n - 10)).map (fun e => e.count)).getD 0 else 0)

/-- A table by number from a list. -/
def tableOf {α : Type} (l : List α) : Tbl α := (range 0 l.length).zip l

/-- A handle descriptor of the image: reserved bits read as 0 (10 R249; 00 R5). -/
def entryHandle (h : Word) : Line := BitVec.ofNat 512 (getF h 0 45)

/-- A copy template and a geometry set of the image: reserved bits read as 0, and ERR is 0 at block entry (10 R242; 09 R200;
00 R5). -/
def entryTemplate (t : Line) : Line := setF (t &&& templateBits) 183 1 0
def entryGset (g : Line) : Line := setF (g &&& gsetBits) 63 1 0

/-- A context as its block enters: registers of R13, system registers of 07 R164, the arrays of the image. -/
def Ctx.entered (c : Ctx) (b : Block) (now : Nat) : Ctx :=
  let k := b.kernel
  { c.vacant with
    regs := { RegFile.zero with s := Vector.ofFn (fun n => entryReg b n.val) },
    pc := k.entry, dict := tableOf (k.dict.map (· &&& dictBits)), tmpl := tableOf (k.tmpl.map entryTemplate),
    gset := tableOf (k.gset.map entryGset),
    handles := tableOf (k.handles.map entryHandle), extents := c.extents, yieldT := now, lat0 := now,
    run := b.lrec.runest, status := .running, block := some b }

/-- Block entry of context `i`: its scale buffers are zero (09 R217), a block that the device launched begins
after an acquire at package scope (07 R172), entry is a restart point. -/
def State.enterBlock (s : State) (i : Nat) (b : Block) (dev : Bool) : State :=
  let s := s.modCtxAt i (fun c => c.entered b s.ptime)
  let s := s.modCoreAt (coreOf i) (fun k => { k with
    kbufs := (range b.kbufBase b.kernel.kbufs).foldl (fun v n => vset v n .zero) k.kbufs,
    bad := k.bad.filter (fun x => match x with
      | .scale n _ => !decide (b.kbufBase ≤ n ∧ n < b.kbufBase + b.kernel.kbufs)
      | _ => true) })
  let s := if dev then s.acquire i .pkg else s
  let s := s.modCtxAt i (fun c => c.takeShadow c.pc 0 .none)
  s.modPartAt b.part (fun p => (p.modLaunch b.key (fun l => l.setBlock b.b (.running i))).dispatched b.queue s.ptime)

/-- The blocks of an offer enter the contexts of its seats together, once all are pretranslated. -/
def State.enterSeats (s : State) (part : Nat) (o : Offer) (l : List (Nat × Nat)) : State :=
  if l.all (fun e => (s.ctxAt e.2).pret == pretOf part o e.1) then
    l.foldl (fun s e => match s.blockFor e.2 part o.launch e.1 with
      | some b => s.enterBlock e.2 b o.launch.dev
      | none => s) s
  else s

/-- Context `i`, for which no candidate fits, waits for the next slice (18 R305 step 2). -/
def State.waitSlice (s : State) (i : Nat) : State :=
  if (s.ctxAt i).status == .free && !s.waitsSlice i && s.nothingFits i then
    s.modCtxAt i (fun c => { c with sliceWait := some (s.ptime / 65536) })
  else s

/-- BLOCK_DISPATCH: the arbiter acts for a free context; when no candidate fits it waits for the next slice
(18 R305). -/
def execBlockDispatch (i : Nat) (s : State) : Out :=
  if s.waitsSlice i then .next s
  else if s.nothingFits i then .next (s.waitSlice i)
  else match s.ownerOf (coreOf i) with
    | none => .next s
    | some part => match s.chosen part i with
      | some (o, _, l) => if o.slot.isSome || o.launch.lrec.gangN != 0 then .next s else .next (s.enterSeats part o l)
      | none => .next s

/-- Contexts on the core of a block. -/
def Part.contextsOf (p : Part) (r : LRec) (b : Nat) : List Nat :=
  match p.place r b with | some x => [2 * x.core, 2 * x.core + 1] | none => []

/-- GANG_DISPATCH: the members of gang `k` of queue `q`'s record are dispatched in one cycle (01 R11), on whichever of their
cores the arbiter chooses it; the contexts of those cores for which no candidate fits wait for the next slice (18 R305). -/
def execGangDispatch (part q k : Nat) (s : State) : Out :=
  let p := s.partAt part
  match (p.recordsOf q).find? (fun l => l.blocks.any (fun b => b == .pending)) with
  | none => .next s
  | some l =>
    if l.lrec.gangN = 0 then .next s
    else
      let cxs := (l.lrec.unit_ (k * l.lrec.gangN)).flatMap (p.contextsOf l.lrec)
      match cxs.findSome? (fun i => match s.chosen part i with
          | some (o, b, seats) =>
            if o.queue = q ∧ o.slot.isNone ∧ o.launch.key = l.key ∧ o.launch.lrec.gangOf b = k then some (o, seats) else none
          | none => none) with
      | some (o, seats) => .next (s.enterSeats part o seats)
      | none => .next (cxs.foldl State.waitSlice s)

/-! ### The end of a block (07 R158) -/

/-- Whether every operation of the engine queues of a context has been performed. -/
def Ctx.drained (c : Ctx) : Bool :=
  c.stores.isEmpty && c.mq.isEmpty && c.xq.isEmpty && c.chans.all (fun q => q.2.isEmpty) && c.stall.isNone

/-- A context leaves its block in a state, and the record may be complete. -/
def State.endBlock (s : State) (i : Nat) (st : BState) : State :=
  match (s.ctxAt i).block with
  | none => s
  | some b => ((s.setBlock b.part b.key b.b st).vacate i).finish b.part b.key

/-- EXIT_DRAIN_COMPLETE: steps 3 to 5 of `exit`. A held M operation is delivered in its class. -/
def execExitDrainComplete (i : Nat) (s : State) : Out :=
  let c := s.ctxAt i
  if c.status ≠ .exiting then .next s
  else match c.heldOp.bind (fun o => o.held) with
    | some (code, tval) =>
      let t := (s.modCtxAt i (fun c => { c with status := .running })).takeTrap i code 2 tval c.pc 0 0
      if t.noRoom then .next s else .next t
    | none =>
      if !c.drained then .next s
      else
        let t := (s.dump i).endBlock i .done
        if t.noRoom then .next s else .next t

/-! ### Removal (19 R336) -/

/-- Clears VALID of the records of a block that is removed and of its launch's saved blocks, which go with it
(16 R291). -/
def State.invalidateWith (s : State) (part key : Nat) (lid : BitVec 32) (r : LRec) (b : Nat) : State :=
  let saved := match (s.partAt part).launchOf key with
    | some l => (range 0 l.blocks.length).filter (fun k => match nth l.blocks k with | some (.saved _ _) => true | _ => false)
    | none => []
  (b :: saved.filter (fun k => k != b)).foldl (fun s k => s.invalidate part key lid r k) s

/-- The block of context `i` is removed: VALID of its record clears, no further block of its launch runs. -/
def State.removeBlock (s : State) (i : Nat) : State :=
  match (s.ctxAt i).block with
  | none => s
  | some b =>
    let s := (s.invalidateWith b.part b.key b.lid b.lrec b.b).leaveColls i
    ((s.stopBlock b.part b.key b.b).vacate i).finish b.part b.key

/-- Whether the record of a context's block has been stopped by a removal. -/
def State.launchStopped (s : State) (i : Nat) : Bool :=
  match (s.ctxAt i).block with
  | some b => (match (s.partAt b.part).launchOf b.key with | some l => l.stopped | none => false)
  | none => false

/-- REMOVAL_ENGINE_DRAINED: the engine of the present step has no request in flight, and the next step begins;
after the last one the block is removed. A suspended context of a stopped launch begins its removal. -/
def execRemovalEngineDrained (i : Nat) (s : State) : Out :=
  match (s.ctxAt i).status with
  | .removing k _ =>
    let s := s.squashEngine i k
    if s.inFlight i k then .next s
    else if k < 5 then
      .next ((s.modCtxAt i (fun c => { c with status := .removing (k + 1) s.ptime })).squashEngine i (k + 1))
    else .next (s.removeBlock i)
  | .suspended => if s.launchStopped i then .next (s.startRemoval i) else .next s
  | _ => .next s

/-- A step that has waited longer than 2^20 cycles. -/
def State.removalStuck (s : State) (i : Nat) : Bool :=
  match (s.ctxAt i).status with
  | .removing k t => s.inFlight i k && decide (t + 2 ^ 20 < s.ptime)
  | _ => false

/-- The other context of a core that is reset: its block's record, then back to its queue or removed. -/
def State.resetOther (s : State) (i : Nat) : State :=
  match (s.ctxAt i).block with
  | none => s
  | some b =>
    let s := s.postCtx i (s.ctxRec i 0x20 3 8 0 0 0 0)
    let s := s.squashCopies i
    if b.lrec.idem then
      (((s.leaveColls i).modPartAt b.part (fun p => p.startAging b.queue s.ptime)).setBlock b.part b.key b.b .pending).vacate i
    else s.removeBlock i

/-- CORE_RESET: both contexts are removed, requests in flight with their tags are discarded, scratchpad, tiles
and scale buffers are zeroed, and the partition asks for recovery service (18 R309). -/
def execCoreReset (core : Nat) (s : State) : Out :=
  match [2 * core, 2 * core + 1].find? s.removalStuck with
  | none => .next s
  | some i =>
    let part := (s.ctxAt i).part
    let s1 := s.removeBlock i
    let s2 := match (s1.ctxAt (partner i)).status with
      | .removing _ _ => s1.removeBlock (partner i)
      | _ => s1.resetOther (partner i)
    let s3 := s2.modCoreAt core (fun k => ({ k with scratch := [], tiles := Vector.replicate 8 0, kbufs := Vector.replicate 4 .zero } : Core).keepErrors
      (fun x => match x with | .line _ _ => true | _ => false))
    if s3.noRoom then .next s else .next (s3.modPartAt part (fun p => { p with wantRecovery := true }))

/-! ### Checkpoint (10 R248; 19 R337, R338) -/

/-- Whether a context at its boundary can be saved: S and X queues are empty, the M queue up to a held
operation. -/
def Ctx.saveable (c : Ctx) : Bool :=
  c.status == .running && c.atBound && c.preempt == .checkpoint && c.stores.isEmpty && c.xq.isEmpty && c.stall.isNone
    && (c.mq.isEmpty || c.heldOp.isSome)

/-- A context whose engines ask for nothing. -/
def Ctx.askless (c : Ctx) : Ctx :=
  { c with hold := none, posted := false, inIssue := none, closed := false, asked := [], engReqs := [], engAns := [], walkReq := none, walked := [] }

/-- CHECKPOINT: the copies are squashed, the image is written to a free slot, the context is free, and its queue holds an
undispatched candidate. -/
def execCheckpoint (i : Nat) (s : State) : Out :=
  let c := s.ctxAt i
  match c.block with
  | none => .next s
  | some b =>
    match (range 0 (s.partAt b.part).ckCount).find? (fun k => ((s.partAt b.part).imageAt k).isNone) with
    | none => .next s
    | some slot =>
      if !c.saveable then .next s
      else
        let s := (s.squashCopies i).modCtxAt i Ctx.askless
        let im : Image := { ctx := s.ctxAt i, ptime := s.ptime }
        let s := (s.writeImage i b slot).modPartAt b.part (fun p =>
          { p.startAging b.queue s.ptime with images := (slot, im) :: p.images })
        .next ((s.setBlock b.part b.key b.b (.saved slot s.ptime)).vacate i)

/-! ### Restore (19 R339) -/

/-- A footprint's bytes moved from one base to another. -/
def rebase (m : List Host.Cell) (old new n : Nat) : List Host.Cell := (footprint m old n).map (fun e => (new + e.1, e.2))

/-- The saved context continues in context `c` with what the sections hold. Its debug controls and record buffers are the
context's own. -/
def Ctx.restored (c : Ctx) (im : Image) (b : Block) (now : Nat) (sect : Nat → Nat) : Ctx :=
  let x := im.ctx
  let old := match x.block with | some o => o.scratchBase | none => 0
  let x : Ctx := (((x.loadControl now (sect 1)).loadEngine b.kernel (sect 4)).loadCopies (sect 7)).loadTrace
    (if b.lrec.trace then sect 12 else 0)
  { x with regs := RegFile.ofNat (sect 2), tongs := Tongs.ofNat (sect 3) x.bnum, dict := loadDict (sect 5), extents := x.loadExtents (sect 6),
           mq := x.mq.map (fun o => { (if o.held.isSome then o.load (sect 8) else o) with
             snap := rebase o.snap old b.scratchBase b.kernel.scratch }),
           kpend := x.loadK (sect 10),
           block := some b, status := .running, preempt := .none, atBound := false, ready := [], stall := none, walkReq := none,
           walked := [], issuedAt := none, ibuf := [], bps := c.bps, halt := c.halt, overruns := [], sliceWait := none,
           halted := false, step := false, sq := c.sq, reason := 0, busyRead := c.busyRead, terr := c.terr, kaddr := c.kaddr,
           fbuf := c.fbuf, ebuf := c.ebuf, pret := none }

/-- Writes the shared resources of an image to their new places. -/
def Core.reload (k : Core) (b : Block) (scales tiles : Nat) (scratch : List Host.Cell) : Core :=
  let r : Core :=
    { k with scratch := scratch.foldl (fun m e => memSet m (b.scratchBase + e.1) e.2)
               ((footprint k.scratch b.scratchBase b.kernel.scratch).foldl (fun m e => memSet m (b.scratchBase + e.1) 0) k.scratch),
             tiles := (range 0 b.kernel.tiles).foldl (fun v n =>
               vset v (b.tileBase + n) (BitVec.ofNat 262144 (fieldAt tiles (32768 * n) 32768))) k.tiles,
             kbufs := (range 0 b.kernel.kbufs).foldl (fun v n => vset v (b.kbufBase + n) (KBuf.ofNat scales (16448 * n))) k.kbufs }
  r.keepErrors (fun x => match x with
    | .dword n => !decide (b.scratchBase ≤ 8 * n ∧ 8 * n < b.scratchBase + b.kernel.scratch)
    | .row n _ => !decide (b.tileBase ≤ n ∧ n < b.tileBase + b.kernel.tiles)
    | .scale n _ => !decide (b.kbufBase ≤ n ∧ n < b.kbufBase + b.kernel.kbufs)
    | .line _ _ => true)

/-- The image in a slot is read into context `i`, for a block. -/
def State.readImage (s : State) (i : Nat) (b : Block) (slot : Nat) (im : Image) : State :=
  let sizes := im.ctx.sectionSizes b
  let sect := fun k => s.readSection b.part slot k sizes
  let s1 := s.modCtxAt i (fun c => c.restored im b s.ptime sect)
  s1.modCoreAt (coreOf i) (fun k => k.reload b (sect 9) (sect 11)
    (footprint s.mem ((s.partAt b.part).poolAt slot + sectionAt sizes 13) b.kernel.scratch))

/-- Restores block `b` of a record into context `i`, or refuses with a record and removes the block. -/
def State.restoreOne (s : State) (part : Nat) (l : Launch) (b i : Nat) : State :=
  match nth l.blocks b, s.blockFor i part l b with
  | some (.saved slot _), some blk => match (s.partAt part).imageAt slot with
    | none => s
    | some im =>
      let u := s.modPartAt part (fun p => { p with images := p.images.filter (fun e => e.1 != slot) })
      let bad := s.imageBad part slot (sectionAt (im.ctx.sectionSizes blk) 14)
      if bad.isNone && imageAccepted (s.imageFeatv part slot) (s.imageLive part slot) then
        let blk := { blk with dispatchT := match im.ctx.block with | some x => x.dispatchT | none => s.ptime }
        (u.readImage i blk slot im).modPartAt part (fun p =>
          (p.modLaunch l.key (fun l => l.setBlock b (.running i))).dispatched l.queue s.ptime)
      else
        let u := u.postPkg part { u.pkgRec (if bad.isSome then 0x19 else 0x21) 9 0 with
          lid := l.lid, block := b, wid := blk.wid, tval := match bad with | some k => BitVec.ofNat 64 (64 * k) | none => 0 }
        ((u.invalidateWith part l.key l.lid l.lrec b).stopBlock part l.key b).finish part l.key
  | _, _ => s

/-- RESTORE: the arbiter dispatches the saved block of a slot onto context `i`; a gang resumes whole. -/
def execRestore (part slot i : Nat) (s : State) : Out :=
  match s.chosen part i with
  | none => .next (s.waitSlice i)
  | some (o, b, l) => match o.slot, nth o.launch.blocks b with
    | some _, some (.saved k _) =>
      if k = slot then .next (l.foldl (fun s e => s.restoreOne part o.launch e.1 e.2) s) else .next s
    | _, _ => .next s

end Sys2Proof.Machine
end

