-- ==== Sys2Proof/Machine/Scalar.lean ====
section
/-! DEFINITION. Scalar arithmetic, immediates, bit fields, compares and predicates (07 R141 to R149). -/

namespace Sys2Proof.Machine

/-- The operation of 07 R143 on 64 bits, or on the low 32 bits with the result sign-extended. -/
def alu (w : Bool) (f : (n : Nat) → BitVec n → BitVec n → BitVec n) (x y : Word) : Word :=
  if w then (f 32 (x.setWidth 32) (y.setWidth 32)).signExtend 64 else f 64 x y

/-- Functions 0 to 14: one cycle (07 R141). -/
def State.alu1 (s : State) (d a b : SReg) (w : Bool) (f : (n : Nat) → BitVec n → BitVec n → BitVec n) : Out :=
  .next (s.wS 1 d (alu w f (s.rS a) (s.rS b)))

/-- mul, mulh and mulhu: three cycles. -/
def State.alu3 (s : State) (d a b : SReg) (w : Bool) (f : (n : Nat) → BitVec n → BitVec n → BitVec n) : Out :=
  .next (s.wS 3 d (alu w f (s.rS a) (s.rS b)))

/-- Division: integer divide by zero (0x1F) when the divisor is 0 in the operation's width, otherwise
twenty cycles (07 R144). -/
def State.aluDiv (s : State) (d a b : SReg) (w : Bool) (f : (n : Nat) → BitVec n → BitVec n → BitVec n) : Out :=
  if (if w then (s.rS b).setWidth 32 = 0#32 else s.rS b = 0) then .next (s.faultA 0x1F 0)
  else .next (s.wS 20 d (alu w f (s.rS a) (s.rS b)))

/-- Counts zero bits of `x` from bit `i` up, at most `n` of them. -/
def zerosFrom (x : Nat) : Nat → Nat → Nat
  | 0, _ => 0
  | n + 1, i => if x.testBit i then 0 else 1 + zerosFrom x n (i + 1)

/-- Ones among the low `n` bits. -/
def onesIn (x : Nat) : Nat → Nat
  | 0 => 0
  | n + 1 => bit (x.testBit n) + onesIn x n

/-- The high half of a signed product. -/
def mulHigh (n : Nat) (x y : BitVec n) : BitVec n := BitVec.ofInt n (x.toInt * y.toInt / 2 ^ n)
/-- The high half of an unsigned product. -/
def mulHighU (n : Nat) (x y : BitVec n) : BitVec n := BitVec.ofNat n (x.toNat * y.toNat / 2 ^ n)

/-- The functions of the ALU table (07 R143); shift amounts are taken modulo the width. -/
def fShl (n : Nat) (x y : BitVec n) : BitVec n := x <<< (y.toNat % n)
def fShr (n : Nat) (x y : BitVec n) : BitVec n := x >>> (y.toNat % n)
def fSar (n : Nat) (x y : BitVec n) : BitVec n := x.sshiftRight (y.toNat % n)
def fRotl (n : Nat) (x y : BitVec n) : BitVec n := x.rotateLeft (y.toNat % n)

/-! ### Integer ALU (07 R143, R144) -/

def execAdd (d a b : SReg) (w : Bool) (s : State) : Out := s.alu1 d a b w (fun _ x y => x + y)
def execSub (d a b : SReg) (w : Bool) (s : State) : Out := s.alu1 d a b w (fun _ x y => x - y)
def execAnd (d a b : SReg) (w : Bool) (s : State) : Out := s.alu1 d a b w (fun _ x y => x &&& y)
def execOr (d a b : SReg) (w : Bool) (s : State) : Out := s.alu1 d a b w (fun _ x y => x ||| y)
def execXor (d a b : SReg) (w : Bool) (s : State) : Out := s.alu1 d a b w (fun _ x y => x ^^^ y)
def execAndn (d a b : SReg) (w : Bool) (s : State) : Out := s.alu1 d a b w (fun _ x y => x &&& ~~~y)
def execOrn (d a b : SReg) (w : Bool) (s : State) : Out := s.alu1 d a b w (fun _ x y => x ||| ~~~y)
def execShl (d a b : SReg) (w : Bool) (s : State) : Out := s.alu1 d a b w fShl
def execShr (d a b : SReg) (w : Bool) (s : State) : Out := s.alu1 d a b w fShr
def execSar (d a b : SReg) (w : Bool) (s : State) : Out := s.alu1 d a b w fSar
def execRotl (d a b : SReg) (w : Bool) (s : State) : Out := s.alu1 d a b w fRotl
def execMin (d a b : SReg) (w : Bool) (s : State) : Out := s.alu1 d a b w (fun _ x y => if y.slt x then y else x)
def execMax (d a b : SReg) (w : Bool) (s : State) : Out := s.alu1 d a b w (fun _ x y => if x.slt y then y else x)
def execMinu (d a b : SReg) (w : Bool) (s : State) : Out := s.alu1 d a b w (fun _ x y => if y.ult x then y else x)
def execMaxu (d a b : SReg) (w : Bool) (s : State) : Out := s.alu1 d a b w (fun _ x y => if x.ult y then y else x)
def execMul (d a b : SReg) (w : Bool) (s : State) : Out := s.alu3 d a b w (fun _ x y => x * y)
def execMulh (d a b : SReg) (w : Bool) (s : State) : Out := s.alu3 d a b w mulHigh
def execMulhu (d a b : SReg) (w : Bool) (s : State) : Out := s.alu3 d a b w mulHighU
def execDiv (d a b : SReg) (w : Bool) (s : State) : Out := s.aluDiv d a b w (fun _ x y => x.sdiv y)
def execDivu (d a b : SReg) (w : Bool) (s : State) : Out := s.aluDiv d a b w (fun _ x y => x / y)
def execRem (d a b : SReg) (w : Bool) (s : State) : Out := s.aluDiv d a b w (fun _ x y => x.srem y)
def execRemu (d a b : SReg) (w : Bool) (s : State) : Out := s.aluDiv d a b w (fun _ x y => x % y)
def execClz (d a : SReg) (w : Bool) (s : State) : Out :=
  s.alu1 d a 0 w (fun n x _ => BitVec.ofNat n (n - bitLen x.toNat))
def execCtz (d a : SReg) (w : Bool) (s : State) : Out :=
  s.alu1 d a 0 w (fun n x _ => BitVec.ofNat n (zerosFrom x.toNat n 0))
def execPopc (d a : SReg) (w : Bool) (s : State) : Out :=
  s.alu1 d a 0 w (fun n x _ => BitVec.ofNat n (onesIn x.toNat n))
def execSel (d a b : SReg) (p : PReg) (w : Bool) (s : State) : Out :=
  let t := s.rP p
  s.alu1 d a b w (fun _ x y => if t then x else y)

/-! ### Immediates and constants (07 R145) -/

/-- A one-cycle scalar result. -/
def State.imm1 (s : State) (d : SReg) (x : Word) : Out := .next (s.wS 1 d x)

def execAddi (d a : SReg) (i : BitVec 16) (s : State) : Out := s.imm1 d (s.rS a + i.signExtend 64)
def execAndi (d a : SReg) (i : BitVec 16) (s : State) : Out := s.imm1 d (s.rS a &&& i.setWidth 64)
def execOri (d a : SReg) (i : BitVec 16) (s : State) : Out := s.imm1 d (s.rS a ||| i.setWidth 64)
def execXori (d a : SReg) (i : BitVec 16) (s : State) : Out := s.imm1 d (s.rS a ^^^ i.setWidth 64)
def execShli (d a : SReg) (m : BitVec 6) (s : State) : Out := s.imm1 d (fShl 64 (s.rS a) (m.setWidth 64))
def execShri (d a : SReg) (m : BitVec 6) (s : State) : Out := s.imm1 d (fShr 64 (s.rS a) (m.setWidth 64))
def execSari (d a : SReg) (m : BitVec 6) (s : State) : Out := s.imm1 d (fSar 64 (s.rS a) (m.setWidth 64))
def execRotli (d a : SReg) (m : BitVec 6) (s : State) : Out := s.imm1 d (fRotl 64 (s.rS a) (m.setWidth 64))
def execLi (d : SReg) (i : BitVec 16) (s : State) : Out := s.imm1 d (i.signExtend 64)
def execLsh (d a : SReg) (i : BitVec 16) (s : State) : Out := s.imm1 d ((s.rS a <<< 16) ||| i.setWidth 64)

/-! ### Bit fields (07 R146): the fields hold len − 1 and pos -/

def execExt (d a : SReg) (l p : BitVec 6) (s : State) : Out :=
  s.imm1 d (BitVec.ofNat 64 (getF (s.rS a) p.toNat (l.toNat + 1)))
def execExtS (d a : SReg) (l p : BitVec 6) (s : State) : Out :=
  s.imm1 d (sext (getF (s.rS a) p.toNat (l.toNat + 1)) (l.toNat + 1))
def execIns (d a : SReg) (l p : BitVec 6) (s : State) : Out :=
  s.imm1 d (setF (s.rS d) p.toNat (l.toNat + 1) (s.rS a).toNat)

/-! ### Compares and predicates (07 R147 to R149) -/

/-- The condition of a compare (07 R147). -/
def condHolds (c : Cond) (x y : Word) : Bool :=
  match c with
  | .eq => x == y
  | .ne => x != y
  | .lt => x.slt y
  | .ltu => x.ult y
  | .le => x.sle y
  | .leu => x.ule y
  | .bs => getB x (y.toNat % 64)
  | .bc => !getB x (y.toNat % 64)

/-- A one-cycle predicate result. -/
def State.pred1 (s : State) (d : PReg) (x : Bool) : Out := .next (s.wP 1 d x)

def execCmp (pd : PReg) (c : Cond) (a b : SReg) (s : State) : Out := s.pred1 pd (condHolds c (s.rS a) (s.rS b))
def execCmpi (pd : PReg) (c : Cond) (a : SReg) (i : BitVec 15) (s : State) : Out :=
  s.pred1 pd (condHolds c (s.rS a) (i.signExtend 64))
def execPand (d a b : PReg) (s : State) : Out := s.pred1 d (s.rP a && s.rP b)
def execPor (d a b : PReg) (s : State) : Out := s.pred1 d (s.rP a || s.rP b)
def execPxor (d a b : PReg) (s : State) : Out := s.pred1 d (s.rP a != s.rP b)
def execPandn (d a b : PReg) (s : State) : Out := s.pred1 d (s.rP a && !s.rP b)
def execPnot (d a : PReg) (s : State) : Out := s.pred1 d (!s.rP a)

/-- The eight predicates as a byte, p0 in bit 0. -/
def State.predByte (s : State) : Nat :=
  bit (s.rP 0) + 2 * bit (s.rP 1) + 4 * bit (s.rP 2) + 8 * bit (s.rP 3) + 16 * bit (s.rP 4) + 32 * bit (s.rP 5)
    + 64 * bit (s.rP 6) + 128 * bit (s.rP 7)

def execRdp (d : SReg) (s : State) : Out := s.imm1 d (BitVec.ofNat 64 s.predByte)

def execWrp (a : SReg) (s : State) : Out :=
  let x := s.rS a
  .next (((((((s.wP 1 1 (getB x 1)).wP 1 2 (getB x 2)).wP 1 3 (getB x 3)).wP 1 4 (getB x 4)).wP 1 5
    (getB x 5)).wP 1 6 (getB x 6)).wP 1 7 (getB x 7))

end Sys2Proof.Machine
end

