-- ==== Sys2Proof/Machine/Slots.lean ====
section
/-! DEFINITION. A slot instruction by its meaning, the registers it reads and writes, and the conditions
that it puts on its bundle's issue (01 R20; 06 R120, R122; 10 R232, R241). -/

namespace Sys2Proof.Machine

/-- Runs a slot instruction of the bundle in issue. An event is no slot instruction and changes nothing. -/
def execSlot (i : Instr) (s : State) : Out :=
  match i with
  | .add x0 x1 x2 x3 => execAdd x0 x1 x2 x3 s
  | .sub x0 x1 x2 x3 => execSub x0 x1 x2 x3 s
  | .and x0 x1 x2 x3 => execAnd x0 x1 x2 x3 s
  | .or x0 x1 x2 x3 => execOr x0 x1 x2 x3 s
  | .xor x0 x1 x2 x3 => execXor x0 x1 x2 x3 s
  | .andn x0 x1 x2 x3 => execAndn x0 x1 x2 x3 s
  | .orn x0 x1 x2 x3 => execOrn x0 x1 x2 x3 s
  | .shl x0 x1 x2 x3 => execShl x0 x1 x2 x3 s
  | .shr x0 x1 x2 x3 => execShr x0 x1 x2 x3 s
  | .sar x0 x1 x2 x3 => execSar x0 x1 x2 x3 s
  | .rotl x0 x1 x2 x3 => execRotl x0 x1 x2 x3 s
  | .min x0 x1 x2 x3 => execMin x0 x1 x2 x3 s
  | .max x0 x1 x2 x3 => execMax x0 x1 x2 x3 s
  | .minu x0 x1 x2 x3 => execMinu x0 x1 x2 x3 s
  | .maxu x0 x1 x2 x3 => execMaxu x0 x1 x2 x3 s
  | .mul x0 x1 x2 x3 => execMul x0 x1 x2 x3 s
  | .mulh x0 x1 x2 x3 => execMulh x0 x1 x2 x3 s
  | .mulhu x0 x1 x2 x3 => execMulhu x0 x1 x2 x3 s
  | .div x0 x1 x2 x3 => execDiv x0 x1 x2 x3 s
  | .divu x0 x1 x2 x3 => execDivu x0 x1 x2 x3 s
  | .rem x0 x1 x2 x3 => execRem x0 x1 x2 x3 s
  | .remu x0 x1 x2 x3 => execRemu x0 x1 x2 x3 s
  | .clz x0 x1 x2 => execClz x0 x1 x2 s
  | .ctz x0 x1 x2 => execCtz x0 x1 x2 s
  | .popc x0 x1 x2 => execPopc x0 x1 x2 s
  | .sel x0 x1 x2 x3 x4 => execSel x0 x1 x2 x3 x4 s
  | .addi x0 x1 x2 => execAddi x0 x1 x2 s
  | .andi x0 x1 x2 => execAndi x0 x1 x2 s
  | .ori x0 x1 x2 => execOri x0 x1 x2 s
  | .xori x0 x1 x2 => execXori x0 x1 x2 s
  | .shli x0 x1 x2 => execShli x0 x1 x2 s
  | .shri x0 x1 x2 => execShri x0 x1 x2 s
  | .sari x0 x1 x2 => execSari x0 x1 x2 s
  | .rotli x0 x1 x2 => execRotli x0 x1 x2 s
  | .li x0 x1 => execLi x0 x1 s
  | .lsh x0 x1 x2 => execLsh x0 x1 x2 s
  | .ext x0 x1 x2 x3 => execExt x0 x1 x2 x3 s
  | .extS x0 x1 x2 x3 => execExtS x0 x1 x2 x3 s
  | .ins x0 x1 x2 x3 => execIns x0 x1 x2 x3 s
  | .cmp x0 x1 x2 x3 => execCmp x0 x1 x2 x3 s
  | .cmpi x0 x1 x2 x3 => execCmpi x0 x1 x2 x3 s
  | .pand x0 x1 x2 => execPand x0 x1 x2 s
  | .por x0 x1 x2 => execPor x0 x1 x2 s
  | .pxor x0 x1 x2 => execPxor x0 x1 x2 s
  | .pandn x0 x1 x2 => execPandn x0 x1 x2 s
  | .pnot x0 x1 => execPnot x0 x1 s
  | .rdp x0 => execRdp x0 s
  | .wrp x0 => execWrp x0 s
  | .br x0 x1 x2 => execBr x0 x1 x2 s
  | .call x0 x1 x2 => execCall x0 x1 x2 s
  | .jr x0 => execJr x0 s
  | .callr x0 => execCallr x0 s
  | .lpush x0 x1 x2 => execLpush x0 x1 x2 s
  | .lbrk x0 => execLbrk x0 s
  | .lidx x0 x1 => execLidx x0 x1 s
  | .exit => execExit s
  | .pause x0 => execPause x0 s
  | .trap x0 => execTrap x0 s
  | .rett => execRett s
  | .brk x0 => execBrk x0 s
  | .rdsr x0 x1 => execRdsr x0 x1 s
  | .wrsr x0 x1 => execWrsr x0 x1 s
  | .rdtime x0 => execRdtime x0 s
  | .mscal x0 x1 x2 => execMscal x0 x1 x2 s
  | .msdefer x0 x1 => execMsdefer x0 x1 s
  | .ddsync => execDdsync s
  | .lnch x0 x1 x2 => execLnch x0 x1 x2 s
  | .rlnch x0 x1 x2 => execRlnch x0 x1 x2 s
  | .ldB x0 x1 x2 => execLdB x0 x1 x2 s
  | .ldH x0 x1 x2 => execLdH x0 x1 x2 s
  | .ldW x0 x1 x2 => execLdW x0 x1 x2 s
  | .ldD x0 x1 x2 => execLdD x0 x1 x2 s
  | .ldBu x0 x1 x2 => execLdBu x0 x1 x2 s
  | .ldHu x0 x1 x2 => execLdHu x0 x1 x2 s
  | .ldWu x0 x1 x2 => execLdWu x0 x1 x2 s
  | .stB x0 x1 x2 => execStB x0 x1 x2 s
  | .stH x0 x1 x2 => execStH x0 x1 x2 s
  | .stW x0 x1 x2 => execStW x0 x1 x2 s
  | .stD x0 x1 x2 => execStD x0 x1 x2 s
  | .ldAcq x0 x1 x2 x3 x4 => execLdAcq x0 x1 x2 x3 x4 s
  | .stRel x0 x1 x2 x3 x4 => execStRel x0 x1 x2 x3 x4 s
  | .amo x0 x1 x2 x3 x4 x5 x6 x7 => execAmo x0 x1 x2 x3 x4 x5 x6 x7 s
  | .cas x0 x1 x2 x3 x4 x5 x6 => execCas x0 x1 x2 x3 x4 x5 x6 s
  | .fence x0 x1 => execFence x0 x1 s
  | .l1inv x0 x1 => execL1inv x0 x1 s
  | .l1inva => execL1inva s
  | .probe x0 x1 x2 => execProbe x0 x1 x2 s
  | .rdwp x0 x1 => execRdwp x0 x1 s
  | .vadd x0 x1 x2 x3 x4 x5 => execVadd x0 x1 x2 x3 x4 x5 s
  | .vsub x0 x1 x2 x3 x4 x5 => execVsub x0 x1 x2 x3 x4 x5 s
  | .vmul x0 x1 x2 x3 x4 => execVmul x0 x1 x2 x3 x4 s
  | .vfma x0 x1 x2 x3 x4 => execVfma x0 x1 x2 x3 x4 s
  | .vfms x0 x1 x2 x3 x4 => execVfms x0 x1 x2 x3 x4 s
  | .vfnma x0 x1 x2 x3 x4 => execVfnma x0 x1 x2 x3 x4 s
  | .vmax x0 x1 x2 x3 x4 x5 => execVmax x0 x1 x2 x3 x4 x5 s
  | .vmin x0 x1 x2 x3 x4 x5 => execVmin x0 x1 x2 x3 x4 x5 s
  | .vabs x0 x1 x2 x3 => execVabs x0 x1 x2 x3 s
  | .vneg x0 x1 x2 x3 => execVneg x0 x1 x2 x3 s
  | .vexp2 x0 x1 x2 x3 => execVexp2 x0 x1 x2 x3 s
  | .vlog2 x0 x1 x2 x3 => execVlog2 x0 x1 x2 x3 s
  | .vrcp x0 x1 x2 x3 => execVrcp x0 x1 x2 x3 s
  | .vrsqrt x0 x1 x2 x3 => execVrsqrt x0 x1 x2 x3 s
  | .vsqrt x0 x1 x2 x3 => execVsqrt x0 x1 x2 x3 s
  | .vdiv x0 x1 x2 x3 x4 => execVdiv x0 x1 x2 x3 x4 s
  | .vand x0 x1 x2 x3 x4 => execVand x0 x1 x2 x3 x4 s
  | .vor x0 x1 x2 x3 x4 => execVor x0 x1 x2 x3 x4 s
  | .vxor x0 x1 x2 x3 x4 => execVxor x0 x1 x2 x3 x4 s
  | .vnot x0 x1 x2 x3 => execVnot x0 x1 x2 x3 s
  | .vshl x0 x1 x2 x3 x4 => execVshl x0 x1 x2 x3 x4 s
  | .vshli x0 x1 x2 x3 x4 => execVshli x0 x1 x2 x3 x4 s
  | .vshr x0 x1 x2 x3 x4 => execVshr x0 x1 x2 x3 x4 s
  | .vshri x0 x1 x2 x3 x4 => execVshri x0 x1 x2 x3 x4 s
  | .vsar x0 x1 x2 x3 x4 => execVsar x0 x1 x2 x3 x4 s
  | .vsari x0 x1 x2 x3 x4 => execVsari x0 x1 x2 x3 x4 s
  | .vrelu x0 x1 x2 x3 => execVrelu x0 x1 x2 x3 s
  | .vreluBwd x0 x1 x2 x3 x4 => execVreluBwd x0 x1 x2 x3 x4 s
  | .vcmp x0 x1 x2 x3 x4 x5 x6 => execVcmp x0 x1 x2 x3 x4 x5 x6 s
  | .vsel x0 x1 x2 x3 x4 => execVsel x0 x1 x2 x3 x4 s
  | .vcvt x0 x1 x2 x3 x4 x5 => execVcvt x0 x1 x2 x3 x4 x5 s
  | .vround x0 x1 x2 x3 x4 => execVround x0 x1 x2 x3 x4 s
  | .vbcast x0 x1 x2 x3 => execVbcast x0 x1 x2 x3 s
  | .vmovs x0 x1 x2 x3 x4 => execVmovs x0 x1 x2 x3 x4 s
  | .viota x0 x1 x2 x3 => execViota x0 x1 x2 x3 s
  | .vmovv x0 x1 x2 x3 => execVmovv x0 x1 x2 x3 s
  | .vperm x0 x1 x2 x3 x4 => execVperm x0 x1 x2 x3 x4 s
  | .vslide x0 x1 x2 x3 x4 x5 => execVslide x0 x1 x2 x3 x4 x5 s
  | .vred x0 x1 x2 x3 => execVred x0 x1 x2 x3 s
  | .vclass x0 x1 x2 x3 => execVclass x0 x1 x2 x3 s
  | .vqnt x0 x1 x2 => execVqnt x0 x1 x2 s
  | .vdeq x0 x1 x2 => execVdeq x0 x1 x2 s
  | .qand x0 x1 x2 => execQand x0 x1 x2 s
  | .qor x0 x1 x2 => execQor x0 x1 x2 s
  | .qxor x0 x1 x2 => execQxor x0 x1 x2 s
  | .qandn x0 x1 x2 => execQandn x0 x1 x2 s
  | .qnot x0 x1 => execQnot x0 x1 s
  | .qmov x0 x1 => execQmov x0 x1 s
  | .xpush x0 => execXpush x0 s
  | .xpop x0 => execXpop x0 s
  | .xst x0 x1 => execXst x0 x1 s
  | .xclr => execXclr s
  | .xwid x0 => execXwid x0 s
  | .mma x0 x1 x2 x3 x4 x5 x6 x7 x8 => execMma x0 x1 x2 x3 x4 x5 x6 x7 x8 s
  | .mzero x0 => execMzero x0 s
  | .mrd x0 x1 x2 => execMrd x0 x1 x2 s
  | .mwr x0 x1 x2 => execMwr x0 x1 x2 s
  | .mst x0 x1 x2 x3 => execMst x0 x1 x2 x3 s
  | .mwait x0 => execMwait x0 s
  | .mld x0 x1 x2 x3 => execMld x0 x1 x2 x3 s
  | .kld x0 x1 x2 x3 => execKld x0 x1 x2 x3 s
  | .kband x0 x1 => execKband x0 x1 s
  | .kclr x0 => execKclr x0 s
  | .vld x0 x1 x2 x3 => execVld x0 x1 x2 x3 s
  | .vst x0 x1 x2 x3 => execVst x0 x1 x2 x3 s
  | .vlds x0 x1 x2 x3 => execVlds x0 x1 x2 x3 s
  | .vsts x0 x1 x2 x3 => execVsts x0 x1 x2 x3 s
  | .vgth x0 x1 x2 x3 => execVgth x0 x1 x2 x3 s
  | .vsct x0 x1 x2 x3 => execVsct x0 x1 x2 x3 s
  | .vldh x0 x1 x2 x3 => execVldh x0 x1 x2 x3 s
  | .vsth x0 x1 x2 x3 => execVsth x0 x1 x2 x3 s
  | .kst x0 x1 x2 x3 x4 => execKst x0 x1 x2 x3 x4 s
  | .vrelub x0 x1 x2 x3 => execVrelub x0 x1 x2 x3 s
  | .vmaxpb x0 x1 x2 x3 x4 => execVmaxpb x0 x1 x2 x3 x4 s
  | .vldk x0 x1 x2 => execVldk x0 x1 x2 s
  | .vdeqk x0 x1 x2 => execVdeqk x0 x1 x2 s
  | .cbwait x0 x1 => execCbwait x0 x1 s
  | .cbwaitProbe x0 => execCbwaitProbe x0 s
  | .cbfree x0 x1 => execCbfree x0 x1 s
  | .cbadvc x0 x1 => execCbadvc x0 x1 s
  | .cbadvp x0 x1 => execCbadvp x0 x1 s
  | .cbstat x0 x1 => execCbstat x0 x1 s
  | .qfence x0 x1 x2 x3 => execQfence x0 x1 x2 x3 s
  | .bar => execBar s
  | .cred x0 x1 x2 x3 => execCred x0 x1 x2 x3 s
  | .wpwait x0 x1 => execWpwait x0 x1 s
  | _ => .next s

/-! ### Registers read and named as destinations -/

/-- A lane mask that is read. -/
def maskReads (q : QReg) : List RegId := if q = 0 then [] else [.q q]
/-- A destination that keeps its masked lanes. -/
def keepReads (d : VReg) (q : QReg) : List RegId := if q = 0 then [] else [.v d, .q q]

/-- The registers that an instruction reads (01 R20). -/
def instrReads (i : Instr) : List RegId :=
  match i with
  | .add _ a b _ | .sub _ a b _ | .and _ a b _ | .or _ a b _ | .xor _ a b _ | .andn _ a b _ | .orn _ a b _
  | .shl _ a b _ | .shr _ a b _ | .sar _ a b _ | .rotl _ a b _ | .min _ a b _ | .max _ a b _ | .minu _ a b _
  | .maxu _ a b _ | .mul _ a b _ | .mulh _ a b _ | .mulhu _ a b _ | .div _ a b _ | .divu _ a b _ | .rem _ a b _
  | .remu _ a b _ | .cmp _ _ a b | .lnch _ a b | .rlnch _ a b | .l1inv a b | .amo _ a b _ _ _ _ _ => [.s a, .s b]
  | .sel _ a b p _ => [.s a, .s b, .p p]
  | .clz _ a _ | .ctz _ a _ | .popc _ a _ | .addi _ a _ | .andi _ a _ | .ori _ a _ | .xori _ a _ | .shli _ a _
  | .shri _ a _ | .sari _ a _ | .rotli _ a _ | .lsh _ a _ | .ext _ a _ _ | .extS _ a _ _ | .cmpi _ _ a _ | .wrp a
  | .jr a | .callr a | .lpush _ a _ | .wrsr a _ | .mscal _ a _ | .msdefer _ a | .ldB _ a _ | .ldH _ a _ | .ldW _ a _
  | .ldD _ a _ | .ldBu _ a _ | .ldHu _ a _ | .ldWu _ a _ | .ldAcq _ a _ _ _ | .probe _ a _ => [.s a]
  | .ins d a _ _ | .stB d a _ | .stH d a _ | .stW d a _ | .stD d a _ | .stRel d a _ _ _ => [.s d, .s a]
  | .cas d a b _ _ _ _ => [.s d, .s a, .s b]
  | .pand _ a b | .por _ a b | .pxor _ a b | .pandn _ a b => [.p a, .p b]
  | .pnot _ a | .br a _ _ | .call a _ _ => [.p a]
  | .rdp _ => (range 1 7).map (fun n => .p (BitVec.ofNat 3 n))
  | .vadd _ d a b q _ | .vsub _ d a b q _ | .vmul _ d a b q | .vmax _ d a b q _ | .vmin _ d a b q _
  | .vdiv _ d a b q | .vand _ d a b q | .vor _ d a b q | .vxor _ d a b q | .vshl _ d a b q | .vshr _ d a b q
  | .vsar _ d a b q | .vreluBwd _ d a b q | .vperm _ d a b q => [.v a, .v b] ++ keepReads d q
  | .vfma _ d a b q | .vfms _ d a b q | .vfnma _ d a b q => [.v a, .v b, .v d] ++ maskReads q
  | .vabs _ d a q | .vneg _ d a q | .vexp2 _ d a q | .vlog2 _ d a q | .vrcp _ d a q | .vrsqrt _ d a q
  | .vsqrt _ d a q | .vnot _ d a q | .vshli _ d a _ q | .vshri _ d a _ q | .vsari _ d a _ q | .vrelu _ d a q
  | .vround _ d a q _ | .vmovv _ d a q | .vclass _ d a q => .v a :: keepReads d q
  | .vcvt f d a q _ src => .v a :: (if f.width < src.width then .v d :: maskReads q else keepReads d q)
  | .vcmp _ d a b q _ _ => [.v a, .v b] ++ (if q = 0 then [] else [.q d, .q q])
  | .vsel _ _ a b q => [.v a, .v b] ++ maskReads q
  | .vbcast _ d a q | .viota _ d a q => .s a :: keepReads d q
  | .vmovs _ _ a _ _ | .vred _ _ a _ | .vqnt _ a _ | .vdeq _ a _ => [.v a]
  | .vslide _ d a b q _ => [.v a, .s b] ++ keepReads d q
  | .qand _ a b | .qor _ a b | .qxor _ a b | .qandn _ a b => [.q a, .q b]
  | .qnot _ a | .qmov _ a => [.q a]
  | .xpush v => [.v v]
  | .xst a _ => [.s a]
  | .mma _ _ _ a b _ _ _ _ => [.s a, .s b]
  | .mrd _ _ r => [.s r]
  | .mwr _ v r => [.v v, .s r]
  | .mst _ _ a _ | .mld _ _ a _ | .kld _ a _ _ | .kband _ a => [.s a]
  | .vld v a q _ => .s a :: keepReads v q
  | .vst v a q _ => [.v v, .s a] ++ maskReads q
  | .vlds v a q t => [.s a, .s t] ++ keepReads v q
  | .vsts v a q t => [.v v, .s a, .s t] ++ maskReads q
  | .vgth v a q x => [.s a, .v x] ++ keepReads v q
  | .vsct v a q x => [.v v, .s a, .v x] ++ maskReads q
  | .vldh v _ q _ => keepReads v q
  | .vsth v _ q _ => .v v :: maskReads q
  | .kst v a t _ _ => [.v v, .s a, .s t]
  | .vrelub _ g a _ | .vmaxpb _ g a _ _ => [.v g, .s a]
  | .vldk _ a _ | .vdeqk _ a _ | .cbwaitProbe a | .cred _ a _ _ | .wpwait _ a => [.s a]
  | _ => []

/-- The registers that an instruction names as destinations (06 R120 step 5); s31 for the links, p1 to p7
for `wrp` (07 R149). -/
def instrDests (i : Instr) : List RegId :=
  match i with
  | .add d .. | .sub d .. | .and d .. | .or d .. | .xor d .. | .andn d .. | .orn d .. | .shl d .. | .shr d ..
  | .sar d .. | .rotl d .. | .min d .. | .max d .. | .minu d .. | .maxu d .. | .mul d .. | .mulh d .. | .mulhu d ..
  | .div d .. | .divu d .. | .rem d .. | .remu d .. | .clz d .. | .ctz d .. | .popc d .. | .sel d .. | .addi d ..
  | .andi d .. | .ori d .. | .xori d .. | .shli d .. | .shri d .. | .sari d .. | .rotli d .. | .li d .. | .lsh d ..
  | .ext d .. | .extS d .. | .ins d .. | .rdp d | .lidx _ d | .rdsr d _ | .rdtime d | .mscal d .. | .msdefer d ..
  | .lnch d .. | .rlnch d .. | .ldB d .. | .ldH d .. | .ldW d .. | .ldD d .. | .ldBu d .. | .ldHu d .. | .ldWu d ..
  | .ldAcq d .. | .amo d .. | .cas d .. | .probe d .. | .rdwp d _ | .vmovs _ d .. | .cbstat _ d => [.s d]
  | .call .. | .callr _ => [.s 31]
  | .cmp d .. | .cmpi d .. | .pand d .. | .por d .. | .pxor d .. | .pandn d .. | .pnot d _ => [.p d]
  | .wrp _ => (range 1 7).map (fun n => .p (BitVec.ofNat 3 n))
  | .vadd _ d .. | .vsub _ d .. | .vmul _ d .. | .vfma _ d .. | .vfms _ d .. | .vfnma _ d .. | .vmax _ d ..
  | .vmin _ d .. | .vabs _ d .. | .vneg _ d .. | .vexp2 _ d .. | .vlog2 _ d .. | .vrcp _ d .. | .vrsqrt _ d ..
  | .vsqrt _ d .. | .vdiv _ d .. | .vand _ d .. | .vor _ d .. | .vxor _ d .. | .vnot _ d .. | .vshl _ d ..
  | .vshli _ d .. | .vshr _ d .. | .vshri _ d .. | .vsar _ d .. | .vsari _ d .. | .vrelu _ d .. | .vreluBwd _ d ..
  | .vsel _ d .. | .vcvt _ d .. | .vround _ d .. | .vbcast _ d .. | .viota _ d .. | .vmovv _ d .. | .vperm _ d ..
  | .vslide _ d .. | .vred _ d .. | .vclass _ d .. | .vqnt d .. | .vdeq d .. | .xpop d | .mrd _ d _ | .vld d ..
  | .vlds d .. | .vgth d .. | .vldh d .. | .vrelub d .. | .vmaxpb d .. | .vldk d .. | .vdeqk d .. => [.v d]
  | .vcmp _ d .. | .qand d .. | .qor d .. | .qxor d .. | .qandn d .. | .qnot d _ | .qmov d _ => [.q d]
  | _ => []

/-- Whether a destination counts: s0 and p0 do not (06 R120). -/
def RegId.counts : RegId → Bool
  | .s n => n != 0
  | .p n => n != 0
  | _ => true

/-! ### Entries of the gated-store buffer (10 R232, 14 R270; log 22) -/

/-- Whether an address is a store's to memory, an engine register, an aperture: not the window's. -/
def takesEntry (a : Word) : Bool := match regionOf a with | .window _ _ | .undeclared => false | _ => true

/-- The entries that an instruction's stores need. -/
def instrEntries (i : Instr) (s : State) : Nat :=
  let lines (q : QMask) (at_ : Nat → Word) : List Nat :=
    (((range 0 8).filter (fun c => lineMask q c != 0)).map at_).filterMap
      (fun a => if takesEntry a then some (a.toNat / 64) else none)
  match i with
  | .stB _ a o | .stH _ a o | .stW _ a o | .stD _ a o => bit (takesEntry (s.addr a o))
  | .stRel _ a _ _ o => bit (takesEntry (s.addr a o))
  | .vst _ a q o => bit (!(lines (s.rQ q) (chunkAt (s.lineAddr a o))).isEmpty)
  | .xst a o => bit (!(lines (BitVec.allOnes 128) (chunkAt (s.rS a + o.signExtend 64 * 64))).isEmpty)
  | .vsts _ a q t => distinct (lines (s.rQ q) (strideAt (s.rS a) (s.rS t)))
  | .vsct _ a q x => distinct ((lanesOf (s.rQ q)).filterMap (fun j =>
      let e := laneAddr (s.rS a) (s.rV x) j
      if takesEntry e then some (e.toNat / 64) else none))
  | .kst _ a t c f =>
    let w := s.rS t
    if takesEntry (s.rS a) then 1 + (payloadLen (keptForm c) (kfmtFmt f).count (getF w 16 7) + 63) / 64 else 0
  | _ => 0

/-! ### Conditions at issue (01 R20) -/

/-- What an instruction's issue-time condition asks of its bundle. -/
inductive Wait
  | none
  /-- The bundle waits. -/
  | stall
  /-- The bundle waits on a resource that R241 names: the region closes. -/
  | close
  /-- The bundle waits at its barrier, which it has reached (10 R255). -/
  | barrier
  /-- The bundle faults: beside those of the open region the gated-store buffer has no room for its entries (10 R232). -/
  | overfull
  deriving DecidableEq, Repr

/-- A condition that closes the region while it does not hold. -/
def closeUnless (b : Bool) : Wait := if b then .none else .close

/-- Whether a register is readable: written, also by an `mrd` that the M queue still holds. -/
def State.regReady (s : State) (r : RegId) : Bool :=
  s.readable r && (match r with
    | .v n => !s.ctx.mq.any (fun o => o.kind == .mrd && o.addrA == n.setWidth 64)
    | _ => true)

/-- The condition that an M word puts on its bundle. -/
def Ctx.mWait (c : Ctx) (t : BitVec 3) : Wait := if c.mFull then .close else if c.tileBusy t then .stall else .none

/-- The issue-time condition of an instruction besides its operands. -/
def instrWait (i : Instr) (s : State) : Wait :=
  let c := s.ctx
  match i with
  | .rdsr _ r => if r = 0x8 ∧ s.flagsPending then .stall else .none
  | .stD _ a o => match regionOf (s.addr a o) with
    | .transfer off => closeUnless (decide (c.chanLoad (off / 8) < 16))
    | _ => .none
  | .probe _ a _ =>
    closeUnless (c.probeSlots == 0 || (c.probeHit (getF (s.rS a) 12 45)).isSome || (s.probeVictim s.cur).isNone
      || decide (c.chanLoad 15 < 16))
  | .vldh _ h _ _ => let d := c.handle h.toNat
    closeUnless (!c.handleOk h.toNat || hState d (hCP d) == 2)
  | .vsth _ h _ _ => let d := c.handle h.toNat
    closeUnless (!c.handleOk h.toNat || decide (hState d (hPP d) ≤ 1))
  | .mma _ _ t _ _ _ _ _ _ | .mzero t | .mrd t _ _ | .mwr t _ _ | .mst _ t _ _ | .mld _ t _ _ => c.mWait t
  | .mwait t => if c.clearsNow t s.ptime then .stall else c.mWait t
  | .cbwait h n => closeUnless (!c.handleOk h.toNat || c.slotsFull h n)
  | .cbwaitProbe a => closeUnless (c.probeFull (s.rS a))
  | .cbfree h n => closeUnless (!c.handleOk h.toNat || c.slotsFree h n)
  | .cred h _ _ _ => closeUnless (!c.credWaits h)
  | .wpwait n a => closeUnless (decide ((s.rS a).toNat ≤ (c.wp n.toNat).toNat))
  | .bar => if c.gangSize = 0 ∨ s.barReached s.cur then .none else .barrier
  | _ => .none

end Sys2Proof.Machine
end

