-- ==== Sys2Proof/Machine/Bundle.lean ====
section
/-! DEFINITION. A bundle of the context in issue: fetch, checks at decode, conditions at issue, the slots left
to right, what follows the last slot; the issue stage's choice of contexts (01 R16 to R30; 06 R116 to R122;
07 R150 to R158; 09 R212; 10 R232, R241; 14 R264 to R270; 19 R341 to R343). -/

namespace Sys2Proof.Machine

/-! ### Faults of a whole bundle -/

/-- A class A fault before a slot commits; SLOTRES is the first slot that has not committed (07 R161). -/
def State.faultBundle (s : State) (code : Nat) (tval : Word) : State :=
  (s.takeTrap s.cur code 0 tval s.issue.pc s.ctx.slot 0).halted

/-- A class A fault of the whole bundle: of its fetch, or of the checks at decode (06 R121, 07 R153). -/
def State.faultWhole (s : State) (code : Nat) (tval : Word) : State :=
  (s.takeTrap s.cur code 0 tval s.issue.pc 0 0).halted

/-- Delivers the held M operation's fault in class C (09 R212). -/
def State.deliverHeld (s : State) : State :=
  match s.ctx.heldOp.bind (fun o => o.held) with
  | some (code, tval) => (s.takeTrap s.cur code 2 tval s.issue.pc 0 0).halted
  | none => s

/-! ### Checks at decode (06 R120, R121) -/


/-- Instructions that make a bundle a transfer bundle, besides `probe` (07 R150). -/
def isJump (i : Instr) : Bool := match i with | .br .. | .call .. | .jr _ | .callr _ => true | _ => false
def isProbe (i : Instr) : Bool := match i with | .probe .. => true | _ => false
/-- Instructions of the M slot. -/
def isM (i : Instr) : Bool :=
  match i with | .mma .. | .mzero _ | .mrd .. | .mwr .. | .mst .. | .mwait _ | .mld .. => true | _ => false
def isExit (i : Instr) : Bool := match i with | .exit => true | _ => false
/-- Instructions that no delay bundle may hold (07 R150). -/
def noDelay (i : Instr) : Bool :=
  isJump i || isProbe i || isExit i || (match i with | .lpush .. | .lbrk _ | .rett => true | _ => false)

/-- Values that an instruction's entry forbids and that depend on its bundle or the block (10 R253, R256; 07 R162;
10 R237). -/
def State.wordBad (s : State) (i : Instr) (alone : Bool) (before : List SlotOp) : Bool :=
  match i with
  | .cbwait h n | .cbfree h n | .cbadvc h n | .cbadvp h n => !s.ctx.countOk h n
  | .cbwaitProbe _ => s.ctx.probeSlots == 0
  | .cred _ _ _ op => decide (5 ≤ op.toNat)
  | .rett => !alone
  | .probe .. => before.any (fun o => isJump o.op)
  | _ => false

/-- Decodes the slot words in order: the slots, or the code, slot and word of the first failure. -/
def State.decodeWords (s : State) (alone : Bool) :
    List (Nat × SlotWord) → List SlotOp → Except (Nat × Nat × SlotWord) (List SlotOp)
  | [], acc => .ok acc
  | (k, w) :: t, acc => match decodeSlot (Slot.ofIndex k) w with
    | .error e => .error (e.code, k, w)
    | .ok i => if s.wordBad i alone acc then .error (0x03, k, w)
               else s.decodeWords alone t (acc ++ [{ slot := k, word := w, op := i }])

/-- The first slot that names a counted destination of an earlier slot. -/
def twice : List SlotOp → List RegId → Option (Nat × SlotWord)
  | [], _ => none
  | o :: t, seen =>
    let ds := (instrDests o.op).filter RegId.counts
    if ds.any (fun d => seen.contains d) then some (o.slot, o.word) else twice t (ds ++ seen)

/-- Steps 4 and 5 of the checks. -/
def State.decodeBundle (s : State) (b : Bundle) : Except (Nat × Nat × SlotWord) (List SlotOp) :=
  match s.decodeWords (decide (b.words.length = 1)) b.words [] with
  | .error e => .error e
  | .ok ops => match twice ops [] with
    | some (k, w) => .error (0x03, k, w)
    | none => .ok ops

/-! ### Conditions at issue (01 R17, R20; 10 R232, R241; 14 R264) -/

/-- Whether a register is readable or stands in the resume shadow. -/
def State.operandReady (s : State) (r : RegId) : Bool :=
  let z := s.ctx.resume
  s.regReady r || (match r with
    | .s n => (savedOf z.s n).isSome
    | .p n => (savedOf z.p n).isSome
    | .v n => (savedOf z.v n).isSome
    | .q n => (savedOf z.q n).isSome)

/-- The stronger of two waits: a plain wait holds before a barrier, a close before it. -/
def Wait.join : Wait → Wait → Wait
  | .overfull, _ | _, .overfull => .overfull
  | .close, _ | _, .close => .close
  | .stall, _ | _, .stall => .stall
  | .barrier, _ | _, .barrier => .barrier
  | .none, .none => .none

/-- What the slots that have not committed ask of the bundle. -/
def State.bundleWait (s : State) (ops : List SlotOp) : Wait :=
  if !ops.all (fun o => (instrReads o.op).all s.operandReady) then .stall
  else if s.pkg.hold && s.ptime % 8 == 0 && ops.any (fun o => isM o.op) then .stall
  else ops.foldl (fun w o => w.join (instrWait o.op s)) .none

/-- Cycles from the issue before to this bundle's (14 R264). -/
def fetchCycles (b : Bundle) : Nat := if b.db then 1 else Nat.max 1 ((b.len + 3) / 4)

/-- Whether the last bundle of a context holds the issue stage: a post-issue condition has not cleared (01 R20). -/
def Ctx.holdsIssue (c : Ctx) : Bool := c.stall.isSome || c.posted

/-- Whether the context may attempt a bundle in this cycle. A bundle merged with one that holds the issue stage keeps its
context too (01 R21). -/
def State.mayAttempt (s : State) (i : Nat) : Bool :=
  let c := s.ctxAt i
  let p := s.ctxAt (partner i)
  c.status == .running && !c.halted && c.block.isSome && !c.holdsIssue && !c.ddsync && c.walkReq.isNone
    && !(c.atBound && c.preempt == .checkpoint) && !(c.halt && !c.step && c.slot == 0)
    && (match c.issuedAt with | some t => decide (t < s.ptime) | none => true)
    && !(p.holdsIssue && c.issuedAt.isSome && c.issuedAt == p.issuedAt)

/-- Whether the bundle in issue of a context goes on: what it waited for has cleared. -/
def State.mayResume (s : State) (i : Nat) : Bool :=
  let c := s.ctxAt i
  c.posted && c.status == .running && c.block.isSome && c.walkReq.isNone && s.holdOver i

/-! ### The slots (01 R19) -/

/-- Runs the slots in order until one stops the bundle. -/
def State.runSlots (s : State) : List SlotOp → Out
  | [] => .next s
  | o :: t =>
    match execSlot o.op (s.modIssue (fun k => { k with slot := o.slot, word := o.word })) with
    | .next s' => if s'.issue.stop = .go then s'.runSlots t else .next s'
    | x => x

/-! ### After the last slot -/

/-- The end step of R155 for a bundle at `e`, the innermost level first: the levels, where the body restarts. -/
def endStep (e : Word) : List LoopLevel → List LoopLevel × Option Word
  | [] => ([], none)
  | l :: t =>
    if l.stop ≠ e then (l :: t, none)
    else
      let l' := { l with count := l.count - 1, index := l.index + 1 }
      if l'.count ≠ 0 ∧ !l.brk then (l' :: t, some l.start) else endStep e t

/-- The pc and the delay state after a bundle (07 R150 to R152). The transfer of a `probe` comes before the skip of a `lpush`
whose count is 0 (log 63). -/
def Ctx.advance (c : Ctx) (k : Issue) : Ctx :=
  match k.transfer, c.delay with
  | true, _ => { c with pc := k.next }
  | false, some d =>
    if d.left ≤ 1 then { c with pc := if d.taken then d.target else k.next, delay := none }
    else { c with pc := k.next, delay := some { d with left := d.left - 1 } }
  | false, none => { c with pc := match c.resume.skip with | some a => a | none => k.next }

/-- Applies the end step. -/
def Ctx.stepLoops (c : Ctx) (e : Word) : Ctx :=
  let r := endStep e c.loops
  { c with loops := r.1, pc := match r.2 with | some a => a | none => c.pc }

/-- Whether a bundle is a pre-emptible iteration boundary: the end of the innermost level, whose kind is set
(01 R28). -/
def Ctx.boundary (c : Ctx) (e : Word) : Bool :=
  match c.loops with | l :: _ => l.stop == e && l.kind | [] => false

/-- The arbiter at a boundary outside normal service; whether it acts is open (01 R27, 18 R306; log 6). -/
def State.boundaryPoint (s : State) : State :=
  let s := { s with free := s.free + 1 }
  if (s.partAt s.ctx.part).mode ≠ 0 ∧ getB (Config.freeWord s.free) 0 then s.yieldPoint s.cur else s

/-- A stepped context halts again (19 R343). With SQ = 1 a step whose bundle has committed, `done`, is a restart point; one
that met a fault instead has its rollback or its handler's entry behind it. -/
def State.stepDone (s : State) (done : Bool) : State :=
  if !s.ctx.step then
    (if s.ctx.halt then s.modCtx (fun c => { c with halted := true, reason := 0 }) else s)
  else
    let s := if s.ctx.sq && done then s.restart s.cur s.ctx.pc s.ctx.slot s.ctx.resume else s
    s.modCtx (fun c => { c with halted := true, step := c.sq, reason := 1 })

/-- The context's fields at the end of a bundle whose slots have all committed. -/
def Ctx.closeBundle (c : Ctx) (te : Bool) : Ctx :=
  { c with slot := 0, resume := .none, reentered := false, walked := [], posted := false, hold := none, closed := false,
           inIssue := none, numbered := if te || c.te then false else c.numbered }

/-- A prefetch that failed on a path that has been left counts anew (07 R153). -/
def Ctx.newPath (c : Ctx) (next : Word) : Ctx := if c.pc = next then c else { c with dropAt := none }

/-- The bundle ends: the pc moves, loops step, K writes land, a marked or boundary bundle is a restart point, a `ddsync`
holds the context's later bundles (06 R133), `exit` closes the region and drains. -/
def State.finishBundle (s : State) (te : Bool) : State :=
  let e := s.issue.pc
  let n := s.ctx.bnum
  let s := if te then s.landK s.cur n else s
  if s.ctx.resume.exiting then
    let s := s.modCtx (fun c => { c.closeBundle te with status := .exiting, pc := e })
    s.release s.cur
  else
    let bound := s.ctx.boundary e
    let marked := s.ctx.resume.marked
    let sync := s.ctx.resume.sync
    let s := s.modCtx (fun c => (((c.advance s.issue).stepLoops e).closeBundle te).newPath s.issue.next)
    let s := if marked || bound then s.restart s.cur s.ctx.pc 0 .none else s
    let s := if sync then s.modCtx (fun c => { c with ddsync := true }) else s
    if bound then (s.modCtx (fun c => { c with atBound := true })).boundaryPoint else s

/-! ### Issue -/

/-- The bundle takes its number, unless it has one or issued with TE = 0 (08 R197). -/
def Ctx.number (c : Ctx) : Ctx := if c.ite && !c.numbered then { c with bnum := c.bnum + 1, numbered := true } else c

/-- The bundle in issue goes on: the wait of its access is over and counted (01 R21). A bundle that has not issued takes
the privilege and TE that it issues with. -/
def Ctx.goesOn (c : Ctx) (now : Nat) : Ctx :=
  let c := if c.posted then { c.countLat now with hold := c.hold.map (fun h => { h with waits := false }) } else c
  if c.inIssue.isSome then c else { c with iuser := c.user, ite := c.te }

/-- A yield bundle: its run is stated, the count starts anew (01 R24, R25). -/
def Ctx.stateRun (c : Ctx) (now run : Nat) : Ctx :=
  { c with yieldT := now, yieldLat := c.latcnt, run := run, watchdog := false }

/-- The dictionary stores of a context, the first `n` of which were performed before a bundle of `len` words. -/
def agePend (n len : Nat) (l : List DictPend) : List DictPend :=
  ((l.take n).map (fun p => { p with words := p.words + len })).filter (fun p => decide (p.words < 64)) ++ l.drop n

/-- What issuing records: the time, the first issue of the block, the words that age the dictionary stores performed
before, `n` of them, the partner's pause (01 R22; 06 R133; 16 R288). -/
def State.noteIssue (s : State) (len n : Nat) (fresh : Bool) : State :=
  let s := s.modCtx (fun c => { c with
    issuedAt := some s.ptime, atBound := false, startT := if c.startT.isSome then c.startT else some s.ptime,
    dictPend := if fresh then agePend n len c.dictPend else c.dictPend,
    ready := c.ready.filter (fun e => decide (s.ptime < e.2)) })
  let j := partner s.cur
  if s.paused j && (s.ctxAt j).status == .running then s.modCtxAt j (fun c => { c with pausecnt := c.pausecnt + 1 }) else s

/-- The words that a bundle occupies in the code (06 R117, R118). -/
def Issue.len (k : Issue) : Nat := (k.next - k.pc).toNat

/-- A bundle that has issued waits in a slot: it keeps its decoded slots and goes on at that one. -/
def Ctx.keepIssue (c : Ctx) (f : InIssue) (slot : Nat) : Ctx := { c with slot := slot, inIssue := some f }

/-- The slots of a bundle that has met its conditions run; one that has issued before goes on where it stopped. A bundle
whose first slot cannot go on, and that does not hold the issue stage, has not issued. A `rett` bundle that is the end
bundle of a level takes no end step (log 54). -/
def State.issueSlots (s0 s : State) (ops : List SlotOp) : Out :=
  let k0 := s.ctx.slot
  let again := s.ctx.posted
  let first := s.ctx.inIssue.isNone
  let n := s.ctx.dictPend.length
  let s := s.modCtx (·.goesOn s.ptime)
  let te := s.ctx.ite
  let s := s.modIssue (fun k => { k with user := s.ctx.iuser, te := te })
  let f : InIssue := { issue := s.issue, ops := ops }
  let s := if hY s.issue.hdr && k0 == 0 && first then (s.modCtx (·.stateRun s.ptime (hRun s.issue.hdr))).yieldPoint s.cur else s
  if s.ctx.block.isNone then .next s
  else
    let rest := ops.filter (fun o => decide (k0 ≤ o.slot))
    match (s.modCtx (fun c => { c.number with inIssue := some f })).runSlots rest with
    | .next t =>
      let u := if again then t else t.noteIssue s.issue.len n (first && k0 == 0)
      if t.noRoom then .next s0
      else match t.issue.stop with
        | .held =>
          if first && !t.ctx.posted && (rest.head?.map (fun o => o.slot)) == some t.issue.slot then
            .next (t.modCtx (fun c => { c with inIssue := none }))
          else .next (u.modCtx (·.keepIssue f t.issue.slot))
        | .trapped =>
          .next ((u.modCtx (fun c => { c with walked := [], inIssue := none,
                                              numbered := if t.issue.rett && te then false else c.numbered })).stepDone t.issue.rett)
        | .go => .next ((u.finishBundle te).stepDone true)
    | x => x

/-- The bundle of context `i` waits: its region closes when it waits on what R241 names, and its barrier is reached. -/
def State.waitAt (s : State) (i : Nat) (w : Wait) : State :=
  let s := if w = .barrier then s.modCtxAt i (fun c => { c with barHere := true }) else s
  let c := s.ctxAt i
  if w = .stall then s else (s.restart i c.pc c.slot c.resume).modCtxAt i (fun c => { c with closed := true })

def State.waitBundle (s : State) (w : Wait) : State := s.waitAt s.cur w

/-- Entries of the gated-store buffer that slots of a bundle take (10 R232). -/
def State.needs (s : State) (ops : List SlotOp) : Nat := ops.foldl (fun n o => n + instrEntries o.op s) 0

/-- What the gated-store buffer says of a bundle that needs entries (01 R20, 10 R232). -/
inductive Room
  | fits
  | waits
  /-- The open region alone leaves no room for it. -/
  | full
  deriving DecidableEq, Repr

def Ctx.room (c : Ctx) (need : Nat) : Room :=
  if need = 0 then .fits else if 64 < c.entries true + need then .full else if 64 < c.entries false + need then .waits else .fits

/-- What slots of a bundle wait for, their entries too: a barrier is reached only with room for them, and a bundle that
waits closes its region first (10 R232, R241, R255). -/
def State.waitsOn (s : State) (ops : List SlotOp) : Wait :=
  match s.bundleWait ops, s.ctx.room (s.needs ops) with
  | .none, .waits => .stall
  | .none, .full => .overfull
  | .barrier, .waits | .barrier, .full => .close
  | w, _ => w

/-- Whether a bundle breaks the rules of transfers and delay bundles (07 R150). A re-entered bundle whose transfer has
committed is no delay bundle of it. -/
def State.delayBad (s : State) (ops : List SlotOp) : Bool :=
  let c := s.ctx
  let jump (o : SlotOp) : Bool := isJump o.op || isProbe o.op
  let mine := ops.any (fun o => jump o && decide (o.slot < c.slot))
  (c.delay.isSome && !mine && (ops.any (fun o => noDelay o.op) || c.endsLevel s.issue.pc)) || (ops.any jump && c.endsLevel s.issue.pc)

/-- A bundle whose conditions are to be met, or that goes on: it issues, waits, or overruns the gated-store buffer. -/
def State.attempt (s0 s : State) (ops : List SlotOp) : Out :=
  match s.waitsOn (ops.filter (fun o => decide (s.ctx.slot ≤ o.slot))) with
  | .none => s0.issueSlots s ops
  | .overfull => .next ((s.faultBundle 0x16 0).stepDone false)
  | w => .next (s.waitBundle w)

/-- A bundle that passes its decode checks: the delay rule, the restart mark, a held M operation, conditions
and entries, issue. -/
def State.readyBundle (s0 s : State) (b : Bundle) (ops : List SlotOp) : Out :=
  let s := s.modIssue (fun k => { k with transfer := ops.any (fun o => isJump o.op || isProbe o.op) })
  if s.delayBad ops then .next ((s.faultBundle 0x05 0).stepDone false)
  else
    let s := if hRm b.hdr && s.ctx.slot == 0 then s.restart s.cur s.issue.pc 0 .none else s
    if s.ctx.heldOp.isSome && (ops.filter (fun o => decide (s.ctx.slot ≤ o.slot))).any (fun o => isM o.op || isExit o.op) then
      (let t := s.deliverHeld.stepDone false; .next (if t.noRoom then s0 else t))
    else s0.attempt s ops

/-- A bundle that has issued goes on, with the slots that it issued with: one that holds the issue stage once its access
may go on, another when what its slot waits for holds (01 R20). -/
def State.goOn (s : State) (f : InIssue) : Out :=
  let t : State := { s with issue := f.issue }
  if s.ctx.posted then s.issueSlots t f.ops else s.attempt t f.ops

/-- Whether a breakpoint of the context in issue matches its bundle, and which (19 R342). -/
def Ctx.breakAt (c : Ctx) : Option Nat :=
  if c.te && !c.reentered && c.slot == 0 && !c.posted then
    (range 0 8).find? (fun n => let r := vget 0 c.bps n; getB r 63 && r.extractLsb' 0 55 == c.pc.extractLsb' 0 55 && getF c.pc 55 9 == 0)
  else none

/-- The issue record of a fetched bundle at a pc. -/
def Bundle.issue (b : Bundle) (pc : Word) : Issue :=
  { Issue.idle with pc := pc, next := BitVec.ofNat 64 (pc.toNat + b.len), hdr := b.hdr, db := b.db,
                    entry := BitVec.ofNat 10 b.entry }

/-- The bundle at the pc of the context in issue, fetched and checked (06 R120, 07 R151, R153). -/
def State.newBundle (s0 : State) : Out :=
  let i := s0.cur
  let pc := s0.ctx.pc
  let s := { s0 with issue := { Issue.idle with pc := pc } }
  let stopped (t : State) : Out := .next (if t.noRoom then s0 else t.stepDone false)
  match s0.ctx.breakAt with
  | some n => stopped (s.faultBundle 0x1E (BitVec.ofNat 64 (0x10000 + n)))
  | none => match s.fetchBundle i pc.toNat with
    | .fault code tval => stopped (s.takeTrap i code 0 tval pc 0 0).halted
    | .walk va => .next (s0.askWalk i va .fetch 0)
    | .line _ => .next s0
    | .ok b =>
      let s := { s with issue := b.issue pc }
      match s.decodeBundle b with
      | .error (code, k, w) => stopped ((s.modIssue (fun u => { u with slot := k, word := w })).faultWhole code
          ({ s.issue with slot := k, word := w } : Issue).tvalWord)
      | .ok ops =>
        if ops.any (fun o => isJump o.op || isProbe o.op) then
          match s.afterTwo i (pc.toNat + b.len) with
          | .fault code tval => stopped (s.takeTrap i code 0 tval pc 0 0).halted
          | .walk va => .next (s0.askWalk i va .fetch 0)
          | .line _ => .next s0
          | .ok a => s0.readyBundle (s.modIssue (fun k => { k with after2 := BitVec.ofNat 64 a })) b ops
        else s0.readyBundle s b ops

/-- The bundle of the context in issue: a new one, or one that has issued and goes on. -/
def State.bundle (s : State) : Out :=
  if !s.mayAttempt s.cur && !s.mayResume s.cur then .next s
  else match s.ctx.inIssue with
    | some f => s.goOn f
    | none => s.newBundle

/-- KIND of the header of the bundle in issue, or at the pc of the context; 0 while it cannot be fetched. -/
def State.headKind (s : State) : Nat :=
  match s.ctx.inIssue with
  | some f => bit f.issue.db
  | none => match s.codeWord s.cur s.ctx.pc.toNat with | .ok h => hKind h | _ => 0

/-- WIDE_BUNDLE: the bundle at the pc, which has KIND 0b00 or the reserved 0b10, or cannot be fetched. -/
def execWideBundle (s : State) : Out := if s.headKind % 2 = 1 then .next s else s.bundle

/-- DICTIONARY_BUNDLE: the bundle at the pc has KIND 0b01 (06 R118). -/
def execDictionaryBundle (s : State) : Out := if s.headKind = 1 then s.bundle else .next s

/-- END_OF_KERNEL_MARKER: the header at the pc is a marker, and the bundle raises illegal-bundle (06 R119). -/
def execEndOfKernelMarker (s : State) : Out := if s.headKind = 3 then s.bundle else .next s

end Sys2Proof.Machine
end

