-- ==== Sys2Proof/Machine/Issue.lean ====
section
/-! DEFINITION. The issue stage's choice of contexts, slot tables, code lines, the end of post-issue stalls,
walks on demand, pauses, the watchdog, K-slot landings (01 R16 to R26; 09 R218; 14 R264; 15 R281; 18 R303, R315;
19 R326, R328). -/

namespace Sys2Proof.Machine

/-! ### Slot tables (01 R16, 18 R303) -/

/-- Whether a write at time `t` is in force at `now`: a multiple of 64 lies after `t` and not after `now`. -/
def inForce (t now : Nat) : Bool := decide ((t / 64 + 1) * 64 ≤ now)

/-- A core whose written table has been installed when its boundary has passed. -/
def Core.install (k : Core) (now : Nat) : Core :=
  match k.newAt with
  | some t => if inForce t now then { k with slotA := k.newA, slotB := k.newB, newAt := none } else k
  | none => k

/-- Entry `e` of the slot table in force: 0 context 0, 1 context 1, 2 either. -/
def Core.slotEntry (k : Core) (now e : Nat) : Nat :=
  let t := k.install now
  if e < 32 then getF t.slotA (2 * e) 2 else getF t.slotB (2 * (e - 32)) 2

/-- Whether a register of a slot table holds a code 3. -/
def slotCodeBad (v : Word) : Bool := (range 0 32).any (fun e => getF v (2 * e) 2 == 3)

/-- The core of an index in a partition's core list. -/
def Part.coreNo (p : Part) (i : Nat) : Option Nat := nth p.cores i

/-- SLOT_TABLE_WRITE of SLOTA, or SLOTB with `hi`, of core `i` of a partition's core list. -/
def execSlotTableWrite (part i : Nat) (hi : Bool) (v : Word) (s : State) : Out :=
  match (s.partAt part).coreNo i with
  | none => .next s
  | some c =>
    if slotCodeBad v || !s.serves part then .next s
    else .next (s.modCoreAt c (fun k =>
      let k := k.install s.ptime
      if hi then { k with newB := v, newAt := some s.ptime } else { k with newA := v, newAt := some s.ptime }))

/-- SLOT_TABLE_INSTALL: the written table of a core is in force from its boundary on. -/
def execSlotTableInstall (core : Nat) (s : State) : Out := .next (s.modCoreAt core (·.install s.ptime))

/-! ### Ready contexts (01 R17) -/

/-- What a context asks of the issue stage in a cycle. -/
inductive Ask
  | idle
  /-- Its bundle waits for a walk of its fetch. -/
  | walk (va : Nat)
  /-- Its bundle waits and has not yet closed its region or reached its barrier. -/
  | settle (w : Wait)
  /-- It is ready, with a slot mask. -/
  | ready (mask : Nat)
  deriving DecidableEq, Repr

/-- The slot mask of a bundle. -/
def Bundle.mask (b : Bundle) : Nat := b.words.foldl (fun m w => m + 2 ^ w.1) 0

/-- A bundle that waits asks to close its region once. -/
def State.askClose (s : State) (w : Wait) : Ask :=
  if !s.ctx.closed || (w == .barrier && !s.ctx.barHere) then .settle w else .idle

/-- What the slots of a bundle that have not committed ask, of slot mask `m`. -/
def State.askSlots (s : State) (m : Nat) (ops : List SlotOp) : Ask :=
  match s.waitsOn (ops.filter (fun o => decide (s.ctx.slot ≤ o.slot))) with
  | .stall => .idle
  | .close => s.askClose .close
  | .barrier => s.askClose .barrier
  | .none | .overfull => .ready m

/-- What a decoded bundle asks: its faults and those of its operands' use are raised when it issues. -/
def State.askReady (s : State) (b : Bundle) (ops : List SlotOp) : Ask :=
  let rest := ops.filter (fun o => decide (s.ctx.slot ≤ o.slot))
  if s.delayBad ops || (s.ctx.heldOp.isSome && rest.any (fun o => isM o.op || isExit o.op)) then .ready b.mask
  else s.askSlots b.mask ops

/-- What a fetched bundle asks: the next fetch of its slots, or its faults at decode. -/
def State.askFetched (s : State) (b : Bundle) : Ask :=
  let next := b.pc + b.len
  match s.decodeBundle b with
  | .error _ => .ready b.mask
  | .ok ops =>
    if ops.any (fun o => isJump o.op || isProbe o.op) then
      match s.afterTwo s.cur next with
      | .fault _ _ => .ready b.mask
      | .walk va => .walk va
      | .line _ => .idle
      | .ok _ => s.askReady b ops
    else s.askReady b ops


/-- What context `i` asks of the issue stage. A bundle whose fetch faults takes every slot. -/
def State.ask (s : State) (i : Nat) : Ask :=
  let c := s.ctxAt i
  if !s.mayAttempt i then .idle
  else match c.inIssue with
    | some f => ({ s with cur := i, issue := f.issue } : State).askSlots (f.ops.foldl (fun m o => m + 2 ^ o.slot) 0) f.ops
    | none => match s.fetchBundle i c.pc.toNat with
      | .fault _ _ => .ready 255
      | .walk va => .walk va
      | .line _ => .idle
      | .ok b =>
        if c.slot == 0 && (match c.issuedAt with | some t => decide (s.ptime < t + fetchCycles b) | none => false) then .idle
        else ({ s with cur := i, issue := b.issue c.pc } : State).askFetched b

/-- The slot mask of a ready context. -/
def Ask.mask : Ask → Option Nat
  | .ready m => some m
  | _ => none

/-- The bundles of a core that issue in this cycle, in order (01 R18, R22). -/
def State.pick (s : State) (core : Nat) : List Nat :=
  let r0 := (s.ask (2 * core)).mask
  let r1 := (s.ask (2 * core + 1)).mask
  let z0 := s.paused (2 * core); let z1 := s.paused (2 * core + 1)
  let own1 := match (s.coreAt core).slotEntry s.ptime (s.ptime % 64) with
    | 0 => false
    | 1 => true
    | _ => !(r0.isSome && !z0)
  let (o, ro, zo, t, rt, zt) := if own1 then (2 * core + 1, r1, z1, 2 * core, r0, z0) else (2 * core, r0, z0, 2 * core + 1, r1, z1)
  match ro, rt with
  | some m, some n =>
    if !zo then (if !zt && m &&& n == 0 then [o, t] else [o]) else [t]
  | some _, none => [o]
  | none, some _ => [t]
  | none, none => []

/-- The cores of the contexts that hold a bundle, each once. -/
def State.busyCores (s : State) : List Nat :=
  (s.ctxs.filter (fun e => e.2.status == .running)).foldl (fun l e => if l.contains (coreOf e.1) then l else coreOf e.1 :: l) []

/-- A number joins a list that a key orders. -/
def insertBy (f : Nat → Nat) (n : Nat) : List Nat → List Nat
  | [] => [n]
  | m :: t => if f m ≤ f n then m :: insertBy f n t else n :: m :: t

/-- The contexts that act at a cycle: those whose bundle in issue goes on, in the order in which their accesses reached
their controllers (04 R94, 21 R352), and those that the issue stages choose, in ascending order of their writer identities
(21 R354), each core's owner first. -/
def State.issuers (s : State) : List Nat :=
  ((s.ctxs.map (fun e => e.1)).filter s.mayResume ++ s.busyCores.flatMap s.pick).foldl
    (fun l i => insertBy (fun j => 4096 * s.turnNo j + (s.ctxAt j).wid.toNat) i l) []

/-- What a context's waiting bundle does at the choice: it asks for its walk, closes its region, reaches its barrier. -/
def State.settleAsk (s : State) (i : Nat) (a : Ask) : State :=
  match a with
  | .walk va => s.askWalk i va .fetch 0
  | .settle w => s.waitAt i w
  | _ => s

/-! ### Code lines (15 R281, R282; 19 R328) -/

/-- What the front end would fetch ahead. -/
inductive Ahead
  | stop
  | line (va : Nat)
  | walk (va : Nat)
  /-- A page without X, which is dropped and counted. -/
  | drop (va : Nat)
  deriving DecidableEq, Repr

/-- Walks at most `n` headers from a word address, for lines up to number `top`. -/
def State.ahead (s : State) (i top : Nat) : Nat → Nat → Ahead
  | 0, _ => .stop
  | n + 1, w =>
    if top < 4 * w / 64 then .stop
    else match s.codeWord i w with
      | .ok h => if hKind h = 3 then .stop else s.ahead i top n (w + hLength h)
      | .line va => .line va
      | .walk va => .walk va
      | .fault c _ => if c = 0x0B then .stop else .drop (4 * w)

/-- The line that a fetch misses. -/
def Fetch.missing {α : Type} : Fetch α → Option Nat
  | .line va => some va
  | _ => none

/-- The line of a header that a bundle needs besides its own words: of the bundle after the delay bundles (07 R151), or of
the end bundle of a loop of count 0 (07 R154). -/
def State.headerLine (s : State) (i next : Nat) (ops : List SlotOp) : Option Nat :=
  let beyond := if ops.any (fun o => isJump o.op || isProbe o.op) then (s.afterTwo i next).missing else none
  beyond.orElse (fun _ => ops.findSome? (fun o => match o.op with
    | .lpush _ a stop => if (s.ctxAt i).readS a = 0 then (s.after i (BitVec.ofNat 64 next + stop.setWidth 64).toNat).missing else none
    | _ => none))

/-- The line that context `i` needs for its next bundle. -/
def State.demandLine (s : State) (i : Nat) : Option Nat :=
  let pc := (s.ctxAt i).pc.toNat
  match (s.ctxAt i).inIssue with
  | some f => s.headerLine i f.issue.next.toNat f.ops
  | none => match s.fetchBundle i pc with
    | .line va => some va
    | .ok b => match ({ s with cur := i } : State).decodeBundle b with
      | .ok ops => s.headerLine i (pc + b.len) ops
      | .error _ => none
    | _ => none

/-- What context `i` fetches ahead: the target of a taken transfer in its delay bundles, then up to four lines beyond that
of its next bundle (14 R264, 15 R281, R282). -/
def State.aheadOf (s : State) (i : Nat) : Ahead :=
  let c := s.ctxAt i
  let pc := c.pc.toNat
  let target : Ahead := match c.delay with
    | some d => if d.taken then (match s.fetchBundle i d.target.toNat with
        | .line va => .line va
        | .walk va => .walk va
        | .fault k _ => if k = 0x0B ∨ k ≤ 7 then .stop else .drop (4 * d.target.toNat)
        | .ok _ => .stop) else .stop
    | none => .stop
  match target with
  | .stop => s.ahead i (4 * pc / 64 + 4) 80 pc
  | .drop va => if c.dropAt = some va then s.ahead i (4 * pc / 64 + 4) 80 pc else target
  | _ => target

/-- Without the last element. -/
def dropLast {α : Type} (l : List α) : List α := l.take (l.length - 1)

/-- The line at an address joins the instruction buffer for context `i`. The buffer keeps 512 lines, of which the context
that has more gives one up. -/
def State.takeLine (s : State) (i va : Nat) : State :=
  match s.lookExtent i (va / 4096) codeKey with
  | .hit e =>
    let l := e.pa va / 64
    if s.slotHolds (64 * l) || s.portFull l 0 then s
    else
      let s := (s.homeTouch l).modCtxAt i (fun c => { c.useExtent e (va / 4096) with
        ibuf := { vline := va / 64, pline := l, data := memLine s.mem l, user := e.u } :: c.ibuf.filter (fun x => x.vline != va / 64) })
      let n := (s.ctxAt i).ibuf.length; let m := (s.ctxAt (partner i)).ibuf.length
      if n + m ≤ 512 then s
      else s.modCtxAt (if m < n then i else partner i) (fun c => { c with ibuf := dropLast c.ibuf })
  | _ => s

/-- A prefetch that failed at an address is counted, once, and leaves nothing (07 R153, 19 R328). -/
def State.specDrop (s : State) (i va : Nat) : State :=
  s.modCtxAt i (fun c => if c.dropAt = some va then c else { c with specdrop := c.specdrop + 1, dropAt := some va })

/-- A prefetch that walks, once no read of its walk waits at a controller (21 R352): on success the extent is formed and the line fetched. -/
def State.walkAhead (s : State) (i va : Nat) : State :=
  let (r, t) := s.formExtent i va codeKey false
  let c := s.ctxAt i
  if s.walkHeld (dieOf i) c.part c.asid c.lkey va then s
  else match r with
    | .error _ => s.specDrop i va
    | .ok x => if x.x && (c.priv || x.u) then t.takeLine i va else t.specDrop i va

/-- INSTRUCTION_FETCH: a line of the next bundle of context `i`, or one ahead of it. -/
def execInstructionFetch (i : Nat) (s : State) : Out :=
  if (s.ctxAt i).status ≠ .running then .next s
  else match s.demandLine i with
    | some va => .next (s.takeLine i va)
    | none => match s.aheadOf i with
      | .stop => .next s
      | .line va => .next (s.takeLine i va)
      | .walk va => if getB s.pkg.duty 0 then .next s else .next (s.walkAhead i va)
      | .drop va => .next (s.specDrop i va)

/-- Whether a context has a line to fetch without a walk. -/
def State.wantsLine (s : State) (i : Nat) : Bool :=
  (s.ctxAt i).status == .running && ((s.demandLine i).isSome || (match s.aheadOf i with | .line _ => true | _ => false))

/-! ### Post-issue stalls (01 R20, R21; 10 R222) -/

/-- The stall of context `i` ends: its results are readable after their interlock, their flags are ORed, those of readers
before the restart point in the shadow too (03 R79, R81). -/
def Ctx.endStall (c : Ctx) (now : Nat) (x : Stall) : Ctx :=
  let c := { c.countLat now with stall := none }
  let c := x.regs.foldl (fun c r => c.noteReady r.1 (now + r.2)) c
  let c := { c with shadow := { c.shadow with fpend := c.shadow.fpend ++ c.shadow.sflags.map (fun f => (now + f.1, f.2)), sflags := [] } }
  x.flags.foldl (fun c f => c.vDone now (now + f.1) f.2) c

/-- MEMORY_ACCESS_COMPLETE: the last line or the value has arrived. -/
def execMemoryAccessComplete (i : Nat) (s : State) : Out :=
  match (s.ctxAt i).stall with
  | none => .next s
  | some x =>
    if s.ptime < x.earliest then .next s
    else
      let t := s.modCtxAt i (fun c => c.endStall s.ptime x)
      let t := t.overrun i 0 x.overrun
      if t.noRoom then .next s else .next t

/-! ### Walks on demand (18 R315; 19 R324, R326) -/

/-- The key of the range that a waiting access uses, and the range's write flag. -/
def Ctx.walkKey (c : Ctx) (w : WalkReq) : Option (RangeKey × Bool) :=
  match c.block with
  | none => none
  | some b =>
    if w.kind = .fetch then (if b.inCode w.va then some (codeKey, false) else none)
    else (b.lrec.dataRange w.va 1).map (fun h => (h.key, h.w))

/-- The answer of a walk for the bundle in issue, for an access through a range. -/
def Ctx.walkDone (c : Ctx) (w : WalkReq) (now : Nat) (key : RangeKey) (cause level : Nat) (ext : Extent) : Ctx :=
  { c.countLat now with
    walkReq := none,
    walked := { unit := 0, page := w.va / 4096, no := key.no, parm := key.parm, code := key.code, cause := cause, level := level,
                ext := ext } :: c.walked }

/-- AUX of a translation request: the kind of access. -/
def AccKind.code : AccKind → Nat
  | .read => 0 | .write => 1 | .readWrite => 2 | .fetch => 3

/-- The record of a translation request under host walking (18 R315). -/
def State.walkRecord (s : State) (i : Nat) (w : WalkReq) : FaultRec :=
  s.ctxRec i 0x0C 3 10 0 (tvalVa 0 w.va) 0 (BitVec.ofNat 64 w.kind.code)

/-- The walks of a context and its engines that have not been put to the host. -/
def Ctx.unposted (c : Ctx) : Option WalkReq :=
  ((match c.walkReq with | some w => [w] | none => []) ++ c.engReqs).find? (fun w => !w.posted)

/-- A walk has been put to the host. -/
def Ctx.nowPosted (c : Ctx) (w : WalkReq) : Ctx :=
  let mark (x : WalkReq) : WalkReq := if x = w then { x with posted := true } else x
  { c with walkReq := c.walkReq.map mark, engReqs := c.engReqs.map mark }

/-- WALK: the walk that context `i` waits for completes, forming an extent or answering its fault to the access.
Under host walking a request record is posted instead, for its engines too. -/
def execWalk (i : Nat) (s : State) : Out :=
  let c := s.ctxAt i
  if getB s.pkg.duty 0 then
    match c.unposted with
    | none => .next s
    | some w =>
      let t := (s.modCtxAt i (·.nowPosted w)).postCtx i (s.walkRecord i w)
      if t.noRoom then .next s else .next t
  else
    let s := s.modCtxAt i (fun c => { c with engAns := [] })
    match c.walkReq with
    | none => .next s
    | some w =>
      if s.ptime < (s.walkEnd i w.va w.since).1 then .next s
      else match c.walkKey w with
        | none => .next (s.modCtxAt i (fun c => { c with walkReq := none }))
        | some (key, rw) =>
          let (r, t) := s.formExtent i w.va key rw
          let t := match r with
            | .ok x => t.modCtxAt i (·.walkDone w s.ptime key 0 0 x)
            | .error e => t.modCtxAt i (·.walkDone w s.ptime key e.1 e.2 { bits := 0, level := e.2, entry := 0 })
          let t := if w.kind = .fetch then t else t.overrun i 0 (s.walkEnd i w.va w.since).2
          if t.noRoom then .next s else .next t

/-! ### Pauses, the watchdog, K-slot landings -/

/-- PAUSE_END: the pause of context `i` has ended. -/
def execPauseEnd (i : Nat) (s : State) : Out :=
  let c := s.ctxAt i
  if c.pauseEnd ≠ 0 ∧ c.pauseEnd ≤ s.ptime then .next (s.modCtxAt i (fun c => { c with pauseEnd := 0 })) else .next s


/-- WATCHDOG: the yield count has passed the stated run and its allowance; one record per yield point (01 R26). -/
def execWatchdog (i : Nat) (s : State) : Out :=
  let c := s.ctxAt i
  if c.block.isNone ∨ (c.status ≠ .running ∧ c.status ≠ .exiting) ∨ c.watchdog ∨ c.run = 0 ∨ c.yieldCount s.ptime ≤ 64 * c.run + 65536 then .next s
  else
    let t := (s.postCtx i (s.ctxRec i 0x20 3 7 0 0 0 0)).modCtxAt i (fun c => { c with watchdog := true })
    if t.noRoom then .next s else .next t

/-- K_WRITE_LANDING: the writes whose bundle has ended land (09 R218). -/
def execKWriteLanding (i : Nat) (s : State) : Out :=
  let c := s.ctxAt i
  .next (s.landK i (if c.numbered then c.bnum - 1 else c.bnum))

end Sys2Proof.Machine
end

