-- ==== Sys2Proof/Machine/Home.lean ====
section
/-! DEFINITION. Stores at home slices and CXL ports, the host's and the management cores' stores, reads and
merging windows at a home slice (02 R47 to R49, R55, R56; 04 R83, R97; 22 R360). -/

namespace Sys2Proof.Machine

/-! ### CXL ports (02 R56, 04 R83) -/

/-- The number of a store among the requests that have arrived: that under which it waits, or a new one. -/
def State.storeArr (s : State) (t : Store) : Nat := if t.arr = 0 then s.free + 1 else t.arr


/-- Whether a context's store to a line waits. -/
def State.storeWaits (s : State) (t : Store) : Bool :=
  match t.kind with | .line l _ => s.lineBusy l (s.storeArr t) | _ => false

/-- A store of context `i` waits at its line's controller or port; its arrival ends the line's merging window. -/
def State.storeArrives (s : State) (i : Nat) (t : Store) : State :=
  let n := s.storeArr t
  let s := match t.kind with | .line l _ => s.shutWindow l | _ => s
  if t.arr ≠ 0 then s
  else ({ s with free := s.free + 1 } : State).modCtxAt i (fun c =>
    { c with stores := c.stores.map (fun x => if x.seq = t.seq ∧ x.kind = t.kind then { x with arr := n } else x) })

/-- The I/O die forwards a store to its expander: it is applied there in this order, and counts as performed once
it is acknowledged. -/
def State.forwardStore (s : State) (i : Nat) (t : Store) : State :=
  let u := s.performStore i t
  u.modCtxAt i (fun c => { c with stores := (s.ctxAt i).stores.map (fun x => if x.seq = t.seq ∧ x.kind = t.kind then { x with fwd := true } else x) })

/-- Stores of every context that pass a test, with their contexts. -/
def State.storesWhere (s : State) (f : Nat → Store → Bool) : List (Nat × Store) :=
  s.ctxs.flatMap (fun e => (e.2.stores.filter (f e.1)).map (fun t => (e.1, t)))

/-- One of several, by a free value (log 5). -/
def pickFree {α : Type} (k : Nat) (l : List α) : Option α := nth l ((Config.freeWord k).toNat % l.length)

/-- Whether a ready store at a port may start. -/
def State.startsAt (s : State) (p i : Nat) (t : Store) : Bool :=
  t.port == some p && (s.ctxAt i).storeReady t && !s.storeWaits t

/-- A store of context `i` starts at its home or port: it is performed there, or forwarded, with the records of the slots
that it overruns (21 R353). -/
def State.startStore (s : State) (i : Nat) (t : Store) : State :=
  let late := match t.kind with | .line l _ => s.writeOver (dieOf i) (64 * l) s.ptime | _ => []
  let s := match t.kind with | .line l _ => s.shutWindow l | _ => s
  let u := if t.port.isSome then s.forwardStore i t else s.performStore i t
  (u.overrun i 0 late).settle i (u.ctxAt i).stores.length

/-- CXL_PORT_REQUEST: a request that waits at a port starts, while fewer than 512 are outstanding and no slot holds it. -/
def execCxlPortRequest (p : Nat) (s : State) : Out :=
  match pickFree s.free (s.storesWhere (s.startsAt p)) with
  | some (i, t) =>
    let u := ({ s with free := s.free + 1 } : State).startStore i t
    if u.noRoom then .next s else .next u
  | none => .next s

/-- Whether the update of the write time of a store's frame waits at its controller. -/
def State.ackHeld (s : State) (t : Store) : Bool := match t.kind with | .line l _ => s.timeHeld l | _ => false

/-- EXPANDER_ACKNOWLEDGE: an expander acknowledges a forwarded store, which is then performed, with the update of its
write time (04 R83, 16 R286), unless that is held (21 R352). -/
def execExpanderAcknowledge (p : Nat) (s : State) : Out :=
  match pickFree s.free (s.storesWhere (fun _ t => t.fwd && t.port == some p && !s.ackHeld t)) with
  | some (i, t) =>
    let w := (s.ctxAt i).writer
    let late := match t.kind with | .line l _ => s.timeOver (dieOf i) (64 * l) s.ptime | _ => []
    let u := match t.kind with | .line l _ => s.writeTime (64 * l) w.1 w.2 | _ => s
    let u := ({ u with free := u.free + 1 } : State).modCtxAt i (fun c => c.dropStore t.seq t.kind)
    let u := u.overrun i 0 late
    if u.noRoom then .next s else .next (u.settle i (u.ctxAt i).stores.length)
  | none => .next s

/-! ### Stores that arrive at a home (04 R97, 22 R360) -/

/-- The waiting store number `k` of context `i`. -/
def State.storeNo (s : State) (i k : Nat) : Option Store := nth (s.ctxAt i).stores k

/-- Writes bytes from outside the cores, line by line: applied and sealed with tag 0xFFF. A host store to an HBM line leaves
no copy of it in its home slice and allocates none (22 R360). -/
def State.outsideWrite (s : State) (host : Bool) (blk pa : Nat) : Nat → List Byte → State
  | 0, _ => s
  | n + 1, bs =>
    if bs.isEmpty then s
    else
      let l := pa / 64; let o := pa % 64
      let here := bs.take (64 - o)
      let s := if host && isHbm pa then
          (s.modDieAt (homeDie pa) (fun d => { d with l2 := d.l2.filter (fun x => x.pline != l) })).sealLine l
            (bytesLine o here) (byteMask o here.length) 0xFFF 0 blk
        else s.storeSealed l (bytesLine o here) (byteMask o here.length) 0xFFF 0 blk
      s.outsideWrite host blk (pa + here.length) n (bs.drop (64 - o))

/-- Whether every byte of a range is backed. -/
def State.rangeBacked (s : State) (pa n : Nat) : Bool :=
  (range (pa / 4096) ((pa + n + 4095) / 4096 - pa / 4096)).all (fun f => s.backed (4096 * f))


/-- Whether a slot that affects an address is open. -/
def State.slotOpen (s : State) (pa : Nat) : Bool := (s.slotsOf pa s.ptime).any (fun w => decide (w.1 ≤ s.ptime ∧ s.ptime < w.1 + w.2))


/-- A write from the host or a management core: `may` says whether it waits no longer. In the safe state memory carries
no traffic (24 R376). -/
def State.outsideStore (s : State) (o : StoreOrigin) (host may : Bool) (pa : Nat) (bs : List Byte) : Out :=
  if !s.powered then .next s
  else if !s.rangeBacked pa bs.length then .fault (.unbackedAddress pa)
  else if !may then .next ((linesOf pa bs.length).foldl State.shutWindow (s.lateWaits (.store o)))
  else
    let s := (linesOf pa bs.length).foldl State.shutWindow (s.lateDone (.store o))
    .next (s.outsideWrite host 0xFFFFFFFF pa bs.length bs)

/-- HOME_SLICE_STORE: a store arrives at its home slice, and is applied or discarded by the tag rule; a context's
store to a CXL page reaches its port. One that a slot, a port or an earlier request of its line holds waits there. A
management core's store runs only while a slot of its line is open (21 R356). -/
def execHomeSliceStore (o : StoreOrigin) (s : State) : Out :=
  match o with
  | .context i k => match s.storeNo i k with
    | none => .next s
    | some t =>
      if !(s.ctxAt i).storeReady t || t.own then .next s
      else if s.storeWaits t then .next (s.storeArrives i t)
      else
        let u := s.startStore i t
        if u.noRoom then .next s else .next u
  | .host pa bs => s.outsideStore o true (!s.lateHeld (.store o)) pa bs
  | .management pa bs =>
    s.outsideStore o false ((linesOf pa bs.length).all (fun l => s.slotOpen (64 * l) && decide (s.installed l ≤ s.ptime))) pa bs

/-! ### Reads at a home (02 R49) -/

/-- HOME_SLICE_READ: a plain read of an HBM line arrives at its home; it is served from the slice, joins an open
window, or starts a read of HBM and opens a window. -/
def execHomeSliceRead (l : Nat) (s : State) : Out := .next (s.homeRead l false)

/-- HBM_LINE_INSTALL: reads of HBM of a line that are complete end, the line stands in the home's slice, and their windows
are gone. -/
def execHbmLineInstall (l : Nat) (s : State) : Out :=
  let due (w : Window) : Bool := w.pline == l && decide (s.installAt w ≤ s.ptime)
  if (s.dieAt (homeDie (64 * l))).windows.any due then
    .next ((s.modDieAt (homeDie (64 * l)) (fun d => { d with windows := d.windows.filter (fun w => !due w) })).homeTouch l)
  else .next s

/-- MERGING_WINDOW_END: the 32 cycles of a window have passed. -/
def execMergingWindowEnd (l : Nat) (s : State) : Out :=
  .next (s.modDieAt (homeDie (64 * l)) (fun d => { d with
    windows := d.windows.map (fun w => if w.pline = l ∧ w.opened + 32 ≤ s.ptime then { w with shut := true } else w) }))

end Sys2Proof.Machine
end

