-- ==== Sys2Proof/Machine/Command.lean ====
section
/-! DEFINITION. The fault queue, context commands, extents from the host, reloads of an address space
(18 R308, R315; 19 R317, R327, R335, R336; 10 R247). -/

namespace Sys2Proof.Machine

/-! ### The fault queue (18 R308) -/

/-- The waiting records of a partition. -/
def State.waiting (s : State) (p : Nat) : List FaultRec :=
  (s.partAt p).fqWait ++ s.ctxs.flatMap (fun e => e.2.recs.filter (fun r => r.part == p))

/-- The record at the front of a holder. -/
def State.heldRec (s : State) (h : RecordHolder) : Option FaultRec :=
  match h with
  | .context i => (s.ctxAt i).fbuf
  | .engine i u => ((s.ctxAt i).ebuf.find? (fun e => e.1 == u)).map (fun e => e.2)
  | .controller p => (s.partAt p).fqWait.head?

/-- The holder gives its record up. -/
def State.dropRec (s : State) (h : RecordHolder) : State :=
  match h with
  | .context i => s.modCtxAt i (fun c => { c with fbuf := none })
  | .engine i u => s.modCtxAt i (fun c => { c with ebuf := c.ebuf.filter (fun e => e.1 != u) })
  | .controller p => s.modPartAt p (fun q => { q with fqWait := q.fqWait.drop 1 })

/-- FAULT_RECORD_POST: a waiting record, the earliest detected of its partition, is posted when there is room and no slot
holds its write. -/
def execFaultRecordPost (h : RecordHolder) (s : State) : Out :=
  match s.heldRec h with
  | none => .next s
  | some r =>
    if (s.partAt r.part).fqFull || s.fqHeld r.part || (s.waiting r.part).any (fun x => decide (x.ptime < r.ptime)) then .next s
    else .next ((s.dropRec h).putRec r.part r)

/-- FQ_HEAD_WRITE: the driver writes HEAD of FQCFG. -/
def execFqHeadWrite (part : Nat) (v : Word) (s : State) : Out :=
  if !s.serves part then .next s else .next (s.modPartAt part (fun p => { p with fqHead := getF v 12 12 }))

/-! ### Context commands (19 R335, R336; 10 R247) -/

/-- The context of an index in a partition's core list, when the partition is in service and its block is on it. -/
def State.target (s : State) (part core : Nat) (ctx : Bool) : Option Nat :=
  match if s.serves part then (s.partAt part).coreNo core else none with
  | some c =>
    let i := 2 * c + bit ctx
    if (s.ctxAt i).block.isSome && (s.ctxAt i).part == part then some i else none
  | none => none

/-- CTXCMD as it reads after a command: CHAN, CTX, CORE, and ERR. Before the registers are in service it keeps its value
(24 R374, R376). -/
def State.ctxcmdDone (s : State) (part core : Nat) (ctx : Bool) (chan : Nat) (err : Bool) : State :=
  if !s.serves part then s
  else s.modPartAt part (fun p => { p with ctxcmd :=
    { busy := false, err := err, arg := BitVec.ofNat 64 (chan % 16 * 2 ^ 16 + bit ctx * 2 ^ 15 + core % 2048 * 2 ^ 4) } })

/-- Performs a command on the suspended context that it names, or refuses it. -/
def State.onSuspended (s : State) (part core : Nat) (ctx : Bool) (act : State → Nat → State) : Out :=
  match s.target part core ctx with
  | some i =>
    if (s.ctxAt i).status = .suspended then .next ((act s i).ctxcmdDone part core ctx 0 false)
    else .next (s.ctxcmdDone part core ctx 0 true)
  | none => .next (s.ctxcmdDone part core ctx 0 true)

/-- The context runs again, and answers of earlier walks no longer hold. -/
def Ctx.runs (c : Ctx) : Ctx := { c with status := .running, walked := [], walkReq := none }

/-- CTXCMD_RESUME: the context returns as `rett` would. -/
def execCtxcmdResume (part core : Nat) (ctx : Bool) (s : State) : Out :=
  s.onSuspended part core ctx (fun s i => (s.modCtxAt i Ctx.runs).leaveTrap i)

/-- CTXCMD_REMOVE: the context is removed; one that a fatal fault has doomed is being removed already. -/
def execCtxcmdRemove (part core : Nat) (ctx : Bool) (s : State) : Out :=
  match (s.target part core ctx).map (fun i => (s.ctxAt i).leaving) with
  | some true => .next (s.ctxcmdDone part core ctx 0 false)
  | _ => s.onSuspended part core ctx State.startRemoval

/-- CTXCMD_REDIRECT: the context continues at CTXARG with the privilege and TE that it had. -/
def execCtxcmdRedirect (part core : Nat) (ctx : Bool) (s : State) : Out :=
  s.onSuspended part core ctx (fun s i =>
    let s := s.modCtxAt i Ctx.runs
    s.toHandler i (s.partAt part).ctxarg (s.ctxAt i).ppriv (s.ctxAt i).pte)

/-- Performs a command on the held copy that it names, or refuses it. -/
def State.onHeldCopy (s : State) (part core : Nat) (ctx : Bool) (n : Nat) (act : State → Nat → Copy → State) : Out :=
  match s.target part core ctx with
  | some i => (match (s.ctxAt i).chan n with
    | o :: _ =>
      if o.held && !(s.ctxAt i).leaving then .next ((act s i o).ctxcmdDone part core ctx n false)
      else .next (s.ctxcmdDone part core ctx n true)
    | [] => .next (s.ctxcmdDone part core ctx n true))
  | none => .next (s.ctxcmdDone part core ctx n true)

/-- CTXCMD_RESUME_COPY: the held copy goes on from WP. -/
def execCtxcmdResumeCopy (part core : Nat) (ctx : Bool) (n : Nat) (s : State) : Out :=
  s.onHeldCopy part core ctx n (fun s i o =>
    s.modCtxAt i (fun c => { c.setHead n { o with held := false } with engAns := c.engAns.filter (fun w => w.unit != 16 + n) }))

/-- CTXCMD_DISCARD_COPY: the held copy goes; its slots stay as they are (10 R251). -/
def execCtxcmdDiscardCopy (part core : Nat) (ctx : Bool) (n : Nat) (s : State) : Out :=
  s.onHeldCopy part core ctx n (fun s i _ => s.copyGone i n)

/-! ### Extents from the host (18 R315) -/

/-- EXTCMD as it reads after a command. Before the registers are in service it keeps its value (24 R374, R376). -/
def State.extcmdDone (s : State) (part core : Nat) (ctx : Bool) (err : Bool) : State :=
  if !s.serves part then s
  else s.modPartAt part (fun p => { p with extcmd :=
    { busy := false, err := err, arg := BitVec.ofNat 64 (bit ctx * 2 ^ 15 + core % 2048 * 2 ^ 4) } })

/-- The 256 bits of EXTDATA0 to EXTDATA3 without the reserved bits of the layout. -/
def Part.extBits (p : Part) : BitVec 256 :=
  let x : BitVec 256 := (range 0 4).foldl (fun x k => setF x (64 * k) 64 (vget 0 p.extdata k).toNat) 0
  setF (setF (setF x 45 19 0) 104 56 0) 192 33 0

/-- Whether an extent from the host is refused. -/
def State.extentBad (s : State) (b : Block) (e : Extent) : Bool :=
  let range := nth b.lrec.rng e.rangeNo
  !e.valid || e.gen != (s.partAt b.part).genOf b.lrec.asid b.key
    || (if e.code then e.rangeNo != 15
        else if e.parm then e.rangeNo != 15
        else !(match range with | some g => g.declared | none => false))
    || (e.w && !(match range with | some g => !e.code && !e.parm && g.w | none => false))
    || (s.frameCause b.part (4096 * e.pb) e.npg).isSome

/-- The LEVEL that an extent or a cause from the host stands for; the spec states none (log 19). -/
def freeLevel (k : Nat) : Nat := (Config.freeWord k).toNat % 8

/-- The stalled access of a context that the host answers: that of its bundle, else the first of its engines. -/
def Ctx.hostReq (c : Ctx) : Option WalkReq := match c.walkReq with | some w => some w | none => c.engReqs.head?

/-- A waiting access is answered: walk cycles count, the request goes. -/
def Ctx.answerWalk (c : Ctx) (now : Nat) : Ctx :=
  if c.walkReq.isSome then { c.countLat now with walkReq := none } else { c with engReqs := c.engReqs.drop 1 }

/-- What the host's refusal of an access answers, for the range that the access uses (18 R315). -/
def Ctx.refusal (c : Ctx) (w : WalkReq) (cause level : Nat) : Walked :=
  let key := match c.walkKey w with | some (k, _) => k | none => { no := 0, code := false, parm := false }
  { unit := w.unit, page := w.va / 4096, no := key.no, parm := key.parm, code := key.code, cause := cause, level := level,
    ext := { bits := 0, level := level, entry := 0 } }

/-- EXTCMD_INSTALL: the extent in EXTDATA joins the context's table, and the stalled access is tried again. -/
def execExtcmdInstall (part core : Nat) (ctx : Bool) (s : State) : Out :=
  match s.target part core ctx with
  | none => .next (s.extcmdDone part core ctx true)
  | some i => match (s.ctxAt i).hostReq, (s.ctxAt i).block with
    | some w, some b =>
      let e : Extent := { bits := (s.partAt part).extBits, level := freeLevel s.free, entry := 0 }
      let s := { s with free := s.free + 1 }
      if s.extentBad b e then .next (s.extcmdDone part core ctx true)
      else
        let s := (s.reclaimAt i w.va).modCtxAt i (fun c => { c.answerWalk s.ptime with extents := addExtent c.extents e })
        .next (s.extcmdDone part core ctx false)
    | _, _ => .next (s.extcmdDone part core ctx true)

/-- EXTCMD_FAIL: the stalled access fails with the cause in EXTDATA0, in its class. -/
def execExtcmdFail (part core : Nat) (ctx : Bool) (s : State) : Out :=
  let cause := getF (vget 0 (s.partAt part).extdata 0) 0 8
  match s.target part core ctx with
  | none => .next (s.extcmdDone part core ctx true)
  | some i => match (s.ctxAt i).hostReq with
    | some w =>
      if cause < 0x0B ∨ 0x0E < cause then .next (s.extcmdDone part core ctx true)
      else
        let a := (s.ctxAt i).refusal w cause (freeLevel s.free)
        let s := ({ s with free := s.free + 1 } : State).modCtxAt i (fun c =>
          if c.walkReq.isSome then { c.answerWalk s.ptime with walked := a :: c.walked }
          else { c.answerWalk s.ptime with engAns := a :: c.engAns })
        .next (s.extcmdDone part core ctx false)
    | none => .next (s.extcmdDone part core ctx true)

/-! ### ASTSYNC (19 R317, R327) -/

/-- Whether a context's block runs in an address space. -/
def Ctx.inSpace (c : Ctx) (part asid : Nat) : Bool := c.block.isSome && c.part == part && c.asid == asid

/-- Translations of an address space that a reload discards: those of the generation read, all when the entry is
not valid. -/
def Asid.discards (a : Asid) (gen : BitVec 16) : Bool := !a.valid || gen == a.gen

/-- Whether the extents of a context have been formed for a block, not yet dispatched, of an address space (19 R325). -/
def Part.pretIn (p : Part) (part asid : Nat) (c : Ctx) : Bool :=
  c.block.isNone && (match c.pret with
    | some (q, key, _) => q == part && (match p.launchOf key with | some l => l.lrec.asid == asid | none => false)
    | none => false)

/-- Extents that a reload discards. -/
def Ctx.dropExtents (c : Ctx) (f : Extent → Bool) : Ctx := { c with extents := c.extents.filter (fun e => !f e) }

/-- ASTSYNC: every translator reads the entry again and discards what it must, in saved contexts as well; scalar L1 lines
of the address space in every core, code lines of its blocks and the partition's RDC lines go (02 R48; log 33). -/
def execAstsync (part asid : Nat) (s : State) : Out :=
  if !s.serves part then .next s else
  let a := s.asidEntry part asid
  let s := s.lineLost part (s.asidBad part asid)
  let old (e : Extent) : Bool := a.discards e.gen
  let s := s.modPartAt part (fun p => { p.syncAsid a with
    astBusy := some asid,
    images := p.images.map (fun m => if m.2.ctx.asid = asid then (m.1, { m.2 with ctx := m.2.ctx.dropExtents old }) else m) })
  .next { s with
    dies := s.dies.map (fun d => (d.1, { d.2 with
      walks := d.2.walks.filter (fun w => !(w.part == part && w.asid == asid && a.discards w.gen)),
      rdc := d.2.rdc.filter (fun e => e.part != part) })),
    cores := s.cores.map (fun k => (k.1, { k.2 with l1 := k.2.l1.filter (fun e => e.asid != asid) })),
    ctxs := s.ctxs.map (fun c => (c.1,
      if c.2.inSpace part asid then { c.2.dropExtents old with ibuf := [], walked := [] }
      else if (s.partAt part).pretIn part asid c.2 then c.2.dropExtents old
      else c.2)) }

/-- ASTSYNC_COMPLETE: every translator has done so, and BUSY clears. -/
def execAstsyncComplete (part : Nat) (s : State) : Out := .next (s.modPartAt part (fun p => { p with astBusy := none }))

end Sys2Proof.Machine
end

