-- ==== Sys2Proof/Machine/Debug.lean ====
section
/-! DEFINITION. The debugger's controls and its window onto a context (05 R112; 19 R340 to R343). -/

namespace Sys2Proof.Machine

/-- The context that DWSEL selects. -/
def Package.selected (p : Package) : Nat := 2 * getF p.dwsel 0 11 + bit (getB p.dwsel 11)

/-- Whether every operation of a context has been performed or is held (19 R343). -/
def Ctx.quiesced (c : Ctx) : Bool :=
  c.stores.isEmpty && c.xq.isEmpty && c.stall.isNone && (c.mq.isEmpty || c.heldOp.isSome)
    && c.chans.all (fun q => match q.2 with | [] => true | o :: _ => o.held)

/-- HALTED: the context issues nothing, by a halt before its next bundle, a completed step or a fault. -/
def Ctx.isHalted (c : Ctx) : Bool :=
  c.status == .suspended
    || ((c.halted || (c.halt && !c.step && c.slot == 0 && c.stall.isNone)) && !(c.step && !c.quiesced))

/-- REASON: 0 halt request, 1 step, 2 suspended by a fault. -/
def Ctx.haltReason (c : Ctx) : Nat := if c.status = .suspended then 2 else c.reason.toNat

/-- DCTL as it reads. -/
def Ctx.dctl (c : Ctx) : Word :=
  BitVec.ofNat 64 (bit c.halt + bit c.sq * 4 + bit c.isHalted * 8 + c.haltReason * 16 + bit c.busyRead * 64 + bit c.terr * 128)

/-- DCTL_HALT: the selected context halts before its next bundle. -/
def execDctlHalt (s : State) : Out :=
  .next (s.modCtxAt s.pkg.selected (fun c => { c with halt := true, reason := if c.halted then c.reason else 0 }))

/-- DCTL_RUN: the selected context runs on. -/
def execDctlRun (s : State) : Out :=
  .next (s.modCtxAt s.pkg.selected (fun c => { c with halt := false, halted := false, step := false }))

/-- DCTL_STEP: a halted context is to issue one bundle; SQ is written with it. -/
def execDctlStep (sq : Bool) (s : State) : Out :=
  .next (s.modCtxAt s.pkg.selected (fun c =>
    if c.isHalted && c.status == .running then { c with sq := sq, halted := false, step := true } else { c with sq := sq }))

/-! ### Reads of the window (19 R340) -/

/-- A doubleword of a scale buffer: its bytes, then the two band scales (19 R338). -/
def KBuf.dword (k : KBuf) (off : Nat) : Word :=
  if off < 16384 then k.bytes.extractLsb' (8 * off) 64
  else if off = 16384 then BitVec.ofNat 64 (k.bnd0.toNat + k.bnd1.toNat * 2 ^ 16) else 0

/-- Whether a tile of the block is busy. -/
def Ctx.tileBusyNo (c : Ctx) (t : Nat) : Bool := c.tileBusy (BitVec.ofNat 3 t)

/-- What a read of the window meets: a value, a busy tile, a failed translation, or a place for which the spec
gives no layout. -/
inductive Seen
  | value (w : Word)
  | busy
  | terr
  | open_
  deriving DecidableEq, Repr

/-- A doubleword of the state of a halted context. -/
def State.stateDword (s : State) (i off : Nat) : Seen :=
  let c := s.ctxAt i
  match c.block with
  | none => .open_
  | some b =>
    let k := s.coreAt (coreOf i)
    if off < 0x400 then (if (off - 0x100) / 8 < 0x13 then .value (s.sysReg i ((off - 0x100) / 8)) else .value 0)
    else if off < 0x400 + 16832 then .value (c.regDword (off - 0x400))
    else if off < 0x8000 then .open_
    else if off < 0x8000 + 18176 then .value (wordAt (fieldsNat c.tongsFields) (off - 0x8000))
    else if off < 0x8000 + 18176 + 2048 then .value (wordAt (fieldsNat (s.controlFields i)) (off - 0x8000 - 18176))
    else if off < 0x10000 then .open_
    else if off < 0x20000 then .value ((tget 0 c.dict ((off - 0x10000) / 64)).extractLsb' (8 * (off % 64)) 64)
    else if off < 0x40000 then .value (s.engineAt i (off - 0x20000))
    else if off < 0x80000 then
      let n := (off - 0x40000) / 16448; let o := (off - 0x40000) % 16448
      if n < b.kernel.kbufs then .value ((vget .zero k.kbufs (b.kbufBase + n)).dword o) else .open_
    else if off < 0x100000 then
      let n := (off - 0x80000) / 0x8000; let o := (off - 0x80000) % 0x8000
      if b.kernel.tiles ≤ n then .open_
      else if c.tileBusyNo n then .busy
      else .value ((vget 0 k.tiles (b.tileBase + n)).extractLsb' (8 * o) 64)
    else if off - 0x100000 < b.kernel.scratch then .value (BitVec.ofNat 64 (memNat k.scratch (b.scratchBase + (off - 0x100000)) 8))
    else .open_

/-- A doubleword of the page of KADDR, translated in the context's address space and read at its home (05 R113). Under
host walking no walk is made, and the translation fails (18 R315; log 58). -/
def State.kaddrDword (s : State) (i off : Nat) : Seen :=
  let c := s.ctxAt i
  let va := c.kaddr.toNat / 4096 * 4096 + off
  if c.block.isNone || decide (2 ^ 57 ≤ va) || getB s.pkg.duty 0 then .terr
  else match (s.walkVa (dieOf i) c.part c.asid c.lkey va).1 with
    | .ok l => .value (BitVec.ofNat 64 (memNat s.mem (l.pa + (va - 4096 * l.page)) 8))
    | .error _ => .terr

/-- A doubleword of the window. -/
def State.windowDword (s : State) (i off : Nat) : Seen :=
  let c := s.ctxAt i
  if off = 0 then .value c.dctl
  else if 0x40 ≤ off ∧ off < 0x80 then .value (vget 0 c.bps ((off - 0x40) / 8))
  else if off = 0x80 then .value c.kaddr
  else if off < 0x100 then .value 0
  else if 0x300000 ≤ off ∧ off < 0x301000 then s.kaddrDword i (off - 0x300000)
  else if 0x200000 ≤ off then .value 0
  else if c.isHalted then s.stateDword i off
  else .value (BitVec.allOnes 64)

/-- DEBUG_KADDR_READ: a read of a doubleword of the window; `dwread` takes what it returns. A failed translation and
a busy tile read as all ones and set TERR and BUSY. -/
def execDebugKaddrRead (off : Nat) (s : State) : Out :=
  let i := s.pkg.selected
  let put (s : State) (w : Word) : State := s.modPkg (fun p => { p with dwread := w })
  match s.windowDword i (off / 8 * 8) with
  | .value w => .next (put s w)
  | .busy => .next ((put s (BitVec.allOnes 64)).modCtxAt i (fun c => { c with busyRead := true }))
  | .terr => .next ((put s (BitVec.allOnes 64)).modCtxAt i (fun c => { c with terr := true }))
  | .open_ => .next { put s (Config.freeWord s.free) with free := s.free + 1 }

/-! ### Writes through the window (19 R340, R342) -/

/-- A doubleword of a byte list. -/
def dwordBytes (v : Word) : List Byte := natBytes 8 v.toNat

/-- Writes a doubleword of the register section. -/
def RegFile.putDword (r : RegFile) (off : Nat) (v : Word) : RegFile :=
  if off < 256 then { r with s := vset r.s (off / 8) v }
  else if off < 320 then { r with p := vset r.p ((off - 256) / 8) (getB v 0) }
  else if off < 448 then
    let n := (off - 320) / 16
    { r with q := vset r.q n (setF (vget 0 r.q n) (8 * (off % 16)) 64 v.toNat) }
  else
    let n := (off - 448) / 512
    { r with v := vset r.v n (setF (vget 0 r.v n) (8 * ((off - 448) % 512)) 64 v.toNat) }

/-- Writes a doubleword of a scale buffer. -/
def Core.putKbuf (k : Core) (n o : Nat) (v : Word) : Core :=
  let x := vget .zero k.kbufs n
  { k with kbufs := vset k.kbufs n (if o < 16384 then { x with bytes := setF x.bytes (8 * o) 64 v.toNat }
                      else if o = 16384 then { x with bnd0 := v.extractLsb' 0 16, bnd1 := v.extractLsb' 16 16 } else x),
           bad := k.bad.filter (fun b => b != .scale n (o / 8)) }

/-- A section with a doubleword replaced. -/
def withWord (x off : Nat) (v : Word) : Nat := x - fieldAt x off 8 * 2 ^ (8 * off) + v.toNat * 2 ^ (8 * off)

/-- Writes a doubleword of a tile. -/
def Core.putTile (k : Core) (n o : Nat) (v : Word) : Core :=
  { k with tiles := vset k.tiles n (setF (vget 0 k.tiles n) (8 * o) 64 v.toNat) }

/-- A write of the state of a halted context. -/
def State.putState (s : State) (i off : Nat) (v : Word) : State :=
  let c := s.ctxAt i
  match c.block with
  | none => s
  | some b =>
    if off < 0x400 then s.modCtxAt i (fun c => c.writeSys s.ptime ((off - 0x100) / 8) v)
    else if off < 0x400 + 16832 then s.modCtxAt i (fun c => { c with regs := c.regs.putDword (off - 0x400) v })
    else if off < 0x8000 then s
    else if off < 0x8000 + 18176 then
      s.modCtxAt i (fun c => { c with tongs := Tongs.ofNat (withWord (fieldsNat c.tongsFields) (off - 0x8000) v) c.bnum })
    else if off < 0x8000 + 18176 + 2048 then
      s.modCtxAt i (·.loadControl s.ptime (withWord (fieldsNat (s.controlFields i)) (off - 0x8000 - 18176) v))
    else if off < 0x10000 then s
    else if off < 0x20000 then
      let e := (off - 0x10000) / 64
      s.modCtxAt i (fun c => { c with dict := tset c.dict e (setF (tget 0 c.dict e) (8 * (off % 64)) 64 v.toNat &&& dictBits) })
    else if off < 0x40000 then
      (if c.engineDeclared (off - 0x20000) then s.modCtxAt i (fun c => c.engineStore (off - 0x20000) v false) else s)
    else if off < 0x80000 then
      let n := (off - 0x40000) / 16448; let o := (off - 0x40000) % 16448
      if n < b.kernel.kbufs then
        s.modCoreAt (coreOf i) (·.putKbuf (b.kbufBase + n) o v)
      else s
    else if off < 0x100000 then
      let n := (off - 0x80000) / 0x8000; let o := (off - 0x80000) % 0x8000
      if n < b.kernel.tiles && !c.tileBusyNo n then
        s.modCoreAt (coreOf i) (·.putTile (b.tileBase + n) o v)
      else s
    else if off - 0x100000 < b.kernel.scratch then
      s.modCoreAt (coreOf i) (·.putBytes (b.scratchBase + (off - 0x100000)) (dwordBytes v))
    else s

/-- A write of a doubleword of the window: DCTL takes W1C of TERR and BUSY, and SQ. -/
def State.putWindow (s : State) (off : Nat) (v : Word) : State :=
  let i := s.pkg.selected
  if off = 0 then s.modCtxAt i (fun c => { c with terr := c.terr && !getB v 7, busyRead := c.busyRead && !getB v 6, sq := getB v 2 })
  else if 0x40 ≤ off ∧ off < 0x80 then
    s.modCtxAt i (fun c => { c with bps := vset c.bps ((off - 0x40) / 8) (setF v 55 8 0) })
  else if off = 0x80 then s.modCtxAt i (fun c => { c with kaddr := v })
  else if 0x100 ≤ off ∧ off < 0x200000 ∧ (s.ctxAt i).isHalted then s.putState i off v
  else s

end Sys2Proof.Machine
end

