-- ==== Sys2Proof/Machine/Registers.lean ====
section
/-! DEFINITION. Writes of device registers: those without a behaviour of their own, and the requests that a major
slot takes up (00 R5; 18 R299, R308, R309, R311, R313 to R316; 19 R317, R335, R337; 21 R358; 23 R367, R368). -/

namespace Sys2Proof.Machine

/-! ### Plain registers (00 R5) -/

/-- The address of a register whose low bits are reserved. -/
def baseOf (v : Word) (lo : Nat) : Word := setF v 0 lo 0

/-- A write of a register of a queue, by its offset in the queue's block (18 R299). The link-transfer queue
reserves OWN and RANK. A LOG2N outside 4 to 12 leaves LOG2N unchanged (log 34). -/
def Queue.putReg (u : Queue) (off : Nat) (v : Word) (xfer : Bool) : Queue :=
  match off with
  | 0x00 => if u.en then u else { u with base := baseOf v 6 }
  | 0x08 =>
    let n := getF v 8 4
    { u with en := getB v 17, own := getB v 16 && !xfer, rank := if xfer then 0 else getF v 0 6,
             log2n := if u.en ∨ n < 4 ∨ 12 < n then u.log2n else n }
  | 0x20 => if u.en then u else { u with cbase := baseOf v 4 }
  | 0x30 => { u with chead := getF v 0 12 }
  | _ => u

/-- A command register after a write of an OP that is reserved: the operand fields that it keeps, and ERR (18 R315;
log 34). -/
def Cmd.refuse (x : Cmd) (v : Word) (lo n : Nat) : Cmd := { x with err := true, arg := BitVec.ofNat 64 (getF v lo n * 2 ^ lo) }

/-- A write of a register of a virtual function. -/
def Part.putReg (p : Part) (off : Nat) (v : Word) : Part :=
  if off = 0x0008 then (if getF v 0 20 = 0 then p else { p with ageUs := getF v 0 20 })
  else if off = 0x0010 then { p with kill := getF v 32 32, drain := getF v 0 32 }
  else if off = 0x0018 then { p with grp := baseOf v 6 }
  else if off = 0x0020 then { p with fqBase := baseOf v 6 }
  else if off = 0x0030 then { p with nextq := getF v 0 6 }
  else if off = 0x0040 then { p with astBase := baseOf v 12 }
  else if off = 0x0048 then { p with nas := getF v 0 16 }
  else if off = 0x0058 then (if (1 ≤ getF v 0 4 ∧ getF v 0 4 ≤ 5) ∨ p.ctxcmd.busy then p else { p with ctxcmd := p.ctxcmd.refuse v 4 16 })
  else if off = 0x0060 then { p with ctxarg := v }
  else if off = 0x0068 then { p with ckBase := baseOf v 21 }
  else if off = 0x0070 then { p with ckCount := getF v 0 16 }
  else if off = 0x0098 then (if (1 ≤ getF v 0 4 ∧ getF v 0 4 ≤ 2) ∨ p.extcmd.busy then p else { p with extcmd := p.extcmd.refuse v 4 12 })
  else if 0x00A0 ≤ off ∧ off < 0x00C0 then { p with extdata := vset p.extdata ((off - 0xA0) / 8) v }
  else if 0x1000 ≤ off ∧ off < 0x2000 then p.modQueueAt ((off - 0x1000) / 64) (fun u => u.putReg (off % 64) v false)
  else if 0x2000 ≤ off ∧ off < 0x2040 then { p with xferq := p.xferq.putReg (off % 64) v true }
  else if 0x2100 ≤ off ∧ off < 0x2200 then
    let w := (off - 0x2100) / 16
    let x := tget { base := 0, w := false, r := false, pages := 0 } p.rx w
    if off % 16 = 0 then { p with rx := tset p.rx w { x with base := getF v 12 40, w := getB v 1, r := getB v 0 } }
    else { p with rx := tset p.rx w { x with pages := getF v 0 40 } }
  else p

/-- A write of a partition's shadow entry (18 R311). -/
def PartShadow.put (x : PartShadow) (d : Nat) (v : Word) : PartShadow :=
  if d = 0 then { x with cl := v.setWidth 32 }
  else if d ≤ 4 then { x with sl := vset x.sl (d - 1) v }
  else if d = 5 then { x with pcg := v }
  else if d = 6 then { x with noc := v }
  else x


/-- A write of a register of the physical function. -/
def Package.putReg (p : Package) (off : Nat) (v : Word) : Package :=
  if 0x3100 ≤ off ∧ off < 0x3128 then { p with wtroot := vset p.wtroot ((off - 0x3100) / 8) (baseOf v 12) }
  else if off = 0x3200 then { p with dwsel := setF v 12 52 0 }
  else if off = 0x3290 then { p with mscalh0 := setF (setF v 52 12 0) 1 7 0 }
  else if off = 0x3298 then { p with mscalh1 := setF (setF v 53 11 0) 0 4 0 }
  else if 0x4000 ≤ off ∧ off < 0x6000 then
    let k := off % 0x1000 / 64
    if 16 ≤ k then p else { p with rxPart := tset p.rxPart k ((tget PartShadow.reset p.rxPart k).put (off % 64 / 8) v) }
  else if off = 0x3500 then
    (if (1 ≤ getF v 4 4 ∧ getF v 4 4 ≤ 3) ∨ !getB p.duty 3 ∨ p.link.busy then p else { p with link := p.link.refuse v 0 4 })
  else if 0x6000 ≤ off ∧ off < 0x7000 then { p with buffer := setF p.buffer (8 * (off - 0x6000)) 64 v.toNat }
  else p

/-! ### The command engine's registers (24 R375, R378, R379) -/

/-- DEVST (24 R375). A reset leaves every field 0; the codes of STATE are 1 booting, 2 self test, 3 ready, 4 safe. -/
def Package.devst (p : Package) : Word :=
  let st := match p.dev with
    | .off | .start => 0
    | .booting => 1
    | .selfTest => 2
    | .ready => 3
    | .safe => 4
  BitVec.ofNat 64 (p.fail % 2 ^ 16 * 2 ^ 16 + p.stage % 2 ^ 8 * 2 ^ 8 + st)

/-- Whether the engine performs an operation in this cycle (log 35). -/
def Package.engineBusy (p : Package) (now : Nat) : Bool := match p.mbOp with | some (_, t) => t == now | none => false

/-- MBCMD: GO reads 1 while the engine is busy. -/
def Package.mbcmd (p : Package) (now : Nat) : Word := BitVec.ofNat 64 (bit (p.engineBusy now) * 2 ^ 63 + p.mbOpcode.toNat)

/-- MBSTS. -/
def Package.mbsts (p : Package) : Word := BitVec.ofNat 64 (p.mbSts % 256)

/-- What a private read of the I3C target returns: MBSTS and the buffer; without power it does not answer (24 R376). -/
def Package.privateRead (p : Package) : List Byte :=
  if p.dev = .off then [] else natBytes 8 p.mbsts.toNat ++ natBytes 4096 p.buffer.toNat

/-- Whether an event starts an operation through the mailbox. -/
def mailboxStart : Instr → Bool
  | .readFailureRecords p | .attest p | .readMeasurements p | .readTelemetry p | .resetTheDevice p
  | .readIdentityPublicKey p | .raiseFusedSvnMinimum p => p == .mailbox
  | .registerWrite (.pf off) v => off / 8 * 8 == 0x3800 && getB v 63
  | _ => false

/-- Whether a mailbox start reaches the engine later in this cycle. -/
def mailboxComing : List Turn → Bool
  | [] => false
  | .tick :: _ => false
  | .event i :: t => mailboxStart i || mailboxComing t
  | .issue :: t | .place :: t | .pick :: t | .done :: t | .upset _ :: t => mailboxComing t

/-- Whether a start finds the engine busy: another start of this cycle has been taken, or is taken first. -/
def State.engineBusy (s : State) (p : CmdPath) : Bool :=
  s.pkg.engineBusy s.ptime || (p == .i3c && mailboxComing s.agenda)

/-- A write of MBCMD that starts no operation of 24 R378: GO = 0, or an operation that is not there, which ends with
STATUS 1. The operations 1 to 7 are steps of their own. -/
def State.mbWrite (s : State) (path : CmdPath) (v : Word) : State :=
  let op := getF v 0 16
  if !getB v 63 then s.modPkg (fun p => { p with mbOpcode := v.setWidth 16 })
  else if 1 ≤ op ∧ op ≤ 7 then s
  else if s.engineBusy path then s.modPkg (fun p => { p with mbSts := 2 })
  else s.modPkg (fun p => { p with mbOp := some (path, s.ptime), mbOpcode := v.setWidth 16, mbSts := if p.dev = .safe then 3 else 1 })

/-- REGISTER_WRITE: a doubleword write of a register that has no behaviour of its own. Reserved bits are ignored;
registers that are read-only or absent keep their value. Registers of virtual functions and of the debug window are in
service once bring-up is complete (24 R374); NumVFs keeps its value in the safe state (24 R376). -/
def execRegisterWrite (r : HostReg) (v : Word) (s : State) : Out :=
  .next (
    if s.pkg.dev = .off then s
    else match r with
      | .vf part off => if s.serves part then s.modPartAt part (·.putReg (off / 8 * 8) v) else s
      | .pf off => if off / 8 * 8 = 0x3800 then s.mbWrite .mailbox v else s.modPkg (·.putReg (off / 8 * 8) v)
      | .window off => if s.pkg.dev = .ready then s.putWindow (off / 8 * 8) v else s
      | .numVFs => if s.powered then s.modPkg (fun p => { p with numVFs := getF v 0 16 }) else s
      | .i3c => s.mbWrite .i3c v)

/-! ### Partitions (18 R309, R311 to R313) -/

/-- The partitions that have a shape or a shadow of one. -/
def State.partNos (s : State) : List Nat :=
  (range 0 16).filter (fun p => s.parts.any (fun e => e.1 == p) || s.pkg.rxPart.any (fun e => e.1 == p))

/-- Whether two shadows share a cluster, a slice or a pseudo-channel group. -/
def PartShadow.overlaps (a b : PartShadow) : Bool :=
  a.cl &&& b.cl != 0 || a.pcg &&& b.pcg != 0 || (range 0 4).any (fun d => vget 0 a.sl d &&& vget 0 b.sl d != 0)

/-- Whether a shadow gives a slice on every die on which it gives a group (18 R312). -/
def PartShadow.served (a : PartShadow) : Bool :=
  (range 0 4).all (fun d => getF a.pcg (16 * d) 16 == 0 || vget 0 a.sl d != 0)

/-- Whether the shadows pass the checks of RESIZE. -/
def State.shadowsOk (s : State) : Bool :=
  let l := s.partNos.map (fun p => (p, tget PartShadow.reset s.pkg.rxPart p))
  l.all (fun a => a.2.served && l.all (fun b => a.1 == b.1 || !a.2.overlaps b.2))

/-- The choice of R307 for the block of context `i` and its gang, with the most tokens; a choice that it had before is made
anew. A kill waits for the block's next yield point (18 R313). -/
def State.moveChoice (s : State) (i : Nat) : State :=
  let mates := s.mates i
  let set (x : Preempt) (s : State) : State := mates.foldl (fun s j => s.modCtxAt j (fun c => { c with preempt := x })) s
  if (s.ctxAt i).block.isNone ∨ mates.head? ≠ some i ∨ !s.clusterMoves (s.ctxAt i).part (coreOf i) then s
  else
    let s := set .none s
    match s.preemptChoice i (2 ^ 32 - 1) with
    | .go => s
    | .drain => set .drain s
    | .kill => set .kill s
    | .checkpoint => set .checkpoint s

/-- RESIZE: the shadows are to take effect, and every block on a cluster that changes owner takes its choice; or they are
refused. -/
def execResize (s : State) : Out :=
  if !s.powered then .next s
  else if s.shadowsOk then
    let s := s.modPkg (fun p => { p with resize := true, resizeErr := false })
    .next (s.ctxs.foldl (fun t e => t.moveChoice e.1) s)
  else .next (s.modPkg (fun p => { p with resizeErr := true }))

/-- SVCREQ: MODE is written, and with REQ = 1 a change of the partition's service mode to it is requested; mode 1 is refused.
A write of 0 to REQ, and a refused one, take no request back (log 34). -/
def execSvcreq (part : Nat) (v : Word) (s : State) : Out :=
  if !s.serves part then .next s
  else .next (s.modPartAt part (fun p =>
    let m := getF v 0 2
    if !getB v 63 then { p with svcMode := m }
    else if m = 1 then { p with svcMode := m, svcErr := true }
    else { p with svcMode := m, svcErr := false, svcReq := true, svcWant := m }))

/-- SVCREQ as it reads. -/
def Part.svcreq (p : Part) : Word := BitVec.ofNat 64 (bit p.svcReq * 2 ^ 63 + bit p.svcErr * 2 ^ 62 + p.svcMode % 4)

/-- RETIRE: PCH is written, and with REQ = 1 the retirement of the pseudo-channel is requested, or refused when it is
retired already. A PCH of nine bits lies in 0 to 511. A write of 0 to REQ, and a refused one, take no request back; each
channel requested before the slot is retired (log 34). -/
def execRetire (v : Word) (s : State) : Out :=
  let p := getF v 0 9
  if !s.powered then .next s
  else .next (s.modPkg (fun k =>
    if !getB v 63 then { k with retirePch := p }
    else if k.retired.contains p then { k with retirePch := p, retireErr := true }
    else { k with retirePch := p, retireErr := false,
                  retireReq := if k.retireReq.contains p then k.retireReq else k.retireReq ++ [p] }))

/-- RETIRE as it reads. -/
def Package.retire (p : Package) : Word :=
  BitVec.ofNat 64 (bit (!p.retireReq.isEmpty) * 2 ^ 63 + bit p.retireErr * 2 ^ 62 + p.retirePch % 512)

/-- DUTY_SPLIT: the modes that are to hold from the next major slot (18 R314). -/
def execDutySplit (v : Word) (s : State) : Out :=
  .next (if s.powered then s.modPkg (fun p => { p with dutyNew := some (v.setWidth 6) }) else s)

/-! ### Links and rows at the host's request (18 R315) -/

/-- A command to a link waits for the next major slot; a link above 11 is refused. Without LINK = 1, or while a
command waits, a command has no effect (log 34). -/
def State.linkCommand (s : State) (op l : Nat) : State :=
  if !s.powered || !getB s.pkg.duty 3 || s.pkg.link.busy then s
  else if 12 ≤ l then s.modPkg (fun p => { p with link := { p.link with err := true } })
  else s.modPkg (fun p => { p with link := { busy := true, err := false, arg := BitVec.ofNat 64 (op * 16 + l) } })

def execLinkcmdRetrain (l : Nat) (s : State) : Out := .next (s.linkCommand 1 l)
def execLinkcmdTakeDown (l : Nat) (s : State) : Out := .next (s.linkCommand 2 l)
def execLinkcmdBringUp (l : Nat) (s : State) : Out := .next (s.linkCommand 3 l)

/-- The number of a row: PCH, BG, BANK, ROW from bit 0 up, as REPCMD holds them. -/
def rowNo (pa : Nat) : Nat := pchOf pa + bgOf pa * 2 ^ 9 + bankOf pa * 2 ^ 12 + rowOf pa * 2 ^ 14
/-- The stack of a row number. -/
def rowStack (r : Nat) : Nat := r % 512 / 64

/-- Spare rows that a stack has left. -/
def Package.sparesLeft (p : Package) (stack : Nat) : Nat :=
  Config.spareRows stack - (p.repaired.filter (fun r => rowStack r == stack)).length

/-- REPCMD: a repair of a recorded candidate waits for the next major slot. -/
def execRepcmd (v : Word) (s : State) : Out :=
  let r := getF v 0 32
  if !s.powered || !getB s.pkg.duty 4 || s.pkg.rep.busy then .next s
  else if !s.pkg.candidates.contains r || s.pkg.sparesLeft (rowStack r) == 0 then
    .next (s.modPkg (fun p => { p with rep := { p.rep with err := true, arg := BitVec.ofNat 64 r } }))
  else .next (s.modPkg (fun p => { p with rep := { busy := true, err := false, arg := BitVec.ofNat 64 r } }))

end Sys2Proof.Machine
end

