-- ==== Sys2Proof/Machine/Maintenance.lean ====
section
/-! DEFINITION. Quench slots as they open and end: scrub, sweeps, what a major slot carries, forced refreshes
(18 R309, R313 to R315; 21 R347 to R358; 23 R366, R370, R372; 24 R382 to R384). -/

namespace Sys2Proof.Machine

/-! ### Bank-group slots and scrub (21 R348, R356; 24 R382) -/

/-- Cycles of 24 hours. -/
def dayTicks : Nat := 24 * 3600 * 600000000

/-- A line that scrub corrects is counted; a row with two such lines within 24 hours is a repair candidate. -/
def Package.scrubFixed (p : Package) (now l : Nat) : Package :=
  let k := rowStack (rowNo (64 * l))
  let old := p.rowLines.filter (fun e => e.1 != l && decide (now ≤ e.2 + dayTicks))
  let row := rowNo (64 * l)
  let twice := old.any (fun e => rowNo (64 * e.1) == row)
  { p with corrected := vset p.corrected k (vget 0 p.corrected k + 1), rowLines := (l, now) :: old,
           candidates := if twice && !p.candidates.contains row then p.candidates ++ [row] else p.candidates }

/-- The partition that owns the pseudo-channel group of an HBM address. -/
def State.groupOwner (s : State) (pa : Nat) : Option Nat := (s.parts.find? (fun e => e.2.owns pa)).map (fun e => e.1)

/-- A line that scrub cannot correct raises 0x19 in its readers, and a record goes to its owner (24 R381, R383). -/
def State.scrubLost (s : State) (l : Nat) : State :=
  let k := rowStack (rowNo (64 * l))
  let s := s.modPkg (fun p => { p with uncorrected := vset p.uncorrected k (vget 0 p.uncorrected k + 1),
                                       poisoned := if p.poisoned.contains l then p.poisoned else l :: p.poisoned })
  match s.groupOwner (64 * l) with
  | some q => s.postPkg q { s.pkgRec 0x19 5 0 with tval := BitVec.ofNat 64 (64 * l) }
  | none => s

/-- A free value decides which lines of a bank group a slot's scrub reaches (log 14). -/
def metFree (k : Nat) : Bool := (Config.freeWord k).toNat % 2 == 1

/-- The pass of patrol scrub that runs: one in every 24 hours. -/
def State.pass (s : State) : Nat := s.ptime / dayTicks

/-- Whether the running pass has met a line that stands in error. -/
def State.met (s : State) (l : Nat) : Bool := s.pkg.scrubbed.contains (l, s.pass)

/-- The scrub reaches a line that cannot be corrected. -/
def State.scrubMeets (s : State) (l : Nat) : State :=
  let s := s.scrubLost l
  s.modPkg (fun p => { p with scrubbed := (l, s.pass) :: p.scrubbed.filter (fun e => e.1 != l) })

/-- Whether group `g` of a pseudo-channel is in a slot now. -/
def State.bgInSlot (s : State) (p g : Nat) : Bool :=
  let c := s.pkg.cal
  let q := s.pchCal p
  let t := c.bgAt g (c.bgOpen g s.ptime)
  decide (t ≤ s.ptime) && q.opens c g t

/-- Whether the group has no slot after this one in the pass of scrub that runs. -/
def State.lastOfPass (s : State) (g : Nat) : Bool :=
  decide ((s.pass + 1) * dayTicks ≤ s.pkg.cal.bgAt g (s.pkg.cal.bgOpen g s.ptime) + s.pkg.cal.bgper)

/-- Whether a line is of a bank group. -/
def inGroup (p g l : Nat) : Bool := isHbm (64 * l) && pchOf (64 * l) == p && bgOf (64 * l) == g

/-- The lines of a group that stand in error, which the scrub of a slot reaches: each line once in a pass, in a slot that
the spec leaves open (24 R382). -/
def State.scrubLines (s : State) (p g : Nat) : State :=
  (s.pkg.poisoned.filter (fun l => inGroup p g l && !s.met l)).foldl (fun s l =>
    if s.lastOfPass g || metFree s.free then ({ s with free := s.free + 1 } : State).scrubMeets l
    else { s with free := s.free + 1 }) s

/-- BANK_GROUP_SLOT: the group's banks are refreshed and scrubbed; `bad` lists lines in which scrub meets a new error,
and whether it corrects them. A refresh and a correction change no line (21 R356). -/
def execBankGroupSlot (p g : Nat) (bad : List (Nat × Bool)) (s : State) : Out :=
  if !s.powered || !s.bgInSlot p g then .next s
  else .next ((bad.foldl (fun s e =>
    if !inGroup p g e.1 then s
    else if e.2 then s.modPkg (·.scrubFixed s.ptime e.1) else s.scrubMeets e.1) s).scrubLines p g)

/-! ### Drain leads, sweeps, forced refreshes (21 R350, R352, R355) -/

/-- DRAIN_LEAD: requests to the slot's lines are held from now on. Which requests are held is a function of the
calendar and PTIME (`State.startAt`); nothing else changes. -/
def execDrainLead (s : State) : Out := .next s

/-- SWEEP_SLOT: the sensor sweep of the stack whose slot is open reads its temperature. -/
def execSweepSlot (temp : Nat) (s : State) : Out :=
  let c := s.pkg.cal
  let half := 2 ^ (c.swlog - 1)
  let n := (s.ptime - half) / 2 ^ c.swlog
  if !s.powered ∨ s.ptime < half ∨ n * 2 ^ c.swlog + half + c.swlen ≤ s.ptime then .next s
  else .next (s.modPkg (fun p => { p with temps := vset p.temps (n % 8) temp }))

/-- FORCED_ALL_BANK_REFRESH: when the forced refresh of a pseudo-channel has run, its deferrals are gone and its
allowances whole. -/
def execForcedAllBankRefresh (p : Nat) (s : State) : Out := .next (s.setPch p (s.pchCal p))

/-! ### The calendar that a major slot brings (18 R315, 21 R349) -/

/-- HOT from the latest sweep readings. -/
def Package.newHot (p : Package) : Bool :=
  if (range 0 8).any (fun k => decide (85 ≤ vget 0 p.temps k)) then true
  else if (range 0 8).all (fun k => decide (vget 0 p.temps k < 80)) then false
  else p.cal.hot

/-- The calendar of R347 for a value of HOT. -/
def calOfHot (hot : Bool) : Cal :=
  { Cal.reset with hot := hot, bgper := if hot then 1170 else 2340, bgstep := if hot then 144 else 288, bgph := if hot then 6 else 12 }

/-- The calendar that a pair of registers describes. -/
def calOf (a b : Word) : Cal :=
  { bgper := getF a 40 12, bglen := getF a 28 12, bgstep := getF a 16 12, bgph := getF a 8 8, hot := getB a 0,
    mjlog := getF b 48 5, mjlen := getF b 37 11, swlog := getF b 32 5, swlen := getF b 25 7, ablen := getF b 16 9,
    defmax := getF b 12 4, lead := getF b 4 8 }

/-- The checks of the shadow pair under CAL = 1. -/
def Package.calOk (p : Package) (c : Cal) : Bool :=
  let warm := c.hot || (range 0 8).any (fun k => decide (85 ≤ vget 0 p.temps k))
  decide (144 ≤ c.bglen ∧ c.bglen ≤ c.bgstep ∧ c.bgph + 7 * c.bgstep + c.bglen ≤ c.bgper)
    && decide (c.bgper ≤ 2340) && (!warm || decide (c.bgper ≤ 1170))
    && decide (16 ≤ c.mjlog ∧ c.mjlog ≤ 24 ∧ 12 ≤ c.swlog ∧ c.swlog ≤ c.mjlog - 1)
    && decide (64 ≤ c.swlen ∧ 1536 ≤ c.mjlen ∧ 420 ≤ c.ablen)
    && decide (c.mjlen + c.lead < 2 ^ (c.swlog - 1) ∧ c.swlen + c.lead < 2 ^ (c.swlog - 1))
    && decide (c.defmax ≤ 8 ∧ 48 ≤ c.lead)

/-- What the slot's end is to install as the calendar. -/
def Package.nextCal (p : Package) : Package :=
  if getB p.duty 2 then
    let c := calOf p.mscalh0 p.mscalh1
    if p.calOk c then { p with calNext := some c, mscalhErr := false } else { p with calNext := none, mscalhErr := true }
  else { p with calNext := some (calOfHot p.newHot) }

/-! ### Rows, links, power, telemetry (21 R357; 23 R366, R370, R372; 24 R382 to R384) -/

/-- Repairs a row while a spare is left; no line changes. A row may be repaired again, by a further spare; the lines that
were corrected in the row it replaces no longer count (log 14). -/
def Package.repair (p : Package) (r : Nat) : Package :=
  if p.sparesLeft (rowStack r) = 0 then p
  else { p with repaired := r :: p.repaired, candidates := p.candidates.filter (fun x => x != r),
                rowLines := p.rowLines.filter (fun e => rowNo (64 * e.1) != r) }

/-- The repairs of a major slot: every candidate, or under REPAIR = 1 the row that the host asked for. -/
def Package.repairs (p : Package) : Package :=
  if getB p.duty 4 then
    (if p.rep.busy then { p.repair p.rep.arg.toNat with rep := { p.rep with busy := false } } else p)
  else p.candidates.foldl Package.repair p

/-- A link after training: sequence numbers start anew, and flits that no ACK has covered are sent again (23 R365). -/
def Link.trained (l : Link) (up : Bool) : Link :=
  if !up then { l with up := false }
  else if l.up then l
  else (l.replay.map fCargo).foldl (fun l c => l.send c none)
    { Link.reset with up := true, retries := l.retries, failover := l.failover, carried := l.carried, waits := l.waits,
                      skid := l.skid }

/-- A heartbeat goes out on lane 3 of a link that takes it (23 R372). -/
def Link.beat (l : Link) (dev : Nat) : Link :=
  if l.takes 3 1 then l.send { lane := 3, dev := dev, addr := Config.laneWord true, lines := [] } none else l

/-- What a major slot does to link `i`: a lost neighbour's link is retired; it is trained, by the package controller,
or as the host asks; its partner carries its traffic while it is down; a heartbeat is due. -/
def Package.linkSlot (p : Package) (good : BitVec 12) (i : Nat) : Package :=
  let l := p.linkAt i
  let op := if p.link.busy && getF p.link.arg 0 4 == i then getF p.link.arg 4 4 else 0
  let up := if l.lost then false
    else if !getB p.duty 3 then getB good i
    else match op with
      | 1 => l.up && getB good i
      | 2 => false
      | 3 => getB good i
      | _ => l.up
  let l := l.trained up
  p.setLink i ({ l with failover := !l.up, lost := false, missed := l.missed + 1 }.beat (p.neighbour i))

/-- The links in a major slot. -/
def Package.linkSlots (p : Package) (good : BitVec 12) : Package :=
  let p := (range 0 12).foldl (fun p i => p.linkSlot good i) p
  { p with link := { p.link with busy := false } }

/-- The readings of the telemetry block, in the order of R383, and the recorded repair candidates (18 R315). -/
def Package.telemetry (p : Package) : List Nat :=
  (range 0 8).flatMap (fun k => [vget 0 p.corrected k, vget 0 p.uncorrected k,
      (p.repaired.filter (fun r => rowStack r == k)).length, p.sparesLeft k, vget 0 p.temps k]) ++ [bit p.cal.hot]
    ++ (range 0 12).flatMap (fun i => [(p.linkAt i).retries, bit (!(p.linkAt i).up)])
    ++ (range 0 4).map (fun i => bit (!(vget Port.reset p.ports i).up))
    ++ p.offsets.map (fun x => (BitVec.ofInt 64 x).toNat) ++ [bit p.offsetFlag, p.meanPower, p.sramFixed] ++ p.candidates

/-- What a major slot does in the package: duties, repairs, links, the offset check, the power hold, the calendar
to come, telemetry. -/
def Package.majorSlot (p : Package) (m : MajorInput) : Package :=
  let p := { p with duty := p.dutyNew.getD p.duty, dutyNew := none }
  let p := (p.repairs.linkSlots m.linksUp).nextCal
  let p := { p with meanPower := m.meanPower, hold := decide (3600 < m.meanPower), offsets := m.offsets,
                    offsetFlag := m.offsets.any (fun x => decide (2 < x ∨ x < -2)) }
  { p with telem := p.telemetry }

/-! ### Retirement and resizing (18 R313, 21 R358) -/

/-- Whether an extent maps a frame of a pseudo-channel. -/
def Extent.maps (e : Extent) (pch : Nat) : Bool :=
  (sampleFrames (4096 * e.pb) e.npg).any (fun f => isHbm f && pchOf f == pch)

/-- Every extent that a test names goes from a context, and the answers of walks that formed one with it. -/
def Ctx.forget (c : Ctx) (gone : Extent → Bool) : Ctx :=
  { c.dropExtents gone with walked := c.walked.filter (fun w => w.cause != 0 || !gone w.ext) }

/-- Installs the requested retirements: no frame of the pseudo-channels is backed, and every extent that maps one goes, in
saved contexts as well. -/
def State.installRetire (s : State) : State :=
  let l := s.pkg.retireReq
  let gone (e : Extent) : Bool := l.any e.maps
  if l.isEmpty then s
  else
    let s := s.modPkg (fun k => { k with retired := l ++ k.retired, retireReq := [] })
    { s with ctxs := s.ctxs.map (fun c => (c.1, c.2.forget gone)),
             parts := s.parts.map (fun e => (e.1, { e.2 with
               images := e.2.images.map (fun m => (m.1, { m.2 with ctx := m.2.ctx.forget gone })) })) }

/-- Whether a cluster that changes owner still holds a block. -/
def State.moving (s : State) : Bool :=
  s.ctxs.any (fun c => c.2.block.isSome && s.clusterMoves c.2.part (coreOf c.1))

/-- Takes a shadow into force. -/
def Part.shape (p : Part) (x : PartShadow) : Part := { p with cl := x.cl, sl := x.sl, pcg := x.pcg, noc := x.noc }

/-- Installs the shadows once the clusters that change owner are empty. -/
def State.installShapes (s : State) : State :=
  if !s.pkg.resize || s.moving then s
  else
    let s' := s.partNos.foldl (fun t p => t.modPartAt p (·.shape (tget PartShadow.reset s.pkg.rxPart p))) s
    s'.modPkg (fun p => { p with resize := false, pfVectors := 0 :: p.pfVectors })

/-! ### Service modes (18 R309) -/

/-- The modes that the end of a major slot is to install. -/
def State.newModes (s : State) : List (Nat × Nat) :=
  (range 0 16).filterMap (fun k =>
    let p := s.partAt k
    if p.wantRecovery then some (k, 3)
    else if p.svcReq then some (k, p.svcWant)
    else if p.mode = 1 then some (k, 0) else none)

/-- A partition's mode is installed; a request that was taken up clears. -/
def Part.takeMode (p : Part) (m : Nat) : Part :=
  if p.wantRecovery ∧ m = 3 then { p with mode := 3, wantRecovery := false }
  else { p with mode := m, svcReq := p.svcReq && p.svcWant != m }

/-! ### The slot -/

/-- The opening of the major slot that is open now. -/
def State.majorOpen (s : State) : Option Nat :=
  let o := s.ptime / 2 ^ s.pkg.cal.mjlog * 2 ^ s.pkg.cal.mjlog
  if s.ptime < o + s.pkg.cal.mjlen then some o else none

/-- MAJOR_SLOT: a major slot opens, and carries what only it may carry, in a device that is in service. -/
def execMajorSlot (m : MajorInput) (s : State) : Out :=
  match s.majorOpen with
  | none => .next s
  | some o =>
    if s.pkg.majorT = some o ∨ s.pkg.dev ≠ .ready then .next s
    else
      let s := s.modPkg (fun p => { p with majorT := some o, endT := some (o + p.cal.mjlen) })
      let s := s.modPkg (·.majorSlot m)
      let s := s.installRetire.installShapes
      .next (s.modPkg (fun p => { p with modesNext := s.newModes }))

/-- The calendar and its shadow registers once the slot has ended. -/
def Package.takeCal (p : Package) : Package :=
  match p.calNext with
  | some c => { p with cal := c, calNext := none }
  | none => p

/-- SLOT_END: a quench slot ends. At the end of a major slot its calendar and modes come into force; held requests
start in their order, by the time that `State.startAt` gives them. -/
def execSlotEnd (s : State) : Out :=
  match s.pkg.endT with
  | none => .next s
  | some t =>
    if s.ptime < t then .next s
    else
      let s' := s.pkg.modesNext.foldl (fun s e => s.modPartAt e.1 (·.takeMode e.2)) s
      .next (s'.modPkg (fun p => { p.takeCal with endT := none, modesNext := [] }))

end Sys2Proof.Machine
end

