-- ==== Sys2Proof/Machine/Links.lean ====
section
/-! DEFINITION. Flits received, link transfers, peer requests and lost neighbours (23 R363 to R372). -/

namespace Sys2Proof.Machine

/-! ### Lost links (18 R309; 23 R365, R372) -/

/-- A record of a link to every partition whose traffic it carried, which then asks for recovery service. The spec
states no CODE for it: a free value (log 19). -/
def State.linkLost (s : State) (i : Nat) : State :=
  let code := (Config.freeWord s.free).toNat % 256
  let s := { s with free := s.free + 1 }
  (s.pkg.linkAt i).carried.foldl (fun s p =>
    (s.postPkg p (s.pkgRec code 4 0)).modPartAt p (fun q => { q with wantRecovery := true })) s

/-- HEARTBEAT_LOSS: eight heartbeats of a link's neighbour are missing. That of the latest slot may still come, so nine
slots have opened since one was heard. -/
def execHeartbeatLoss (i : Nat) (s : State) : Out :=
  let l := s.pkg.linkAt i
  if 12 ≤ i ∨ l.missed ≤ 8 ∨ l.lost ∨ !l.up then .next s
  else .next ((s.modPkg (fun p => p.setLink i { l with lost := true })).linkLost i)

/-- Updates link `i`. -/
def State.modLink (s : State) (i : Nat) (f : Link → Link) : State := s.modPkg (fun p => p.setLink i (f (p.linkAt i)))

/-! ### What a flit brings to its device (23 R366, R369) -/

/-- The read that lines received on link `i` answer: the earliest of those lines from that direction (log 36). -/
def Package.readFor (p : Package) (i : Nat) (addr : Word) (n : Nat) : Option PeerRead :=
  p.peerReads.find? (fun r => p.facing r.dev == some (i / 2) && r.addr == addr.toNat && r.lines == n)

/-- A read has been answered. -/
def State.readDone (s : State) (r : PeerRead) : State := s.modPkg (fun p => { p with peerReads := p.peerReads.erase r })

/-- The transfer under way of a partition, if its number is `no` and no status has ended it. -/
def State.xferOf (s : State) (p no : Nat) : Option Transfer :=
  match (s.partAt p).xfer with | some t => if t.no = no ∧ t.status = none then some t else none | none => none

/-- No lines of link `i` wait at their homes. -/
def State.answersDone (s : State) (i : Nat) : State :=
  { s with late := s.late.filter (fun e => match e.2 with | .answer k _ _ => k != i | _ => true) }

/-- Lines that a peer's answer brings to the transfer that asked for them, in address order; those that a transfer which has
ended asked for go nowhere. The flag says whether they wait at their homes (21 R352). -/
def State.takeLines (s : State) (i : Nat) (addr : Word) (ls : List Line) : State × Bool :=
  match s.pkg.readFor i addr ls.length with
  | none => (s.answersDone i, false)
  | some r => match s.xferOf r.part r.no with
    | none => ((s.answersDone i).readDone r, false)
    | some t =>
      let pa := t.loc + 64 * t.done
      let o := Outside.answer i pa (64 * ls.length)
      if s.lateHeld o then (s.lateWaits o, true)
      else
        let bs := ls.flatMap (fun l => natBytes 64 l.toNat)
        let s := (((s.answersDone i).readDone r).outsideWrite false 0xFFFFFFFE pa bs.length bs).modLink i (·.carry (some r.part))
        (s.modPartAt r.part (fun q => { q with xfer := some { t with done := t.done + ls.length } }), false)

/-- An answer without lines: the peer has performed lines of a transfer, or a STATUS ends it; one for a transfer that has ended
changes none. A read that is refused has been answered. -/
def State.takeAnswer (s : State) (i : Nat) (w : Word) : State :=
  let (p, no, st, n) := Config.responseWord w
  let s := s.modLink i (·.carry (some p))
  let s := match if st = 0 then none else s.pkg.peerReads.find? (fun r => r.part == p && r.no == no) with
    | some r => s.readDone r
    | none => s
  match s.xferOf p no with
  | none => s
  | some t => s.modPartAt p (fun q =>
    if st ≠ 0 then { q with xfer := some { t with status := some (if st = 4 then 4 else 3) } }
    else if t.op = 1 then { q with xfer := some { t with done := Nat.min t.sent (t.done + n) } }
    else q)

/-- Lines of a contribution from another device; a whole contribution is given to its collective. A flit without lines
says that its member gives none. A result is what this device forms of the contributions itself (log 36). -/
def State.takePart (s : State) (i : Nat) (w : Word) (ls : List Line) : State :=
  let (p, g, k, m, op, size, result) := Config.collWord w
  let cl := s.collOf p g k
  let old := match cl.recv.find? (fun e => e.1 == m) with | some e => e.2 | none => []
  let x := old ++ ls.flatMap (fun l => natBytes 64 l.toNat)
  let n := (s.groupMembers p g).1
  let rest : Coll := { cl with recv := cl.recv.filter (fun e => e.1 != m) }
  let s := s.modLink i (·.carry (some p))
  if result ≠ 0 then s
  else if ls.isEmpty then s.setColl n (rest.give m op size s.ptime none)
  else if x.length < size then s.setColl n { rest with recv := (m, x) :: rest.recv }
  else s.setColl n (rest.give m op size s.ptime (some (x.take size)))

/-- What a flit for this device brings, and whether it waits in the skid buffer: a request for its PEER_REQUEST, lines for
their homes. Of lane 3, a heartbeat counts (23 R372). -/
def State.takeOwn (s : State) (i : Nat) (f : BitVec 2048) : State × Bool :=
  let ls := fLines f
  match fLane f with
  | 0 => (s, true)
  | 1 => if ls.isEmpty then (s.takeAnswer i (fAddr f), false) else s.takeLines i (fAddr f) ls
  | 2 => (s.takePart i (fAddr f) ls, false)
  | _ => (if fAddr f = Config.laneWord true then s.modLink i (fun l => { l with missed := 0 }) else s, false)

/-- Sends a cargo on, or says that it waits. -/
def State.sendOn (s : State) (c : Cargo) : State × Bool :=
  match s.sendAll none [c] with | some t => (t, false) | none => (s, true)

/-- A flit to a device that no link leads to goes no further. A request among them is answered with STATUS 4, for which it
waits; a flit does not name its sender, so the destination of the answer is a free value (log 36). -/
def State.unreachable (s : State) (f : BitVec 2048) : State × Bool :=
  if fLane f ≠ 0 then (s, false)
  else
    let c : Cargo := { lane := 1, dev := (Config.freeWord s.free).toNat % 8192, addr := Config.freeWord (s.free + 1), lines := [] }
    let s := { s with free := s.free + 2 }
    if s.pkg.route c.dev = .gone then (s, false) else s.sendOn c

/-- A flit that stands in a skid buffer goes to its device, or on towards it, or waits. Lane 3 is the link's own. -/
def State.passFlit (s : State) (i : Nat) (f : BitVec 2048) : State × Bool :=
  if fDev f = s.pkg.devNum ∨ fLane f = 3 then s.takeOwn i f
  else match s.pkg.route (fDev f) with
    | .gone => s.unreachable f
    | _ => s.sendOn (fCargo f)

/-- Flits pass as they can, those of a device in order: what is left of them. -/
def State.passBy (s : State) (pass : State → BitVec 2048 → State × Bool) (fs : List (BitVec 2048)) : State × List (BitVec 2048) :=
  fs.foldl (fun (s, keep) f =>
    if keep.any (fun g => fDev g == fDev f) then (s, keep ++ [f])
    else match pass s f with
      | (t, true) => (t, keep ++ [f])
      | (t, false) => (t, keep)) (s, [])

/-- The flits of a lane leave a skid buffer as they can; those for this device in order. -/
def State.passFlits (s : State) (i : Nat) (fs : List (BitVec 2048)) : State × List (BitVec 2048) :=
  s.passBy (fun s f => s.passFlit i f) fs

def State.passLane (s : State) (i lane : Nat) : State :=
  let (t, keep) := s.passFlits i (vget [] (s.pkg.linkAt i).skid lane)
  t.modLink i (fun l => { l with skid := vset l.skid lane keep })

/-! ### Receiving a flit (23 R363 to R365, R371) -/

/-- A flit enters the skid buffer of its lane. -/
def Link.hold (l : Link) (f : BitVec 2048) : Link := { l with skid := vset l.skid (fLane f) (vget [] l.skid (fLane f) ++ [f]) }

/-- What the ACK, NAK and ON fields of a flit in order tell the sender: flits up to ACK leave the replay buffer, a NAK
sends the others again. -/
def Link.heard (l : Link) (f : BitVec 2048) : Link :=
  let l := { l with rxSeq := fSeq f, nak := false, owed := true, onSeen := fOn f, replay := ackedTo (fAck f) l.replay }
  if fNak f then
    { l with retries := l.retries + 1, nakSeq := fAck f,
             nakRun := if l.nakSeq = fAck f ∧ l.nakRun ≠ 0 then l.nakRun + 1 else 1 }
  else { l with nakRun := 0 }

/-- A flit with the right CRC and the next SEQ is applied; every other one is discarded and answered with NAK. The
sixteenth NAK in a row of one SEQ takes the link down. -/
def State.receive (s : State) (i : Nat) (f : BitVec 2048) : State :=
  let l := s.pkg.linkAt i
  if !l.up then s
  else if !fCrcOk f || fSeq f != l.rxSeq + 1 then s.modLink i (fun l => { l with nak := true, owed := true })
  else if 16 ≤ (l.heard f).nakRun then (s.modLink i (fun l => { l.heard f with up := false })).linkLost i
  else ((s.modLink i (fun l => (l.heard f).hold f)).passLane i (fLane f)).modLink i Link.setOn

/-- FLIT_RECEIVE: a flit reaches link `i`. While either end is in a major slot or its lead it waits there, behind those that
wait. -/
def execFlitReceive (i : Nat) (f : BitVec 2048) (s : State) : Out :=
  let l := s.pkg.linkAt i
  if 12 ≤ i || !l.up then .next s
  else if s.pkg.linkHeld s.ptime i || !l.waits.isEmpty then .next (s.modLink i (fun l => { l with waits := l.waits ++ [f] }))
  else .next (s.receive i f)

/-! ### The work of the links in a cycle (23 R363 to R366, R371) -/

/-- The flits of a link that is down go by its partner once that carries its traffic, as far as there is room; where both
are down, nowhere, once the requests among them have their answers. -/
def State.moveReplay (s : State) (i : Nat) : State :=
  let l := s.pkg.linkAt i
  let m := if i % 2 = 0 then i + 1 else i - 1
  if l.up || !l.failover then s
  else if !(s.pkg.linkAt m).up then
    let (t, keep) := s.passBy State.unreachable l.replay
    t.modLink i (fun l => { l with replay := keep })
  else
    let step (a : Link × List (BitVec 2048)) (f : BitVec 2048) : Link × List (BitVec 2048) :=
      if fLane f = 3 then a
      else if a.2.isEmpty && a.1.takes (fLane f) 1 then (a.1.send (fCargo f) none, a.2)
      else (a.1, a.2 ++ [f])
    let (k, rest) := l.replay.foldl step (l.carried.foldl (fun k p => k.carry (some p)) (s.pkg.linkAt m), [])
    (s.modLink m (fun _ => k)).modLink i (fun l => { l with replay := rest })

/-- A link that owes its neighbour an answer and has sent nothing since sends an idle flit, on lane 3 (log 36). -/
def Link.idle (l : Link) (dev : Nat) : Link :=
  if l.owed && l.takes 3 1 then l.send { lane := 3, dev := dev, addr := Config.laneWord false, lines := [] } none else l

/-- Whether a link has nothing to do. -/
def Link.quiet (l : Link) : Bool :=
  l.waits.isEmpty && !l.owed && (l.up || l.replay.isEmpty) && (range 0 4).all (fun v => (vget [] l.skid v).isEmpty)

/-- A link outside slots: flits that waited are received, skid buffers empty, flits of a failed link go by the partner, an
answer that is owed goes out. -/
def State.linkWork (s : State) (i : Nat) : State :=
  if (s.pkg.linkAt i).quiet || s.pkg.linkHeld s.ptime i then s
  else
    let fs := (s.pkg.linkAt i).waits
    let s := fs.foldl (fun s f => s.receive i f) (s.modLink i (fun l => { l with waits := [] }))
    let s := ((range 0 4).foldl (fun s v => s.passLane i v) s).modLink i Link.setOn
    (s.moveReplay i).modLink i (·.idle (s.pkg.neighbour i))

/-- The links in a cycle. -/
def State.linksWork (s : State) : State := (range 0 12).foldl State.linkWork s

/-! ### Link transfers (23 R367, R369) -/

/-- The descriptor of 64 bytes at an index: the transfer, and whether its fields are as they must be. -/
def readDesc (index : Nat) (bs : List Byte) : Transfer × Bool :=
  let at_ (o n : Nat) : Nat := bytesNat ((bs.drop o).take n)
  let len := at_ 24 8
  ({ no := 0, index := index, op := at_ 0 1, dev := at_ 2 2, loc := at_ 8 8, rem := at_ 16 8, lines := len / 64, sent := 0, done := 0,
     status := none },
   (at_ 0 1 == 1 || at_ 0 1 == 2) && at_ 1 1 == 0 && at_ 4 4 == 0 && at_ 32 32 == 0 && decide (at_ 2 2 < 8192)
     && at_ 8 8 % 64 == 0 && at_ 16 8 % 64 == 0 && len % 64 == 0 && decide (64 ≤ len ∧ len ≤ 2 ^ 40))

/-- Whether a local range lies in groups that the partition owns. -/
def State.ownsRange (s : State) (part pa n : Nat) : Bool :=
  let f0 := pa / 4096
  (sampleFrames (4096 * f0) ((pa + n + 4095) / 4096 - f0)).all (fun f => isHbm f && s.backed f && (s.partAt part).owns f)

/-- The STATUS of a transfer that meets a line in error: the spec states none; one of 1, 3 and 4, a free value (log 19). -/
def freeStatus (k : Nat) : Nat := match (Config.freeWord k).toNat % 3 with | 0 => 1 | 1 => 3 | _ => 4

/-- The descriptor at HEAD is taken; one that cannot be read ends its transfer (24 R381). -/
def State.takeDesc (s : State) (part : Nat) : State :=
  let q := (s.partAt part).xferq
  let k := q.head % q.entries
  let (t, ok) := readDesc k (memRead s.mem (q.base.toNat + 64 * k) 64)
  let bad := s.pkg.poisoned.find? (fun l => l == (q.base.toNat + 64 * k) / 64)
  let st := if bad.isSome then some (freeStatus s.free) else if !ok || !s.ownsRange part t.loc (64 * t.lines) then some 1
            else if s.pkg.route t.dev = .gone then some 4 else none
  let s := match bad with
    | some l => s.postPkg part { s.pkgRec 0x19 4 0 with tval := BitVec.ofNat 64 (64 * l) }
    | none => s
  ({ s with free := s.free + 1 } : State).modPartAt part (fun p =>
    { p with xferq := { q with head := (q.head + 1) % q.entries }, xfer := some { t with no := s.free + 1, status := st } })

/-- The next lines of a transfer: their flit. -/
def State.nextCargo (s : State) (t : Transfer) : Nat × Cargo :=
  let n := Nat.min 3 (t.lines - t.sent)
  (n, { lane := 0, dev := t.dev, addr := BitVec.ofNat 64 (t.rem + 64 * t.sent),
        lines := if t.op = 1 then (range (t.loc / 64 + t.sent) n).map (memLine s.mem) else [] })

/-- The first line in error among those that a transfer is to send (24 R381). -/
def State.badSource (s : State) (t : Transfer) (n : Nat) : Option Nat :=
  if t.op = 1 then (range (t.loc / 64 + t.sent) n).find? (fun l => s.pkg.poisoned.contains l) else none

/-- What of a transfer's next lines its home controllers read. -/
def Transfer.source (t : Transfer) (part n : Nat) : Outside := .source part (t.loc + 64 * t.sent) (64 * n)

/-- No source lines of a partition's transfer wait at their homes. -/
def State.sourceDone (s : State) (part : Nat) : State :=
  { s with late := s.late.filter (fun e => match e.2 with | .source p _ _ => p != part | _ => true) }

/-- Whether a read of lines at a peer would mix with one of another peer in its direction: a flit of lines does not name its
sender (log 36). -/
def Package.readMixes (p : Package) (t : Transfer) (n : Nat) : Bool :=
  p.peerReads.any (fun r => r.dev != t.dev && p.facing r.dev == p.facing t.dev && r.addr == t.rem + 64 * t.sent && r.lines == n)

/-- A transfer has sent its next lines, or has asked for them. -/
def State.sentLines (s : State) (part : Nat) (t : Transfer) (n : Nat) : State :=
  let s := if t.op = 1 then s.sourceDone part
    else s.modPkg (fun p => { p with peerReads := p.peerReads ++
      [{ dev := t.dev, addr := t.rem + 64 * t.sent, lines := n, part := part, no := t.no }] })
  s.modPartAt part (fun p => { p with xfer := some { t with sent := t.sent + n } })

/-- A transfer ends with a status. -/
def State.endTransfer (s : State) (part : Nat) (t : Transfer) (st : Nat) : State :=
  s.modPartAt part (fun p => { p with xfer := some { t with status := some st } })

/-- A transfer that meets a line in error: a record of class D, and an end whose STATUS the spec does not state (log 19). -/
def State.badTransfer (s : State) (part : Nat) (t : Transfer) (l : Nat) : State :=
  (({ s with free := s.free + 1 } : State).postPkg part { s.pkgRec 0x19 4 0 with tval := BitVec.ofNat 64 (64 * l) }).endTransfer part t
    (freeStatus s.free)

/-- A transfer whose peer no link leads to any longer: STATUS 4, and what has been asked of that peer has no answer. -/
def State.peerGone (s : State) (part : Nat) (t : Transfer) : State :=
  (s.modPkg (fun p => { p with peerReads := p.peerReads.filter (fun r => r.dev != t.dev) })).endTransfer part t 4

/-- LINK_TRANSFER: the descriptor at HEAD of the transfer queue is taken, or the next lines of the transfer under way
are sent or asked for, in address order; source lines wait at their homes (21 R352). A transfer that no link leads to ends
with STATUS 4. None ends inside a major slot (23 R371). -/
def execLinkTransfer (part : Nat) (s : State) : Out :=
  let p := s.partAt part
  match p.xfer with
  | none => if !s.serves part || !p.xferq.en || p.xferq.head == p.xferq.tail then .next s else .next (s.takeDesc part)
  | some t =>
    if t.status.isSome || decide (t.lines ≤ t.done) then .next s
    else if s.majorOpen.isSome then .next s
    else if s.pkg.route t.dev = .gone then .next (s.peerGone part t)
    else if t.lines ≤ t.sent then .next s
    else
      let (n, c) := s.nextCargo t
      if t.op = 1 ∧ s.lateHeld (t.source part n) then .next (s.lateWaits (t.source part n))
      else match s.badSource t n with
        | some l => .next (s.badTransfer part t l)
        | none =>
          if t.op ≠ 1 ∧ s.pkg.readMixes t n then .next s
          else match s.sendAll (some part) [c] with
            | none => .next s
            | some u => .next (u.sentLines part t n)

/-- The 16 bytes of a transfer's completion entry. -/
def xferEntry (index status now : Nat) : List Byte := natBytes 4 index ++ natBytes 2 status ++ natBytes 2 0 ++ natBytes 8 now

/-- LINK_TRANSFER_COMPLETE: a transfer whose lines have all been performed, or that ends with a status, posts its
entry, outside major slots (23 R371), once no slot holds it (21 R352). -/
def execLinkTransferComplete (part : Nat) (s : State) : Out :=
  match (s.partAt part).xfer with
  | none => .next s
  | some t =>
    match (if s.majorOpen.isSome || s.entryHeld (s.partAt part).xferq then none else if t.status.isSome then t.status else if t.lines ≤ t.done then some 0 else none) with
    | none => .next s
    | some st =>
      let q := (s.partAt part).xferq
      let s := (s.sourceDone part).deviceWrite (q.cbase.toNat + 16 * q.ctail) (xferEntry t.index st s.ptime)
      .next (s.modPartAt part (fun p => { p with xfer := none, xferq := { q with ctail := (q.ctail + 1) % q.entries } }))

/-! ### Requests of peers (23 R368, R369) -/

/-- Whether a window takes a request of a range. -/
def RxWin.takes (w : RxWin) (pa n : Nat) (write : Bool) : Bool :=
  (if write then w.w else w.r) && decide (4096 * w.base ≤ pa ∧ pa + n ≤ 4096 * (w.base + w.pages))

/-- The partition that accepts a request: it owns the range, and one of its windows takes it. -/
def State.accepter (s : State) (pa n : Nat) (write : Bool) : Option Nat :=
  (s.parts.find? (fun e => s.ownsRange e.1 pa n && e.2.rx.any (fun w => w.2.takes pa n write))).map (fun e => e.1)

/-- A refused request: a record at the partition that owns the first frame. -/
def State.refusePeer (s : State) (dev pa : Nat) : State :=
  match s.groupOwner pa with
  | some p => s.postPkg p (s.pkgRec 0x0E 4 (BitVec.ofNat 64 dev))
  | none => s

/-- Whether the lines of flits follow one another from an address on. -/
def inOrder : Nat → List (BitVec 2048) → Bool
  | _, [] => true
  | a, f :: t => (fAddr f).toNat == a && inOrder (a + 64 * fNl f) t

/-- The flits that carry a request for device `me`, from the first one of a link's lane 0 on, as they are applied in SEQ order
(23 R365): those with the lines of a write, or the one flit without lines that asks for up to three lines from an address
(log 36). -/
def Link.request (l : Link) (me : Nat) (r : PeerReq) : Option (List (BitVec 2048)) :=
  let own := (vget [] l.skid 0).filter (fun f => fDev f == me)
  match r with
  | .write _ pa ls =>
    if ls.isEmpty then none
    else ((range 1 own.length).map (fun k => own.take k)).find? (fun fs =>
      fs.all (fun f => fNl f != 0) && fs.flatMap fLines == ls && inOrder pa fs)
  | .read _ pa n =>
    match own with
    | f :: _ => if (1 ≤ n ∧ n ≤ 3) ∧ fNl f = 0 ∧ (fAddr f).toNat = pa then some [f] else none
    | [] => none

/-- The device that makes a request. -/
def peerOf (r : PeerReq) : Nat := match r with | .write d _ _ => d | .read d _ _ => d
/-- The address of a request. -/
def peerPa (r : PeerReq) : Nat := match r with | .write _ a _ => a | .read _ a _ => a
/-- The bytes of a request. -/
def peerLen (r : PeerReq) : Nat := match r with | .write _ _ ls => 64 * ls.length | .read _ _ k => 64 * k
def peerWrites (r : PeerReq) : Bool := match r with | .write .. => true | .read .. => false

/-- The link whose skid buffer holds a request, and the flits that carry it. -/
def Package.requestAt (p : Package) (r : PeerReq) : Option (Nat × List (BitVec 2048)) :=
  (range 0 12).findSome? (fun i =>
    if p.facing (peerOf r) = some (i / 2) then ((p.linkAt i).request p.devNum r).map (fun fs => (i, fs)) else none)

/-- The flits of a request leave the skid buffer; the link has carried traffic of the partition that accepts it. -/
def Link.drain (l : Link) (fs : List (BitVec 2048)) (who : Option Nat) : Link :=
  ({ l with skid := vset l.skid 0 ((vget [] l.skid 0).filter (fun f => !fs.contains f)) } : Link).setOn.carry who

/-- The answer that goes to a peer without lines; the layout of its control word is not given (log 36). -/
def State.answerPeer (s : State) (dev : Nat) : Cargo := { lane := 1, dev := dev, addr := Config.freeWord s.free, lines := [] }

/-- What goes back to a peer: the lines that it reads, three to a flit, or an answer without lines. -/
def State.peerAnswer (s : State) (r : PeerReq) (lines : Bool) : List Cargo :=
  match r with
  | .read d a k =>
    if lines then (threes k (range 0 k)).map (fun js =>
      { lane := 1, dev := d, addr := BitVec.ofNat 64 (a + 64 * (js.head?).getD 0), lines := js.map (fun j => memLine s.mem (a / 64 + j)) })
    else [s.answerPeer d]
  | .write d _ _ => [s.answerPeer d]

/-- What a request does at this device once its answer is on the way: a record for one that no window accepts, or for a
line in error that it reads; the lines of a write are stored with tag 0xFFF. -/
def State.peerActs (s : State) (r : PeerReq) (who bad : Option Nat) : State :=
  match who with
  | none => s.refusePeer (peerOf r) (peerPa r)
  | some p => match r with
    | .write _ a ls =>
      let bs := ls.flatMap (fun l => natBytes 64 l.toNat)
      s.outsideWrite false 0xFFFFFFFE a bs.length bs
    | .read d _ _ => match bad with
      | some l => s.postPkg p { s.pkgRec 0x19 4 (BitVec.ofNat 64 d) with tval := BitVec.ofNat 64 (64 * l) }
      | none => s

/-- PEER_REQUEST: a request of a peer, whose flits have arrived, is accepted by a receive window, or refused with a record.
Accepted lines are written with tag 0xFFF and seal their lines; lines read go out on lane 1, but none of a read that meets a
line in error (24 R381). It waits while its answer finds no room, and while its lines wait at their homes (21 R352). -/
def execPeerRequest (r : PeerReq) (s : State) : Out :=
  match s.pkg.requestAt r with
  | none => .next s
  | some (i, fs) =>
    let who := s.accepter (peerPa r) (peerLen r) (peerWrites r)
    let ls := linesOf (peerPa r) (peerLen r)
    let bad := ls.find? (fun l => s.pkg.poisoned.contains l)
    if who.isSome && s.lateHeld (.peer r) then .next (s.lateWaits (.peer r))
    else match s.sendAll who (s.peerAnswer r (who.isSome && bad.isNone)) with
      | none => .next s
      | some u => .next (((({ u with free := s.free + 1 } : State).lateDone (.peer r)).modLink i (·.drain fs who)).peerActs r who bad)

end Sys2Proof.Machine
end

