-- ==== Sys2Proof/Machine/Bringup.lean ====
section
/-! DEFINITION. Power, resets, the stages of bring-up, and the operations of the mailbox and the I3C target
(23 R370; 24 R374 to R380, R383). -/

namespace Sys2Proof.Machine

/-! ### Power and reset (24 R374, R376, R378) -/

/-- The device as a reset leaves it, in stage 1 of bring-up. What is fused stays, and so do the model's own agenda
and count of free values. -/
def State.restarted (s : State) (dev : DevState) (stage : Nat) : State :=
  { State.reset with agenda := s.agenda, free := s.free,
                     pkg := { Package.reset with dev := dev, stage := stage, svnMin := s.pkg.svnMin } }

/-- POWER_ON: a device without power starts bring-up with PTIME 0 and every PCR zero. -/
def execPowerOn (s : State) : Out :=
  if s.pkg.dev = .off ∨ s.pkg.dev = .start then .next (s.restarted .booting 1) else .next s

/-- CONVENTIONAL_RESET: bring-up starts again, and every PCR is zero. -/
def execConventionalReset (s : State) : Out :=
  if s.pkg.dev = .off then .next s else .next (s.restarted .booting 1)

/-- MODULE_OFF: every power domain is off. -/
def execModuleOff (s : State) : Out := .next (s.restarted .off 0)

/-! ### Measurements (24 R377, R378) -/

/-- PCR `i` takes a digest. -/
def Package.measure (p : Package) (i : Nat) (d : BitVec 512) : Package :=
  { p with pcr := vset p.pcr i (Config.shake256 (natBytes 64 (vget 0 p.pcr i).toNat ++ natBytes 64 d.toNat) 512) }

/-- Whether the key and the signature of an image hold for a kind of image: the digest of the key is the fused one, and
the signature verifies over the digest of the body (24 R377). -/
def Firmware.signed (f : Firmware) (kind : Nat) : Bool :=
  Config.shake256 (natBytes 1793 f.key.toNat) 512 == Config.keyDigest kind
    && Config.falconVerify f.key (Config.shake256 f.body 512) f.signature

/-- Whether an image is accepted: 0, or the failure code, `sig` for a key or a signature that does not hold. -/
def Package.verify (p : Package) (kind : Nat) (f : Firmware) (sig : Nat) : Nat :=
  if !Firmware.signed f kind then sig else if f.svn.toNat < p.svnMin.toNat then 4 else 0

/-! ### The stages (24 R374 to R376) -/

/-- The state that DEVST shows in a stage; the spec does not say which stages count as self test (log 37). -/
def stageState (n : Nat) : DevState := if 3 ≤ n ∧ n ≤ 5 then .selfTest else .booting

/-- The next stage. -/
def Package.passed (p : Package) (n : Nat) : Package :=
  if n = 7 then { p with dev := .ready, stage := 7 } else { p with dev := stageState (n + 1), stage := n + 1 }

/-- A failed stage: the safe state, with links and ports off, and a failure record. The record's detail is a free
value (log 19). -/
def State.failStage (s : State) (n code unit : Nat) : State :=
  let r : FailRec := { ptime := s.ptime, fail := code, unit := unit, detail := (Config.freeWord s.free).toNat }
  { s with free := s.free + 1,
           pkg := { s.pkg with dev := .safe, stage := n, fail := if s.pkg.fail = 0 then code else s.pkg.fail,
                               failures := s.pkg.failures ++ [r], links := Vector.replicate 12 .reset,
                               ports := Vector.replicate 4 .reset } }

/-- Verifies images in turn, each into its PCR; the first that fails ends it with its code and place. -/
def Package.verifyAll (p : Package) : List Firmware → Nat → Package × Option (Nat × Nat)
  | [], _ => (p, none)
  | f :: fs, k =>
    let e := p.verify (if k = 0 then 1 else 2) f 3
    if e ≠ 0 then (p, some (e, k))
    else (p.measure (if k = 0 then 1 else 2) (Config.shake256 f.body 512)).verifyAll fs (k + 1)

/-- Stage 1: the boot ROM, and the package controller image. -/
def State.stage1 (s : State) (x : StageInput) : State :=
  if !x.selfCheckOk then s.failStage 1 1 0
  else match x.images with
    | [] => s.failStage 1 2 0
    | f :: _ =>
      let e := s.pkg.verify 0 f 2
      if e ≠ 0 then s.failStage 1 e 0
      else
        let p := s.pkg.measure 0 (Config.shake256 f.body 512)
        let p := p.measure 3 (Config.shake256 (Config.fuseConfig ++ natBytes 8 Config.featv.toNat) 512)
        { s with pkg := ({ p with svn := f.svn } : Package).passed 1 }

/-- Stage 2: the core monitor image and the eight base-die images. -/
def State.stage2 (s : State) (x : StageInput) : State :=
  if x.images.length < 9 then s.failStage 2 3 x.images.length
  else match s.pkg.verifyAll (x.images.take 9) 0 with
    | (p, none) => { s with pkg := p.passed 2 }
    | (p, some (e, k)) => ({ s with pkg := p } : State).failStage 2 e k

/-- A self test or training of `units` units with failure codes from `base`. -/
def State.stageTest (s : State) (n base units : Nat) (x : StageInput) : State :=
  match x.failUnit with
  | some u => s.failStage n (base + u % units) (u % units)
  | none => { s with pkg := s.pkg.passed n }

/-- A port after training: down when no expander is found. -/
def Port.trained (pages : Nat) : Port := { up := decide (pages ≠ 0), pages := pages }

/-- Stage 6: links and ports are trained; those that fail are marked down. A device met on a link sets PTIME. -/
def State.stage6 (s : State) (x : StageInput) : State :=
  let p := s.pkg
  let p := { p with devNum := x.devNum, torus := x.torus }
  let p := (range 0 12).foldl (fun p i => p.setLink i ((p.linkAt i).trained (getB x.linksUp i))) p
  let p := (range 0 4).foldl (fun p i => { p with ports := vset p.ports i (Port.trained ((nth x.cxlPages i).getD 0)) }) p
  { s with ptime := x.peerTime.getD s.ptime % 2 ^ 64, pkg := p.passed 6 }

/-- BRING_UP_STAGE: the stage that is due runs; the next follows only when it has passed. -/
def execBringUpStage (x : StageInput) (s : State) : Out :=
  match s.pkg.dev with
  | .off | .ready | .safe => .next s
  | _ =>
    match s.pkg.stage with
    | 0 | 1 => .next (s.stage1 x)
    | 2 => .next (s.stage2 x)
    | 3 => .next (s.stageTest 3 0x10 5 x)
    | 4 => .next (s.stageTest 4 0x20 4 x)
    | 5 => .next (s.stageTest 5 0x30 8 x)
    | 6 => .next (s.stage6 x)
    | _ => .next { s with pkg := s.pkg.passed 7 }

/-! ### The command engine (24 R376, R378, R379) -/


/-- An operation of the command engine: refused while the engine is busy and in the safe state, else `act` with
STATUS 0. -/
def State.operate (s : State) (p : CmdPath) (op : Nat) (act : State → State) : State :=
  if s.pkg.dev = .off then s
  else if s.engineBusy p then s.modPkg (fun k => { k with mbSts := 2 })
  else
    let s := s.modPkg (fun k => { k with mbOp := some (p, s.ptime), mbOpcode := BitVec.ofNat 16 op })
    if s.pkg.dev = .safe ∧ (op = 2 ∨ op = 6 ∨ op = 7) then s.modPkg (fun k => { k with mbSts := 3 })
    else act (s.modPkg (fun k => { k with mbSts := 0 }))

/-- Bytes into the buffer from its start. -/
def Package.fill (p : Package) (bs : List Byte) : Package := { p with buffer := setF p.buffer 0 (8 * bs.length) (bytesNat bs) }

/-- PCR0 to PCR7 as 512 bytes. -/
def Package.pcrBytes (p : Package) : List Byte := (range 0 8).flatMap (fun i => natBytes 64 (vget 0 p.pcr i).toNat)

/-- The seed of the identity key (24 R380). -/
def Package.keySeed (p : Package) : BitVec 512 := Config.shake256 (Config.fusedSecret ++ natBytes 64 (vget 0 p.pcr 0).toNat) 512

/-- The part of an attestation report that is signed (24 R380). -/
def Package.claim (p : Package) (now : Nat) : List Byte :=
  natBytes 32 (getF p.buffer 0 256) ++ natBytes 8 Config.featv.toNat ++ natBytes 8 now ++ natBytes 16 0 ++ p.pcrBytes

/-- An attestation report of 1,856 bytes. -/
def Package.report (p : Package) (now : Nat) : List Byte :=
  p.claim now ++ natBytes 1280 (Config.falconSign p.keySeed (Config.shake256 (p.claim now) 512)).toNat

/-- A failure record's 64 bytes. -/
def FailRec.bytes (r : FailRec) : List Byte :=
  natBytes 64 (bytesNat (Config.failureRecord [r.ptime, r.fail, r.unit, r.detail]))

/-- READ_FAILURE_RECORDS: operation 1. -/
def execReadFailureRecords (p : CmdPath) (s : State) : Out :=
  .next (s.operate p 1 (fun s => s.modPkg (fun k => k.fill ((k.failures.take 64).flatMap FailRec.bytes))))

/-- ATTEST: operation 2. -/
def execAttest (p : CmdPath) (s : State) : Out :=
  .next (s.operate p 2 (fun s => s.modPkg (fun k => k.fill (k.report s.ptime))))

/-- READ_MEASUREMENTS: operation 3. -/
def execReadMeasurements (p : CmdPath) (s : State) : Out :=
  .next (s.operate p 3 (fun s => s.modPkg (fun k => k.fill k.pcrBytes)))

/-- READ_TELEMETRY: operation 4. -/
def execReadTelemetry (p : CmdPath) (s : State) : Out :=
  .next (s.operate p 4 (fun s => s.modPkg (fun k => { k with buffer := Config.telemetryBlock k.telem })))

/-- RESET_THE_DEVICE: operation 5; the PCRs stay. -/
def execResetTheDevice (p : CmdPath) (s : State) : Out :=
  .next (s.operate p 5 (fun s => (s.restarted .booting 1).modPkg (fun k => { k with pcr := s.pkg.pcr })))

/-- READ_IDENTITY_PUBLIC_KEY: operation 6. -/
def execReadIdentityPublicKey (p : CmdPath) (s : State) : Out :=
  .next (s.operate p 6 (fun s => s.modPkg (fun k => k.fill (natBytes 1793 (Config.falconKey k.keySeed).toNat))))

/-- RAISE_FUSED_SVN_MINIMUM: operation 7; the minimum never falls. -/
def execRaiseFusedSvnMinimum (p : CmdPath) (s : State) : Out :=
  .next (s.operate p 7 (fun s => s.modPkg (fun k => { k with svnMin := if k.svnMin.toNat ≤ k.svn.toNat then k.svn else k.svnMin })))

end Sys2Proof.Machine
end

