-- ==== Sys2Proof/Machine/Dispatch.lean ====
section
/-! DEFINITION. The meaning of every instruction and event, one arm each. -/

namespace Sys2Proof.Machine

/-- Runs one slot instruction of the context in issue, or one event. -/
def exec (i : Instr) (s : State) : Host.Outcome State Fault Refusal :=
  match i with
  | .add x0 x1 x2 x3 => Sys2Proof.Machine.execAdd x0 x1 x2 x3 s
  | .sub x0 x1 x2 x3 => Sys2Proof.Machine.execSub x0 x1 x2 x3 s
  | .and x0 x1 x2 x3 => Sys2Proof.Machine.execAnd x0 x1 x2 x3 s
  | .or x0 x1 x2 x3 => Sys2Proof.Machine.execOr x0 x1 x2 x3 s
  | .xor x0 x1 x2 x3 => Sys2Proof.Machine.execXor x0 x1 x2 x3 s
  | .andn x0 x1 x2 x3 => Sys2Proof.Machine.execAndn x0 x1 x2 x3 s
  | .orn x0 x1 x2 x3 => Sys2Proof.Machine.execOrn x0 x1 x2 x3 s
  | .shl x0 x1 x2 x3 => Sys2Proof.Machine.execShl x0 x1 x2 x3 s
  | .shr x0 x1 x2 x3 => Sys2Proof.Machine.execShr x0 x1 x2 x3 s
  | .sar x0 x1 x2 x3 => Sys2Proof.Machine.execSar x0 x1 x2 x3 s
  | .rotl x0 x1 x2 x3 => Sys2Proof.Machine.execRotl x0 x1 x2 x3 s
  | .min x0 x1 x2 x3 => Sys2Proof.Machine.execMin x0 x1 x2 x3 s
  | .max x0 x1 x2 x3 => Sys2Proof.Machine.execMax x0 x1 x2 x3 s
  | .minu x0 x1 x2 x3 => Sys2Proof.Machine.execMinu x0 x1 x2 x3 s
  | .maxu x0 x1 x2 x3 => Sys2Proof.Machine.execMaxu x0 x1 x2 x3 s
  | .mul x0 x1 x2 x3 => Sys2Proof.Machine.execMul x0 x1 x2 x3 s
  | .mulh x0 x1 x2 x3 => Sys2Proof.Machine.execMulh x0 x1 x2 x3 s
  | .mulhu x0 x1 x2 x3 => Sys2Proof.Machine.execMulhu x0 x1 x2 x3 s
  | .div x0 x1 x2 x3 => Sys2Proof.Machine.execDiv x0 x1 x2 x3 s
  | .divu x0 x1 x2 x3 => Sys2Proof.Machine.execDivu x0 x1 x2 x3 s
  | .rem x0 x1 x2 x3 => Sys2Proof.Machine.execRem x0 x1 x2 x3 s
  | .remu x0 x1 x2 x3 => Sys2Proof.Machine.execRemu x0 x1 x2 x3 s
  | .clz x0 x1 x2 => Sys2Proof.Machine.execClz x0 x1 x2 s
  | .ctz x0 x1 x2 => Sys2Proof.Machine.execCtz x0 x1 x2 s
  | .popc x0 x1 x2 => Sys2Proof.Machine.execPopc x0 x1 x2 s
  | .sel x0 x1 x2 x3 x4 => Sys2Proof.Machine.execSel x0 x1 x2 x3 x4 s
  | .addi x0 x1 x2 => Sys2Proof.Machine.execAddi x0 x1 x2 s
  | .andi x0 x1 x2 => Sys2Proof.Machine.execAndi x0 x1 x2 s
  | .ori x0 x1 x2 => Sys2Proof.Machine.execOri x0 x1 x2 s
  | .xori x0 x1 x2 => Sys2Proof.Machine.execXori x0 x1 x2 s
  | .shli x0 x1 x2 => Sys2Proof.Machine.execShli x0 x1 x2 s
  | .shri x0 x1 x2 => Sys2Proof.Machine.execShri x0 x1 x2 s
  | .sari x0 x1 x2 => Sys2Proof.Machine.execSari x0 x1 x2 s
  | .rotli x0 x1 x2 => Sys2Proof.Machine.execRotli x0 x1 x2 s
  | .li x0 x1 => Sys2Proof.Machine.execLi x0 x1 s
  | .lsh x0 x1 x2 => Sys2Proof.Machine.execLsh x0 x1 x2 s
  | .ext x0 x1 x2 x3 => Sys2Proof.Machine.execExt x0 x1 x2 x3 s
  | .extS x0 x1 x2 x3 => Sys2Proof.Machine.execExtS x0 x1 x2 x3 s
  | .ins x0 x1 x2 x3 => Sys2Proof.Machine.execIns x0 x1 x2 x3 s
  | .cmp x0 x1 x2 x3 => Sys2Proof.Machine.execCmp x0 x1 x2 x3 s
  | .cmpi x0 x1 x2 x3 => Sys2Proof.Machine.execCmpi x0 x1 x2 x3 s
  | .pand x0 x1 x2 => Sys2Proof.Machine.execPand x0 x1 x2 s
  | .por x0 x1 x2 => Sys2Proof.Machine.execPor x0 x1 x2 s
  | .pxor x0 x1 x2 => Sys2Proof.Machine.execPxor x0 x1 x2 s
  | .pandn x0 x1 x2 => Sys2Proof.Machine.execPandn x0 x1 x2 s
  | .pnot x0 x1 => Sys2Proof.Machine.execPnot x0 x1 s
  | .rdp x0 => Sys2Proof.Machine.execRdp x0 s
  | .wrp x0 => Sys2Proof.Machine.execWrp x0 s
  | .br x0 x1 x2 => Sys2Proof.Machine.execBr x0 x1 x2 s
  | .call x0 x1 x2 => Sys2Proof.Machine.execCall x0 x1 x2 s
  | .jr x0 => Sys2Proof.Machine.execJr x0 s
  | .callr x0 => Sys2Proof.Machine.execCallr x0 s
  | .lpush x0 x1 x2 => Sys2Proof.Machine.execLpush x0 x1 x2 s
  | .lbrk x0 => Sys2Proof.Machine.execLbrk x0 s
  | .lidx x0 x1 => Sys2Proof.Machine.execLidx x0 x1 s
  | .pause x0 => Sys2Proof.Machine.execPause x0 s
  | .trap x0 => Sys2Proof.Machine.execTrap x0 s
  | .brk x0 => Sys2Proof.Machine.execBrk x0 s
  | .rdsr x0 x1 => Sys2Proof.Machine.execRdsr x0 x1 s
  | .wrsr x0 x1 => Sys2Proof.Machine.execWrsr x0 x1 s
  | .rdtime x0 => Sys2Proof.Machine.execRdtime x0 s
  | .mscal x0 x1 x2 => Sys2Proof.Machine.execMscal x0 x1 x2 s
  | .msdefer x0 x1 => Sys2Proof.Machine.execMsdefer x0 x1 s
  | .lnch x0 x1 x2 => Sys2Proof.Machine.execLnch x0 x1 x2 s
  | .rlnch x0 x1 x2 => Sys2Proof.Machine.execRlnch x0 x1 x2 s
  | .ldB x0 x1 x2 => Sys2Proof.Machine.execLdB x0 x1 x2 s
  | .ldH x0 x1 x2 => Sys2Proof.Machine.execLdH x0 x1 x2 s
  | .ldW x0 x1 x2 => Sys2Proof.Machine.execLdW x0 x1 x2 s
  | .ldD x0 x1 x2 => Sys2Proof.Machine.execLdD x0 x1 x2 s
  | .ldBu x0 x1 x2 => Sys2Proof.Machine.execLdBu x0 x1 x2 s
  | .ldHu x0 x1 x2 => Sys2Proof.Machine.execLdHu x0 x1 x2 s
  | .ldWu x0 x1 x2 => Sys2Proof.Machine.execLdWu x0 x1 x2 s
  | .stB x0 x1 x2 => Sys2Proof.Machine.execStB x0 x1 x2 s
  | .stH x0 x1 x2 => Sys2Proof.Machine.execStH x0 x1 x2 s
  | .stW x0 x1 x2 => Sys2Proof.Machine.execStW x0 x1 x2 s
  | .stD x0 x1 x2 => Sys2Proof.Machine.execStD x0 x1 x2 s
  | .ldAcq x0 x1 x2 x3 x4 => Sys2Proof.Machine.execLdAcq x0 x1 x2 x3 x4 s
  | .stRel x0 x1 x2 x3 x4 => Sys2Proof.Machine.execStRel x0 x1 x2 x3 x4 s
  | .amo x0 x1 x2 x3 x4 x5 x6 x7 => Sys2Proof.Machine.execAmo x0 x1 x2 x3 x4 x5 x6 x7 s
  | .cas x0 x1 x2 x3 x4 x5 x6 => Sys2Proof.Machine.execCas x0 x1 x2 x3 x4 x5 x6 s
  | .fence x0 x1 => Sys2Proof.Machine.execFence x0 x1 s
  | .l1inv x0 x1 => Sys2Proof.Machine.execL1inv x0 x1 s
  | .probe x0 x1 x2 => Sys2Proof.Machine.execProbe x0 x1 x2 s
  | .rdwp x0 x1 => Sys2Proof.Machine.execRdwp x0 x1 s
  | .vadd x0 x1 x2 x3 x4 x5 => Sys2Proof.Machine.execVadd x0 x1 x2 x3 x4 x5 s
  | .vsub x0 x1 x2 x3 x4 x5 => Sys2Proof.Machine.execVsub x0 x1 x2 x3 x4 x5 s
  | .vmul x0 x1 x2 x3 x4 => Sys2Proof.Machine.execVmul x0 x1 x2 x3 x4 s
  | .vfma x0 x1 x2 x3 x4 => Sys2Proof.Machine.execVfma x0 x1 x2 x3 x4 s
  | .vfms x0 x1 x2 x3 x4 => Sys2Proof.Machine.execVfms x0 x1 x2 x3 x4 s
  | .vfnma x0 x1 x2 x3 x4 => Sys2Proof.Machine.execVfnma x0 x1 x2 x3 x4 s
  | .vmax x0 x1 x2 x3 x4 x5 => Sys2Proof.Machine.execVmax x0 x1 x2 x3 x4 x5 s
  | .vmin x0 x1 x2 x3 x4 x5 => Sys2Proof.Machine.execVmin x0 x1 x2 x3 x4 x5 s
  | .vabs x0 x1 x2 x3 => Sys2Proof.Machine.execVabs x0 x1 x2 x3 s
  | .vneg x0 x1 x2 x3 => Sys2Proof.Machine.execVneg x0 x1 x2 x3 s
  | .vexp2 x0 x1 x2 x3 => Sys2Proof.Machine.execVexp2 x0 x1 x2 x3 s
  | .vlog2 x0 x1 x2 x3 => Sys2Proof.Machine.execVlog2 x0 x1 x2 x3 s
  | .vrcp x0 x1 x2 x3 => Sys2Proof.Machine.execVrcp x0 x1 x2 x3 s
  | .vrsqrt x0 x1 x2 x3 => Sys2Proof.Machine.execVrsqrt x0 x1 x2 x3 s
  | .vsqrt x0 x1 x2 x3 => Sys2Proof.Machine.execVsqrt x0 x1 x2 x3 s
  | .vdiv x0 x1 x2 x3 x4 => Sys2Proof.Machine.execVdiv x0 x1 x2 x3 x4 s
  | .vand x0 x1 x2 x3 x4 => Sys2Proof.Machine.execVand x0 x1 x2 x3 x4 s
  | .vor x0 x1 x2 x3 x4 => Sys2Proof.Machine.execVor x0 x1 x2 x3 x4 s
  | .vxor x0 x1 x2 x3 x4 => Sys2Proof.Machine.execVxor x0 x1 x2 x3 x4 s
  | .vnot x0 x1 x2 x3 => Sys2Proof.Machine.execVnot x0 x1 x2 x3 s
  | .vshl x0 x1 x2 x3 x4 => Sys2Proof.Machine.execVshl x0 x1 x2 x3 x4 s
  | .vshli x0 x1 x2 x3 x4 => Sys2Proof.Machine.execVshli x0 x1 x2 x3 x4 s
  | .vshr x0 x1 x2 x3 x4 => Sys2Proof.Machine.execVshr x0 x1 x2 x3 x4 s
  | .vshri x0 x1 x2 x3 x4 => Sys2Proof.Machine.execVshri x0 x1 x2 x3 x4 s
  | .vsar x0 x1 x2 x3 x4 => Sys2Proof.Machine.execVsar x0 x1 x2 x3 x4 s
  | .vsari x0 x1 x2 x3 x4 => Sys2Proof.Machine.execVsari x0 x1 x2 x3 x4 s
  | .vrelu x0 x1 x2 x3 => Sys2Proof.Machine.execVrelu x0 x1 x2 x3 s
  | .vreluBwd x0 x1 x2 x3 x4 => Sys2Proof.Machine.execVreluBwd x0 x1 x2 x3 x4 s
  | .vcmp x0 x1 x2 x3 x4 x5 x6 => Sys2Proof.Machine.execVcmp x0 x1 x2 x3 x4 x5 x6 s
  | .vsel x0 x1 x2 x3 x4 => Sys2Proof.Machine.execVsel x0 x1 x2 x3 x4 s
  | .vcvt x0 x1 x2 x3 x4 x5 => Sys2Proof.Machine.execVcvt x0 x1 x2 x3 x4 x5 s
  | .vround x0 x1 x2 x3 x4 => Sys2Proof.Machine.execVround x0 x1 x2 x3 x4 s
  | .vbcast x0 x1 x2 x3 => Sys2Proof.Machine.execVbcast x0 x1 x2 x3 s
  | .vmovs x0 x1 x2 x3 x4 => Sys2Proof.Machine.execVmovs x0 x1 x2 x3 x4 s
  | .viota x0 x1 x2 x3 => Sys2Proof.Machine.execViota x0 x1 x2 x3 s
  | .vmovv x0 x1 x2 x3 => Sys2Proof.Machine.execVmovv x0 x1 x2 x3 s
  | .vperm x0 x1 x2 x3 x4 => Sys2Proof.Machine.execVperm x0 x1 x2 x3 x4 s
  | .vslide x0 x1 x2 x3 x4 x5 => Sys2Proof.Machine.execVslide x0 x1 x2 x3 x4 x5 s
  | .vred x0 x1 x2 x3 => Sys2Proof.Machine.execVred x0 x1 x2 x3 s
  | .vclass x0 x1 x2 x3 => Sys2Proof.Machine.execVclass x0 x1 x2 x3 s
  | .vqnt x0 x1 x2 => Sys2Proof.Machine.execVqnt x0 x1 x2 s
  | .vdeq x0 x1 x2 => Sys2Proof.Machine.execVdeq x0 x1 x2 s
  | .qand x0 x1 x2 => Sys2Proof.Machine.execQand x0 x1 x2 s
  | .qor x0 x1 x2 => Sys2Proof.Machine.execQor x0 x1 x2 s
  | .qxor x0 x1 x2 => Sys2Proof.Machine.execQxor x0 x1 x2 s
  | .qandn x0 x1 x2 => Sys2Proof.Machine.execQandn x0 x1 x2 s
  | .qnot x0 x1 => Sys2Proof.Machine.execQnot x0 x1 s
  | .qmov x0 x1 => Sys2Proof.Machine.execQmov x0 x1 s
  | .xpush x0 => Sys2Proof.Machine.execXpush x0 s
  | .xpop x0 => Sys2Proof.Machine.execXpop x0 s
  | .xst x0 x1 => Sys2Proof.Machine.execXst x0 x1 s
  | .xwid x0 => Sys2Proof.Machine.execXwid x0 s
  | .mma x0 x1 x2 x3 x4 x5 x6 x7 x8 => Sys2Proof.Machine.execMma x0 x1 x2 x3 x4 x5 x6 x7 x8 s
  | .mzero x0 => Sys2Proof.Machine.execMzero x0 s
  | .mrd x0 x1 x2 => Sys2Proof.Machine.execMrd x0 x1 x2 s
  | .mwr x0 x1 x2 => Sys2Proof.Machine.execMwr x0 x1 x2 s
  | .mst x0 x1 x2 x3 => Sys2Proof.Machine.execMst x0 x1 x2 x3 s
  | .mwait x0 => Sys2Proof.Machine.execMwait x0 s
  | .mld x0 x1 x2 x3 => Sys2Proof.Machine.execMld x0 x1 x2 x3 s
  | .kld x0 x1 x2 x3 => Sys2Proof.Machine.execKld x0 x1 x2 x3 s
  | .kband x0 x1 => Sys2Proof.Machine.execKband x0 x1 s
  | .kclr x0 => Sys2Proof.Machine.execKclr x0 s
  | .vld x0 x1 x2 x3 => Sys2Proof.Machine.execVld x0 x1 x2 x3 s
  | .vst x0 x1 x2 x3 => Sys2Proof.Machine.execVst x0 x1 x2 x3 s
  | .vlds x0 x1 x2 x3 => Sys2Proof.Machine.execVlds x0 x1 x2 x3 s
  | .vsts x0 x1 x2 x3 => Sys2Proof.Machine.execVsts x0 x1 x2 x3 s
  | .vgth x0 x1 x2 x3 => Sys2Proof.Machine.execVgth x0 x1 x2 x3 s
  | .vsct x0 x1 x2 x3 => Sys2Proof.Machine.execVsct x0 x1 x2 x3 s
  | .vldh x0 x1 x2 x3 => Sys2Proof.Machine.execVldh x0 x1 x2 x3 s
  | .vsth x0 x1 x2 x3 => Sys2Proof.Machine.execVsth x0 x1 x2 x3 s
  | .kst x0 x1 x2 x3 x4 => Sys2Proof.Machine.execKst x0 x1 x2 x3 x4 s
  | .vrelub x0 x1 x2 x3 => Sys2Proof.Machine.execVrelub x0 x1 x2 x3 s
  | .vmaxpb x0 x1 x2 x3 x4 => Sys2Proof.Machine.execVmaxpb x0 x1 x2 x3 x4 s
  | .vldk x0 x1 x2 => Sys2Proof.Machine.execVldk x0 x1 x2 s
  | .vdeqk x0 x1 x2 => Sys2Proof.Machine.execVdeqk x0 x1 x2 s
  | .cbwait x0 x1 => Sys2Proof.Machine.execCbwait x0 x1 s
  | .cbwaitProbe x0 => Sys2Proof.Machine.execCbwaitProbe x0 s
  | .cbfree x0 x1 => Sys2Proof.Machine.execCbfree x0 x1 s
  | .cbadvc x0 x1 => Sys2Proof.Machine.execCbadvc x0 x1 s
  | .cbadvp x0 x1 => Sys2Proof.Machine.execCbadvp x0 x1 s
  | .cbstat x0 x1 => Sys2Proof.Machine.execCbstat x0 x1 s
  | .qfence x0 x1 x2 x3 => Sys2Proof.Machine.execQfence x0 x1 x2 x3 s
  | .cred x0 x1 x2 x3 => Sys2Proof.Machine.execCred x0 x1 x2 x3 s
  | .wpwait x0 x1 => Sys2Proof.Machine.execWpwait x0 x1 s
  | .instructionFetch x0 => Sys2Proof.Machine.execInstructionFetch x0 s
  | .memoryAccessComplete x0 => Sys2Proof.Machine.execMemoryAccessComplete x0 s
  | .walk x0 => Sys2Proof.Machine.execWalk x0 s
  | .pauseEnd x0 => Sys2Proof.Machine.execPauseEnd x0 s
  | .watchdog x0 => Sys2Proof.Machine.execWatchdog x0 s
  | .slotTableWrite x0 x1 x2 x3 => Sys2Proof.Machine.execSlotTableWrite x0 x1 x2 x3 s
  | .slotTableInstall x0 => Sys2Proof.Machine.execSlotTableInstall x0 s
  | .homeSliceStore x0 => Sys2Proof.Machine.execHomeSliceStore x0 s
  | .hbmLineInstall x0 => Sys2Proof.Machine.execHbmLineInstall x0 s
  | .mergingWindowEnd x0 => Sys2Proof.Machine.execMergingWindowEnd x0 s
  | .cxlPortRequest x0 => Sys2Proof.Machine.execCxlPortRequest x0 s
  | .copyHead x0 x1 => Sys2Proof.Machine.execCopyHead x0 x1 s
  | .copyNotBefore x0 x1 => Sys2Proof.Machine.execCopyNotBefore x0 x1 s
  | .copyLineLanding x0 x1 => Sys2Proof.Machine.execCopyLineLanding x0 x1 s
  | .multicastLanding x0 x1 x2 => Sys2Proof.Machine.execMulticastLanding x0 x1 x2 s
  | .mOpComplete x0 => Sys2Proof.Machine.execMOpComplete x0 s
  | .matrixRowFault x0 => Sys2Proof.Machine.execMatrixRowFault x0 s
  | .kWriteLanding x0 => Sys2Proof.Machine.execKWriteLanding x0 s
  | .credContributionRead x0 => Sys2Proof.Machine.execCredContributionRead x0 s
  | .credResult x0 => Sys2Proof.Machine.execCredResult x0 s
  | .ddsyncComplete x0 => Sys2Proof.Machine.execDdsyncComplete x0 s
  | .exitDrainComplete x0 => Sys2Proof.Machine.execExitDrainComplete x0 s
  | .qtailWrite x0 x1 x2 => Sys2Proof.Machine.execQtailWrite x0 x1 x2 s
  | .launchRecord x0 x1 => Sys2Proof.Machine.execLaunchRecord x0 x1 s
  | .relaunchRecord x0 x1 => Sys2Proof.Machine.execRelaunchRecord x0 x1 s
  | .relaunchDecision x0 x1 => Sys2Proof.Machine.execRelaunchDecision x0 x1 s
  | .pretranslation x0 x1 x2 => Sys2Proof.Machine.execPretranslation x0 x1 x2 s
  | .blockDispatch x0 => Sys2Proof.Machine.execBlockDispatch x0 s
  | .gangDispatch x0 x1 x2 => Sys2Proof.Machine.execGangDispatch x0 x1 x2 s
  | .queueAging x0 x1 => Sys2Proof.Machine.execQueueAging x0 x1 s
  | .checkpoint x0 => Sys2Proof.Machine.execCheckpoint x0 s
  | .restore x0 x1 x2 => Sys2Proof.Machine.execRestore x0 x1 x2 s
  | .faultRecordPost x0 => Sys2Proof.Machine.execFaultRecordPost x0 s
  | .fqHeadWrite x0 x1 => Sys2Proof.Machine.execFqHeadWrite x0 x1 s
  | .ctxcmdResume x0 x1 x2 => Sys2Proof.Machine.execCtxcmdResume x0 x1 x2 s
  | .ctxcmdRemove x0 x1 x2 => Sys2Proof.Machine.execCtxcmdRemove x0 x1 x2 s
  | .ctxcmdResumeCopy x0 x1 x2 x3 => Sys2Proof.Machine.execCtxcmdResumeCopy x0 x1 x2 x3 s
  | .ctxcmdDiscardCopy x0 x1 x2 x3 => Sys2Proof.Machine.execCtxcmdDiscardCopy x0 x1 x2 x3 s
  | .ctxcmdRedirect x0 x1 x2 => Sys2Proof.Machine.execCtxcmdRedirect x0 x1 x2 s
  | .removalEngineDrained x0 => Sys2Proof.Machine.execRemovalEngineDrained x0 s
  | .coreReset x0 => Sys2Proof.Machine.execCoreReset x0 s
  | .extcmdInstall x0 x1 x2 => Sys2Proof.Machine.execExtcmdInstall x0 x1 x2 s
  | .extcmdFail x0 x1 x2 => Sys2Proof.Machine.execExtcmdFail x0 x1 x2 s
  | .linkcmdRetrain x0 => Sys2Proof.Machine.execLinkcmdRetrain x0 s
  | .linkcmdTakeDown x0 => Sys2Proof.Machine.execLinkcmdTakeDown x0 s
  | .linkcmdBringUp x0 => Sys2Proof.Machine.execLinkcmdBringUp x0 s
  | .repcmd x0 => Sys2Proof.Machine.execRepcmd x0 s
  | .svcreq x0 x1 => Sys2Proof.Machine.execSvcreq x0 x1 s
  | .retire x0 => Sys2Proof.Machine.execRetire x0 s
  | .dutySplit x0 => Sys2Proof.Machine.execDutySplit x0 s
  | .astsync x0 x1 => Sys2Proof.Machine.execAstsync x0 x1 s
  | .astsyncComplete x0 => Sys2Proof.Machine.execAstsyncComplete x0 s
  | .readFailureRecords x0 => Sys2Proof.Machine.execReadFailureRecords x0 s
  | .attest x0 => Sys2Proof.Machine.execAttest x0 s
  | .readMeasurements x0 => Sys2Proof.Machine.execReadMeasurements x0 s
  | .readTelemetry x0 => Sys2Proof.Machine.execReadTelemetry x0 s
  | .resetTheDevice x0 => Sys2Proof.Machine.execResetTheDevice x0 s
  | .readIdentityPublicKey x0 => Sys2Proof.Machine.execReadIdentityPublicKey x0 s
  | .raiseFusedSvnMinimum x0 => Sys2Proof.Machine.execRaiseFusedSvnMinimum x0 s
  | .dctlStep x0 => Sys2Proof.Machine.execDctlStep x0 s
  | .debugKaddrRead x0 => Sys2Proof.Machine.execDebugKaddrRead x0 s
  | .registerWrite x0 x1 => Sys2Proof.Machine.execRegisterWrite x0 x1 s
  | .bankGroupSlot x0 x1 x2 => Sys2Proof.Machine.execBankGroupSlot x0 x1 x2 s
  | .sweepSlot x0 => Sys2Proof.Machine.execSweepSlot x0 s
  | .majorSlot x0 => Sys2Proof.Machine.execMajorSlot x0 s
  | .forcedAllBankRefresh x0 => Sys2Proof.Machine.execForcedAllBankRefresh x0 s
  | .heartbeatLoss x0 => Sys2Proof.Machine.execHeartbeatLoss x0 s
  | .flitReceive x0 x1 => Sys2Proof.Machine.execFlitReceive x0 x1 s
  | .linkTransfer x0 => Sys2Proof.Machine.execLinkTransfer x0 s
  | .peerRequest x0 => Sys2Proof.Machine.execPeerRequest x0 s
  | .linkTransferComplete x0 => Sys2Proof.Machine.execLinkTransferComplete x0 s
  | .bringUpStage x0 => Sys2Proof.Machine.execBringUpStage x0 s
  | .homeSliceRead x0 => Sys2Proof.Machine.execHomeSliceRead x0 s
  | .expanderAcknowledge x0 => Sys2Proof.Machine.execExpanderAcknowledge x0 s
  | .exit => Sys2Proof.Machine.execExit s
  | .rett => Sys2Proof.Machine.execRett s
  | .ddsync => Sys2Proof.Machine.execDdsync s
  | .l1inva => Sys2Proof.Machine.execL1inva s
  | .xclr => Sys2Proof.Machine.execXclr s
  | .bar => Sys2Proof.Machine.execBar s
  | .wideBundle => Sys2Proof.Machine.execWideBundle s
  | .dictionaryBundle => Sys2Proof.Machine.execDictionaryBundle s
  | .endOfKernelMarker => Sys2Proof.Machine.execEndOfKernelMarker s
  | .nextSlice => Sys2Proof.Machine.execNextSlice s
  | .resize => Sys2Proof.Machine.execResize s
  | .dctlHalt => Sys2Proof.Machine.execDctlHalt s
  | .dctlRun => Sys2Proof.Machine.execDctlRun s
  | .drainLead => Sys2Proof.Machine.execDrainLead s
  | .slotEnd => Sys2Proof.Machine.execSlotEnd s
  | .powerOn => Sys2Proof.Machine.execPowerOn s
  | .conventionalReset => Sys2Proof.Machine.execConventionalReset s
  | .moduleOff => Sys2Proof.Machine.execModuleOff s

end Sys2Proof.Machine
end

