-- ==== Sys2Proof/Machine/Schedule.lean ====
section
/-! DEFINITION. Whose turn it is when the agenda is empty, the end of a cycle, and the placing of an instruction
where the next step fetches it (log 5, log 35). -/

namespace Sys2Proof.Machine

/-! ### Turns of the device's own agents

A turn that finds nothing to do changes nothing, so a list may name more turns than there is work. -/

/-- Turns of a channel. -/
def chanTurns (i n : Nat) (q : List Copy) : List Instr :=
  match q with
  | [] => []
  | o :: _ => [.copyHead i n, .copyNotBefore i n, .copyLineLanding i n] ++ o.recv.map (fun r => .multicastLanding i n r.member)

/-- The first waiting store of a context that may be performed at a home, or may reach it. -/
def State.readyStore (s : State) (i : Nat) : Option Nat :=
  let c := s.ctxAt i
  c.stores.findIdx? (fun t => !t.own && c.storeReady t && (t.arr == 0 || !s.storeWaits t))

/-- Turns of a context and its engines. -/
def State.ctxTurns (s : State) (i : Nat) : List Instr :=
  let c := s.ctxAt i
  (if c.walkReq.isSome || !c.engReqs.isEmpty then [.walk i] else []) ++ (if c.stall.isSome then [.memoryAccessComplete i] else [])
    ++ (if c.pauseEnd = 0 then [] else [.pauseEnd i]) ++ (if c.ddsync then [.ddsyncComplete i] else [])
    ++ (if c.kpend.isEmpty then [] else [.kWriteLanding i])
    ++ (match s.readyStore i with | some k => [.homeSliceStore (.context i k)] | none => [])
    ++ (if c.mq.isEmpty then [] else [.mOpComplete i, .matrixRowFault i])
    ++ (if c.xq.isEmpty then [] else [.credContributionRead i, .credResult i])
    ++ (match c.status with
        | .running => [.instructionFetch i, .watchdog i] ++ (if c.atBound then [.checkpoint i] else [])
        | .exiting => [.watchdog i, .exitDrainComplete i]
        | .suspended => [.removalEngineDrained i]
        | .removing _ _ => [.removalEngineDrained i, .coreReset (coreOf i)]
        | _ => [])
    ++ (if c.fbuf.isSome then [.faultRecordPost (.context i)] else [])
    ++ c.ebuf.map (fun e => .faultRecordPost (.engine i e.1))

/-- The numbers of the blocks of a record that wait to be placed: pending ones with `none`, saved ones with their
slot. -/
def Launch.waiting (l : Launch) : List (Nat × Option Nat) :=
  ((range 0 l.blocks.length).zip l.blocks).filterMap (fun e => match e.2 with
    | .pending => some (e.1, none)
    | .saved k _ => some (e.1, some k)
    | _ => none)

/-- Turns of the arbiter for the contexts where a block of a record may go. -/
def State.blockTurns (s : State) (part : Nat) (l : Launch) (b : Nat) (slot : Option Nat) : List Instr :=
  ((s.partAt part).contextsOf l.lrec b).flatMap (fun i =>
    if (s.ctxAt i).status ≠ .free then []
    else match slot with
      | some k => [.restore part k i]
      | none => [.pretranslation part l.queue i]
          ++ (if l.lrec.gangN = 0 then [.blockDispatch i] else [.gangDispatch part l.queue (l.lrec.gangOf b)]))

/-- Turns of the arbiter for a partition. -/
def State.placeTurns (s : State) (part : Nat) : List Instr :=
  (s.partAt part).launches.flatMap (fun l => l.waiting.flatMap (fun e => s.blockTurns part l e.1 e.2))

/-- The records of a queue that the device has not passed. -/
def Queue.waiting (u : Queue) : Nat := (u.tail + u.entries - u.head) % u.entries

/-- Turns of a partition's queues: one for each waiting record. -/
def State.queueTurns (s : State) (part : Nat) : List Instr :=
  let p := s.partAt part
  p.queues.flatMap (fun q => (range 0 (q.2.waiting)).flatMap (fun _ => [.launchRecord part q.1, .relaunchRecord part q.1])
      ++ (if q.2.waitT.isSome then [.queueAging part q.1] else []))
    ++ (p.launches.filter (fun l => !l.decided)).map (fun l => .relaunchDecision part l.queue)
    ++ (if p.fqWait.isEmpty then [] else [.faultRecordPost (.controller part)])
    ++ (if p.astBusy.isSome then [.astsyncComplete part] else [])
    ++ [.linkTransfer part, .linkTransferComplete part]

/-- What a major slot meets when nothing comes from outside: power, offsets and links as they last were. -/
def Package.sameInput (p : Package) : MajorInput :=
  { meanPower := p.meanPower, offsets := p.offsets,
    linksUp := (range 0 12).foldl (fun b i => if (p.linkAt i).up then b ||| 1#12 <<< i else b) 0 }

/-- Turns of slot tables, home slices, ports, links and quench slots. -/
def State.unitTurns (s : State) : List Instr :=
  (s.cores.filter (fun e => e.2.newAt.isSome)).map (fun e => .slotTableInstall e.1)
    ++ s.dies.flatMap (fun e => e.2.windows.flatMap (fun w => [.hbmLineInstall w.pline, .mergingWindowEnd w.pline]))
    ++ (range 0 4).flatMap (fun p => if (vget Port.reset s.pkg.ports p).up then [.cxlPortRequest p, .expanderAcknowledge p] else [])
    ++ s.late.filterMap (fun e => match e.2 with | .store o => some (.homeSliceStore o) | .peer r => some (.peerRequest r) | _ => none)
    ++ (s.pkg.poisoned.filter (fun l => isHbm (64 * l) && !s.met l)).map (fun l => .bankGroupSlot (pchOf (64 * l)) (bgOf (64 * l)) [])
    ++ (range 0 12).filterMap (fun i => if 8 < (s.pkg.linkAt i).missed then some (.heartbeatLoss i) else none)
    ++ (s.pkg.pch.filter (fun e => e.2.forced.isSome)).map (fun e => .forcedAllBankRefresh e.1)
    ++ (match s.majorOpen with | some o => if s.pkg.majorT = some o then [] else [.majorSlot s.pkg.sameInput] | none => [])
    ++ (if s.pkg.endT.isSome then [.slotEnd] else [])
    ++ (if s.ctxs.any (fun e => e.2.sliceWait.isSome) then [.nextSlice] else [])

/-- Turns of the copies, whose bytes of the scratchpad are served after those of the L and S slots (02 R40). -/
def State.copyTurns (s : State) : List Instr :=
  s.ctxs.flatMap (fun e => e.2.chans.flatMap (fun q => chanTurns e.1 q.1 q.2))

/-- The turns of a cycle: every agent that may have work, once, then the arbiter, the choice of the contexts that
issue, their issue, the copies, and the end of the cycle. -/
def State.turns (s : State) : List Turn :=
  (s.unitTurns ++ s.ctxs.flatMap (fun e => s.ctxTurns e.1) ++ s.parts.flatMap (fun e => s.queueTurns e.1)).map .event
    ++ [.place, .pick, .done] ++ s.copyTurns.map .event ++ [.tick]

/-! ### Cycles -/

/-- Whether an instruction is a slot's or a bundle's: those come to run only through issue. -/
def issued (i : Instr) : Bool :=
  Slot.all.any (fun sl => i.inSlot sl) || (match i with
    | .wideBundle | .dictionaryBundle | .endOfKernelMarker => true
    | _ => false)

/-- Records whose blocks have ended and whose completion a slot has held post it (18 R302; 21 R352). -/
def State.finishDue (s : State) : State :=
  s.parts.foldl (fun s e => e.2.launches.foldl (fun s l => s.finish e.1 l.key) s) s

/-- The end of a cycle: the links do their work, completions that have waited go out, and PTIME, of 64 bits (00 R1),
advances. -/
def State.tick (s : State) : State :=
  if s.pkg.dev = .off then s else { s.linksWork.finishDue with ptime := (s.ptime + 1) % 2 ^ 64 }

/-- The issue stages of a device in service choose the contexts of this cycle, once barriers are settled; the others
settle what their bundles wait on. -/
def State.choose (s0 : State) : State :=
  if s0.pkg.dev = .ready then
    let s := s0.ctxs.foldl (fun t e => t.settleBar e.1) s0
    { s.ctxs.foldl (fun t e => t.settleAsk e.1 (s.ask e.1)) s with issueQ := s.issuers }
  else s0

/-- The bundle event of the context in issue, by the KIND of the header at its pc. -/
def State.bundleEvent (s : State) : Instr :=
  match s.headKind with
  | 1 => .dictionaryBundle
  | 3 => .endOfKernelMarker
  | _ => .wideBundle

/-- A soft error arises: what cannot be corrected stands until it is written over; in the control state of a context it
posts a record of SRC 5 with FATAL = 1, and the context is removed (24 R381, R382; 19 R336). -/
def State.upset (s : State) (u : Upset) : State :=
  match u with
  | .memory l => s.modPkg (fun p => { p with poisoned := if p.poisoned.contains l then p.poisoned else l :: p.poisoned })
  | .sram core x => s.modCoreAt core (fun k => { k with bad := if k.bad.contains x then k.bad else x :: k.bad })
  | .fixed => s.modPkg (fun p => { p with sramFixed := p.sramFixed + 1 })
  | .corrected l => if s.powered && isHbm (64 * l) then s.modPkg (·.scrubFixed s.ptime l) else s
  | .control i =>
    let c := s.ctxAt i
    if c.block.isNone then s
    else match c.status with
      | .removing _ _ => s
      | _ =>
        let r := s.ctxRec i 0x19 3 5 fFatal 0 c.pc 0
        (s.modCtxAt i (fun c => { c with status := .removing 1 s.ptime })).postCtx i r

/-- What the next step does. -/
inductive Move
  | run (i : Instr)
  | still

/-- The head of the issue queue is chosen. -/
def State.toIssue (s : State) : Move × State :=
  match s.issueQ with
  | [] => (.still, s)
  | c :: q => let s := { s with cur := c, issueQ := q }; (.run s.bundleEvent, s)

/-- The next step's move, and the state it acts on. A cycle ends only when its contexts have issued. -/
def State.move (s : State) : Move × State :=
  match s.agenda with
  | .issue :: t => ({ s with agenda := t } : State).toIssue
  | .event i :: t => if issued i then (.still, { s with agenda := t }) else (.run i, { s with agenda := t })
  | .upset u :: t =>
    let r := ({ s with agenda := t } : State).upset u
    (.still, if r.noRoom then { s with agenda := t ++ [.upset u] } else r)
  | .pick :: t => (.still, ({ s with agenda := t } : State).choose)
  | .place :: t => (.still, { s with agenda := (s.parts.flatMap (fun e => s.placeTurns e.1)).map .event ++ t })
  | .done :: t => if s.issueQ.isEmpty then (.still, { s with agenda := t }) else s.toIssue
  | .tick :: t => if s.issueQ.isEmpty then (.still, ({ s with agenda := t } : State).tick) else s.toIssue
  | [] =>
    if !s.issueQ.isEmpty then s.toIssue
    else if s.pkg.dev = .ready then (.still, { s with agenda := s.turns })
    else (.still, s.tick)

/-! ### Placing an instruction -/

/-- The words of a bundle that holds one slot word, as a line whose other words are bundles without slots. -/
def oneSlotLine (w : SlotWord) : Line :=
  let n := match tableWord w with | some (sl, _) => sl.index | none => 0
  BitVec.ofNat 512 (w.toNat * 2 ^ 32 + 2 ^ (29 - n))

/-- A launch record whose code segment ends at an address. -/
def LRec.plain (cseg : Nat) : LRec :=
  { cmd := 0, nlev := 1, flags := 0, tokens := 0, kobj := 0, param := 0, cseg := cseg, tstore := 0, rest := 0, runest := 0, scratch := 0,
    tiles := 0, kbufs := 0, asid := 0, plen := 0, lt := [{ count := 1, kind := 1, gang := false, pre := false, rest := 0 }], rng := [],
    resv := false }

/-- A kernel at word address 0 with nothing declared. -/
def Kernel.plain : Kernel :=
  { entry := 0, scratch := 0, pbase := 0, pslots := 0, tiles := 0, kbufs := 0, dict := [], tmpl := [], gset := [], handles := [],
    rng := [], lt := [] }

/-- A block of that kernel with one line of code. -/
def Block.plain : Block :=
  { part := 0, queue := 0, key := 0, lid := 0, b := 0, member := 0, gang := 0, gangCore := 0, parity := 0, wid := 0,
    lrec := .plain 16, kernel := .plain, scratchBase := 0, tileBase := 0, kbufBase := 0, dispatchT := 0 }

/-- A context that may attempt the bundle at word address 0, whose line stands in its instruction buffer. -/
def Ctx.readyFor (c : Ctx) (d : Line) : Ctx :=
  { c with pc := 0, slot := 0, resume := .none, status := .running, block := some .plain, halt := false, halted := false, step := false,
           stall := none, ddsync := false, walkReq := none, atBound := false, issuedAt := none, posted := false, inIssue := none, hold := none,
           closed := false, pauseEnd := 0,
           bps := Vector.replicate 8 0, ibuf := [{ vline := 0, pline := 0, data := d, user := true }] }

/-- A word placed as the next bundle of context 0, in a device that is in service (log 35). -/
def State.placeWord (s : State) (w : SlotWord) : State :=
  let d := oneSlotLine w
  let s := (s.modCtxAt 0 (·.readyFor d)).modCtxAt 1 (fun c => { c with stall := none })
  { s with mem := memWriteLine s.mem 0 d (BitVec.allOnes 64), agenda := [], issueQ := [0], pkg := { s.pkg with dev := .ready } }

end Sys2Proof.Machine
end

