-- ==== Sys2Proof/Machine/Step.lean ====
section
/-! DEFINITION. The step of the machine: the turn that is due runs (log 5). -/

namespace Sys2Proof.Machine

/-- One step. -/
def step (s : State) : Host.Outcome State Fault Refusal :=
  match s.move with
  | (.run i, s') => exec i s'
  | (.still, s') => .next s'

/-- The state with a table word as the instruction that the next step fetches (log 35). -/
def State.withFetchWord (s : State) (_nbits w : Nat) : State := s.placeWord (BitVec.ofNat 32 w)

end Sys2Proof.Machine
end

