-- ==== Sys2Proof/Safety.lean ====
section
/-! DEFINITION. The terms of the claims: a run that does not stop, and what a step of one context may
change: its results (06 R122, 07 R139, 08 R174), its frame, the entry of an exception (07 R161). -/

namespace Sys2Proof.Safety

open Sys2Proof.Machine

/-- `k` steps from a state all answer a next state. -/
def Runs : Nat → State → Prop
  | 0, _ => True
  | k + 1, s => ∃ t, step s = .next t ∧ Runs k t

/-- What an answer is when it is the next state `t` with a property. -/
def Next (o : Out) (P : State → Prop) : Prop := ∃ t, o = .next t ∧ P t

/-! ### Frames -/

/-- The memory and every scratchpad stand in canonical form. -/
def Canonical (s : State) : Prop := Memory.wf s.mem = true ∧ ∀ k, Memory.wf (s.coreAt k).scratch = true

/-- Each context stands once in the table of contexts. -/
def Tables (s : State) : Prop := (s.ctxs.map (fun e => e.1)).Nodup

/-- Every byte of memory reads as before. -/
def SameMemory (s t : State) : Prop := ∀ a, memByte t.mem a = memByte s.mem a

/-- Only context `i` has changed: the other contexts, the rest of the device and memory are as before. -/
structure OnlyCtx (s t : State) (i : Nat) : Prop where
  others : ∀ j, j ≠ i → t.ctxAt j = s.ctxAt j
  rest : { t with ctxs := s.ctxs } = s
  memory : SameMemory s t

/-- The context in issue but for its register files, what the bundle keeps of them, and the times at which
results become readable. -/
def SameBesideRegs (c d : Ctx) : Prop :=
  { d with regs := c.regs, resume := c.resume, ready := c.ready } = c

/-- The same beside the sticky flags. -/
def SameBesideFlags (c d : Ctx) : Prop :=
  { d with regs := c.regs, resume := c.resume, ready := c.ready, fflags := c.fflags, fpend := c.fpend } = c

/-- What a bundle keeps beside the old values of its registers stays. -/
def SameEnds (c d : Ctx) : Prop :=
  d.resume.skip = c.resume.skip ∧ d.resume.exiting = c.resume.exiting ∧ d.resume.marked = c.resume.marked

/-- S[r] of the context in issue, as written so far. -/
def regS (s : State) (r : SReg) : Word := s.ctx.regs.getS r
def regP (s : State) (r : PReg) : Bool := s.ctx.regs.getP r
def regV (s : State) (r : VReg) : VWord := s.ctx.regs.getV r
def regQ (s : State) (r : QReg) : QMask := s.ctx.regs.getQ r

/-- The later slots of the bundle read what the earlier ones read (06 R122). -/
structure SameReads (s t : State) : Prop where
  scalars : ∀ r, t.rS r = s.rS r
  predicates : ∀ r, t.rP r = s.rP r
  vectors : ∀ r, t.rV r = s.rV r
  masks : ∀ r, t.rQ r = s.rQ r

/-! ### Results -/

/-- In context `c` S[d] holds `x`, readable from time `at_`, where `b` had its own value; s0 discards it. The other
registers are as before. -/
structure ResultS (b c : Ctx) (at_ : Nat) (d : SReg) (x : Word) : Prop where
  value : ∀ r, c.regs.getS r = if r = d ∧ d ≠ 0 then x else b.regs.getS r
  ready : ∀ r, c.readyAt r = if r = .s d ∧ d ≠ 0 then at_ else b.readyAt r
  others : c.regs.p = b.regs.p ∧ c.regs.v = b.regs.v ∧ c.regs.q = b.regs.q

/-- The same for a predicate; p0 discards it. -/
structure ResultP (b c : Ctx) (at_ : Nat) (d : PReg) (x : Bool) : Prop where
  value : ∀ r, c.regs.getP r = if r = d ∧ d ≠ 0 then x else b.regs.getP r
  ready : ∀ r, c.readyAt r = if r = .p d ∧ d ≠ 0 then at_ else b.readyAt r
  others : c.regs.s = b.regs.s ∧ c.regs.v = b.regs.v ∧ c.regs.q = b.regs.q

/-- The same for a vector register. -/
structure ResultV (b c : Ctx) (at_ : Nat) (d : VReg) (x : VWord) : Prop where
  value : ∀ r, c.regs.getV r = if r = d then x else b.regs.getV r
  ready : ∀ r, c.readyAt r = if r = .v d then at_ else b.readyAt r
  others : c.regs.s = b.regs.s ∧ c.regs.p = b.regs.p ∧ c.regs.q = b.regs.q

/-- The same for a lane mask; q0 stays all ones. -/
structure ResultQ (b c : Ctx) (at_ : Nat) (d : QReg) (x : QMask) : Prop where
  value : ∀ r, c.regs.getQ r = if r = d ∧ d ≠ 0 then x else b.regs.getQ r
  ready : ∀ r, c.readyAt r = if r = .q d ∧ d ≠ 0 then at_ else b.readyAt r
  others : c.regs.s = b.regs.s ∧ c.regs.p = b.regs.p ∧ c.regs.v = b.regs.v

/-- S[d] of the context in issue is written, readable after `lat` cycles, and nothing else changes. -/
structure WroteS (s t : State) (lat : Nat) (d : SReg) (x : Word) : Prop where
  only : OnlyCtx s t s.cur
  result : ResultS s.ctx t.ctx (s.ptime + lat) d x
  reads : SameReads s t
  frame : SameBesideRegs s.ctx t.ctx ∧ SameEnds s.ctx t.ctx

/-- P[d] of the context in issue is written, and nothing else changes. -/
structure WroteP (s t : State) (lat : Nat) (d : PReg) (x : Bool) : Prop where
  only : OnlyCtx s t s.cur
  result : ResultP s.ctx t.ctx (s.ptime + lat) d x
  reads : SameReads s t
  frame : SameBesideRegs s.ctx t.ctx ∧ SameEnds s.ctx t.ctx

/-- An answer that writes S[d] after `lat` cycles and nothing else. -/
def ScalarResult (s : State) (o : Out) (lat : Nat) (d : SReg) (x : Word) : Prop := Next o (fun t => WroteS s t lat d x)

/-- An answer that writes P[d] after one cycle and nothing else. -/
def PredicateResult (s : State) (o : Out) (d : PReg) (x : Bool) : Prop := Next o (fun t => WroteP s t 1 d x)

/-- FFLAGS as it reads from now on has the flags `f` from `lat` cycles on (03 R79). -/
def FlagsAfter (s t : State) (lat : Nat) (f : BitVec 5) : Prop :=
  ∀ u, s.ptime ≤ u → t.ctx.fflagsAt u = s.ctx.fflagsAt u ||| (if s.ptime + lat ≤ u then f else 0)

/-- V[d] of the context in issue and its flags are written by the V slot, and nothing else changes. -/
structure WroteV (s t : State) (lat : Nat) (d : VReg) (x : VWord) (f : BitVec 5) : Prop where
  only : OnlyCtx s t s.cur
  result : ResultV s.ctx t.ctx (s.ptime + lat) d x
  flags : FlagsAfter s t lat f
  reads : SameReads s t
  frame : SameBesideFlags s.ctx t.ctx ∧ SameEnds s.ctx t.ctx

/-- The same for a lane mask. -/
structure WroteQ (s t : State) (lat : Nat) (d : QReg) (x : QMask) (f : BitVec 5) : Prop where
  only : OnlyCtx s t s.cur
  result : ResultQ s.ctx t.ctx (s.ptime + lat) d x
  flags : FlagsAfter s t lat f
  reads : SameReads s t
  frame : SameBesideFlags s.ctx t.ctx ∧ SameEnds s.ctx t.ctx

/-- The same for a scalar that the V slot writes; it raises no flag. -/
structure WroteSV (s t : State) (lat : Nat) (d : SReg) (x : Word) : Prop where
  only : OnlyCtx s t s.cur
  result : ResultS s.ctx t.ctx (s.ptime + lat) d x
  flags : FlagsAfter s t lat 0
  reads : SameReads s t
  frame : SameBesideFlags s.ctx t.ctx ∧ SameEnds s.ctx t.ctx

/-- `x` with flags `f` is the element-wise result of `g` over `old` for elements of width `w`: an element whose mask
bit is clear keeps its value and raises nothing, the flags are those of the others (03 R78, 08 R174). -/
structure Elementwise (w : Nat) (m : QMask) (old x : VWord) (f : BitVec 5) (g : Nat → Nat × BitVec 5) : Prop where
  value : ∀ i, i < 4096 / w → elem x w i = if maskBit m w i then (g i).1 % 2 ^ w else elem old w i
  flags : ∀ k, f.getLsbD k = true ↔ ∃ i, i < 4096 / w ∧ maskBit m w i = true ∧ (g i).2.getLsbD k = true

/-- An answer that writes V[d] element-wise after `lat` cycles. -/
def VectorResult (s : State) (o : Out) (lat : Nat) (f : Fmt) (d : VReg) (q : QReg) (g : Nat → Nat × BitVec 5) : Prop :=
  Next o (fun t => ∃ x fl, WroteV s t lat d x fl ∧ Elementwise f.width (s.rQ q) (s.rV d) x fl g)

/-! ### Exceptions -/

/-- The context in issue takes its exceptions at a handler of its own: TE = 1, TVEC is not the core monitor's entry,
and faults are not forced to suspend (19 R332, 20). -/
def OwnHandler (s : State) : Prop :=
  s.ctx.te = true ∧ s.ctx.tvec ≠ Config.monitorEntry ∧ getB s.pkg.duty 1 = false

/-- Trap entry of 07 R161 in the context in issue: what it saves, the status and the mode, the pc at TVEC; registers,
memory and the other contexts stay. -/
structure Entered (s t : State) (code cls : Nat) (value bundle : Word) (slot : Nat) : Prop where
  cause : t.ctx.tcause = BitVec.ofNat 10 (cls * 256 + code)
  tval : t.ctx.tval = value
  tpcw : t.ctx.tpcw = bundle
  slotres : t.ctx.slotres = BitVec.ofNat 3 slot
  pc : t.ctx.pc = s.ctx.tvec
  privilege : t.ctx.priv = true ∧ t.ctx.ppriv = s.ctx.priv
  enable : t.ctx.te = false ∧ t.ctx.pte = true
  delay : t.ctx.delay = none
    ∧ t.ctx.dly = (match s.ctx.delay with | some d => BitVec.ofNat 2 d.left | none => 0)
    ∧ t.ctx.dtk = (match s.ctx.delay with | some d => d.taken | none => false)
    ∧ t.ctx.tdtgt = (match s.ctx.delay with | some d => d.target | none => 0)
  stops : t.issue.stop = .trapped
  regs : t.ctx.regs = s.ctx.regs
  loops : t.ctx.loops = s.ctx.loops
  others : ∀ j, j ≠ s.cur → t.ctxAt j = s.ctxAt j
  device : t.cores = s.cores ∧ t.dies = s.dies ∧ t.parts = s.parts ∧ t.pkg = s.pkg ∧ t.tags = s.tags
    ∧ t.ptime = s.ptime
  memory : SameMemory s t

/-- A fault of class B in the context in issue (14 R266): the shadow is restored, the gated stores of the region are
discarded, and the handler at TVEC sees the restart point. -/
structure RolledBack (s t : State) (code : Nat) (value : Word) : Prop where
  cause : t.ctx.tcause = BitVec.ofNat 10 (256 + code)
  tval : t.ctx.tval = value
  point : t.ctx.tpcw = s.ctx.shadow.pc ∧ t.ctx.slotres = BitVec.ofNat 3 s.ctx.shadow.slot
  pc : t.ctx.pc = s.ctx.tvec
  mode : t.ctx.priv = true ∧ t.ctx.te = false ∧ t.ctx.ppriv = s.ctx.priv
  regs : t.ctx.regs = s.ctx.shadow.regs
  loops : t.ctx.loops = s.ctx.shadow.loops
  stores : t.ctx.stores = s.ctx.stores.filter (fun k => !k.gated)
  stops : t.issue.stop = .trapped
  others : ∀ j, j ≠ s.cur → t.ctxAt j = s.ctxAt j
  memory : SameMemory s t

/-! ### Accesses -/

/-- An aligned access of `n` bytes at an address of the virtual space that the launch's ranges, the page tables, the
permissions and the page's kind allow (19 R321, 05 R101): its extent and physical address. -/
structure Allowed (s : State) (ea : Word) (n : Nat) (k : AccKind) (kept : Bool) (e : Extent) (pa : Nat) : Prop where
  region : regionOf ea = .virt ea.toNat
  aligned : ea.toNat % n = 0
  translated : s.translate s.cur ea.toNat n k s.issue.user = .ok e pa
  page : e.k = kept

/-- An access of `n` bytes of the hearth window within the footprint that it names: core and offset (02 R39). -/
structure InWindow (s : State) (ea : Word) (n : Nat) (core off : Nat) : Prop where
  region : ∃ m byte, regionOf ea = .window m byte ∧ byte % n = 0 ∧ s.windowAt s.cur m byte n = some (core, off)
  idle : s.ctx.windowBusy core off n (core == coreOf s.cur) = false

/-- No operation of the M queue of the context in issue reaches `n` bytes at an address of the window that lie in a
core: one that reads them in the context's own core, or any in another; or the queue's head is held (04 R84, log 49). -/
def MatrixClear (s : State) (ea : Word) (n core : Nat) : Prop :=
  s.ctx.heldOp = none →
    ∀ o ∈ s.ctx.mq, (core = coreOf s.cur → o.kind = .mst) → o.meets ea.toNat (byteMask (ea.toNat % 64) n) = false

/-- No operation of the M queue that a test picks reaches `n` bytes of a line of the virtual space, or the queue's head is
held (04 R84, log 49). -/
def LineClear (s : State) (pick : MOp → Prop) (ea : Word) (pa n : Nat) : Prop :=
  s.ctx.heldOp = none → ∀ o ∈ s.ctx.mq, pick o → o.meetsLine ea.toNat (pa / 64) (byteMask (pa % 64) n) = false

/-- A load of `n` bytes of the virtual space, of a page kind, waits for no earlier access of its context (04 R84, R85, R87,
R91). -/
def LoadFree (s : State) (k : PageKind) (ea : Word) (pa n : Nat) : Prop :=
  s.ctx.loadWaits k = false ∧ LineClear s (fun o => o.kind = .mst) ea pa n

/-- A load of `n` bytes of the window waits for no earlier access of its context. -/
def WindowFree (s : State) (ea : Word) (n : Nat) : Prop :=
  s.ctx.loadWaits .rc = false ∧ MatrixClear s ea n (coreOf s.cur)

/-- The bank has served in this cycle a store to byte `a` of a core's scratchpad that comes, in the bank order, after one of
context `i` through unit 1 M, 2 L, 3 S or 4 of a copy; the L and S slots of one context keep program order (02 R40, R41; 04
R97). -/
def Outrun (s : State) (i core unit a : Nat) : Prop :=
  (s.coreAt core).servedT = s.ptime ∧ ∃ e ∈ (s.coreAt core).served, e.line = a / 64 ∧ e.mask.getLsbD (a % 64) = true
    ∧ bankOrder i core unit < e.order ∧ ¬ (e.cx = i ∧ bankOrder i core unit = 2 ∧ e.order = 3)

/-- Byte `a` of a core's scratchpad after a store of context `i` through a unit, of a value where it `writes` the byte: one
that it does not write stays, and one that a store in a later place of the bank order has written. -/
def BankByte (s t : State) (i core unit a : Nat) (writes : Prop) (value : Byte) : Prop :=
  (writes → ¬ Outrun s i core unit a → memByte (t.coreAt core).scratch a = value)
    ∧ (¬ writes ∨ Outrun s i core unit a → memByte (t.coreAt core).scratch a = memByte (s.coreAt core).scratch a)

/-- The context in issue has no store that waits to be performed, and no queue fence. -/
def Quiet (s : State) : Prop := s.ctx.stores = [] ∧ s.ctx.joins = []

/-- No store of the context in issue to a line waits. -/
def NoStoreTo (s : State) (l : Nat) : Prop := ∀ t ∈ s.ctx.stores, ∀ b, t.kind ≠ .line l b

/-- A value of `n` bytes as a load extends it. -/
def extend (n : Nat) (signed : Bool) (x : Nat) : Word :=
  if signed && decide (2 ^ (8 * n - 1) ≤ x) then BitVec.ofInt 64 (x - 2 ^ (8 * n)) else BitVec.ofNat 64 x

/-- Only S[d] among the registers of the context in issue has changed. -/
def OnlyS (s t : State) (d : SReg) (x : Word) : Prop :=
  (∀ r, regS t r = if r = d ∧ d ≠ 0 then x else regS s r) ∧ t.ctx.regs.p = s.ctx.regs.p ∧ t.ctx.regs.v = s.ctx.regs.v
    ∧ t.ctx.regs.q = s.ctx.regs.q

/-- Only V[d] among the registers of the context in issue has changed. -/
def OnlyV (s t : State) (d : VReg) (x : VWord) : Prop :=
  (∀ r, regV t r = if r = d then x else regV s r) ∧ t.ctx.regs.s = s.ctx.regs.s ∧ t.ctx.regs.p = s.ctx.regs.p
    ∧ t.ctx.regs.q = s.ctx.regs.q

/-- The control and system registers and the loop stack of the context in issue are as before; so are
the other contexts, the partitions, the package and the time. -/
def SameControl (s t : State) : Prop :=
  t.ctx.loops = s.ctx.loops ∧ t.ctx.delay = s.ctx.delay ∧ t.ctx.pc = s.ctx.pc ∧ t.ctx.priv = s.ctx.priv
    ∧ t.ctx.te = s.ctx.te ∧ t.ctx.tcause = s.ctx.tcause ∧ t.ctx.tvec = s.ctx.tvec ∧ t.ctx.fflags = s.ctx.fflags
    ∧ (∀ j, j ≠ s.cur → t.ctxAt j = s.ctxAt j) ∧ t.parts = s.parts ∧ t.pkg = s.pkg ∧ t.ptime = s.ptime

/-- A read of a line of memory by the context in issue goes out at once: no slot holds it, and its port has room for it and
for the other lines of its access, 256 at most (21 R352, 02 R56). -/
def Sent (s : State) (l : Nat) (so : Bool) : Prop := s.readHeld s.cur l so = false ∧ s.portFull l 255 = false

/-- `x` is the line that a 64-byte read at an address gives: of the bank in the window, of memory in the virtual space
where no cache of the die holds another copy, and ECC can correct it (10 R221, 02 R48, R55, 24 R381). `kept` for a kept page. -/
def LineAt (s : State) (kept : Bool) (ea : Word) (x : Line) : Prop :=
  (kept = false ∧ WindowFree s ea 64
    ∧ ∃ core off, InWindow s ea 64 core off ∧ (s.coreAt core).badLine (off / 64) (BitVec.allOnes 64) = false
        ∧ x = memLine (s.coreAt core).scratch (off / 64))
  ∨ ∃ e pa, Allowed s ea 64 .read kept e pa ∧ LoadFree s e.kind ea pa 64 ∧ NoStoreTo s (pa / 64)
      ∧ (pa / 64) ∉ s.pkg.poisoned ∧ Sent s (pa / 64) (e.kind == .so)
      ∧ (viaRdc (dieOf s.cur) pa = false ∨ e.kind = .so) ∧ x = memLine s.mem (pa / 64)

/-- The 64-byte lines that a mask leaves: those with an unmasked lane. -/
def Touched (q : QMask) (c : Nat) : Prop := ∃ j, j < 16 ∧ q.getLsbD (16 * c + j) = true

/-- Lane `j` of eight lines. -/
def laneOf (x : Nat → Line) (j : Nat) : Nat := (x (j / 16)).toNat / 2 ^ (32 * (j % 16)) % 2 ^ 32

/-- A load of lines into V[d] under a mask has its result, and nothing but caches and the stall changes. -/
def LinesLoaded (s t : State) (d : VReg) (q : QMask) (lines : Nat → Line) : Prop :=
  SameMemory s t ∧ SameControl s t ∧ (∀ k, (t.coreAt k).scratch = (s.coreAt k).scratch)
    ∧ t.ctx.stores = s.ctx.stores ∧ ∃ x, OnlyV s t d x
        ∧ ∀ j, j < 128 → elem x 32 j = if q.getLsbD j then laneOf lines j else elem (s.rV d) 32 j

/-- What the waiting stores of a vector store are: for each line with an unmasked lane, in order, its line, its data,
its mask. -/
def LinesWait (s t : State) (x : VWord) (q : QMask) (pa : Nat → Nat) : Prop :=
  SameMemory s t ∧ t.ctx.regs = s.ctx.regs ∧ SameControl s t ∧ ∃ ks, t.ctx.stores = s.ctx.stores ++ ks
    ∧ ks.map (fun k => (k.kind, k.data, k.mask, k.gated))
        = ((List.range 8).filter (fun c => lineMask q c != 0)).map
            (fun c => (StoreKind.line (pa c / 64) false, vline x c, lineMask q c, true))

/-- What a vector store of consecutive lines does in the window: the unmasked lanes stand in the bank from an offset
on, and no other byte of the device changes. -/
def LinesStored (s t : State) (x : VWord) (q : QMask) (core off : Nat) : Prop :=
  SameMemory s t ∧ t.ctx.regs = s.ctx.regs ∧ SameControl s t ∧ (∀ k, k ≠ core → t.coreAt k = s.coreAt k)
    ∧ ∀ a, BankByte s t s.cur core 2 a (off ≤ a ∧ a < off + 512 ∧ q.getLsbD ((a - off) / 4) = true)
        (x.extractLsb' (8 * (a - off)) 8)

/-- Pieces of `n` bytes of `x` that the L slot stores stand in a core's bank, piece `c` from `at_ c` on, but for the bytes
that `on` leaves out; no other byte of the bank has changed. -/
def LanesStand (s t : State) (core : Nat) (x : VWord) (n : Nat) (on : Nat → Bool) (at_ : Nat → Nat) : Prop :=
  (∀ i, i < 512 → on i = true → BankByte s t s.cur core 2 (at_ (i / n) + i % n) True (x.extractLsb' (8 * i) 8))
    ∧ ∀ a, (∀ i, i < 512 → on i = true → a ≠ at_ (i / n) + i % n) →
        memByte (t.coreAt core).scratch a = memByte (s.coreAt core).scratch a

/-- The address of the write-time entry of a physical address over a memory, if its frame has one (16 R285). -/
def timeEntry (s : State) (m : List Host.Cell) (pa : Nat) : Option Nat :=
  let root := (vget 0 s.pkg.wtroot (if isHbm pa then homeDie pa else 4)).toNat / 4096 * 4096
  let leaf := memNat m (root + 8 * (pa / 2 ^ 20)) 8
  if root = 0 ∨ leaf = 0 then none else some (leaf + 16 * (pa / 4096 % 256))

/-- An address that is not in the write-time entry of a physical address over a memory. -/
def Untimed (s : State) (m : List Host.Cell) (pa a : Nat) : Prop :=
  ∀ e, timeEntry s m pa = some e → a < e ∨ e + 16 ≤ a

/-- Memory `m'` is `m` but for the write-time entry of a physical address (16 R286). -/
def Timed (s : State) (m : List Host.Cell) (pa : Nat) (m' : List Host.Cell) : Prop :=
  ∀ b, Untimed s m pa b → memByte m' b = memByte m b

/-- The plain loads: bytes, and whether the value is sign-extended (10 R231). -/
def plainLoads (d a : SReg) (imm : BitVec 16) : List (Instr × Nat × Bool) :=
  [(.ldB d a imm, 1, true), (.ldH d a imm, 2, true), (.ldW d a imm, 4, true), (.ldD d a imm, 8, false),
   (.ldBu d a imm, 1, false), (.ldHu d a imm, 2, false), (.ldWu d a imm, 4, false)]

/-- The plain stores and their bytes. -/
def plainStores (d a : SReg) (imm : BitVec 16) : List (Instr × Nat) :=
  [(.stB d a imm, 1), (.stH d a imm, 2), (.stW d a imm, 4), (.stD d a imm, 8)]

/-- A store of the context in issue waits at its tail: what it writes of line `l`, byte by byte; memory is as before
until the store is performed (02 R42, 04 R83, 10 R241). -/
def StoreWaits (s t : State) (l lo n : Nat) (gated : Bool) (byte : Nat → Byte) : Prop :=
  SameMemory s t ∧ t.ctx.regs = s.ctx.regs ∧ SameControl s t
    ∧ ∃ k, t.ctx.stores = s.ctx.stores ++ [k] ∧ k.kind = .line l false ∧ k.gated = gated
        ∧ (∀ j, j < 64 → k.mask.getLsbD j = (decide (lo ≤ j) && decide (j < lo + n)))
        ∧ ∀ j, j < n → k.data.extractLsb' (8 * (lo + j)) 8 = byte j

/-! ### Parts of the device -/

/-- Only registers of the package change. -/
def OnlyPkg (s t : State) : Prop := { t with pkg := s.pkg } = s

/-- Only registers of partition `p` change. -/
def OnlyPart (s t : State) (p : Nat) : Prop := { t with parts := s.parts } = s ∧ ∀ q, q ≠ p → t.partAt q = s.partAt q

/-- Only core `k` changes. -/
def OnlyCore (s t : State) (k : Nat) : Prop := { t with cores := s.cores } = s ∧ ∀ j, j ≠ k → t.coreAt j = s.coreAt j

/-- Only die `d` changes. -/
def OnlyDie (s t : State) (d : Nat) : Prop := { t with dies := s.dies } = s ∧ ∀ j, j ≠ d → t.dieAt j = s.dieAt j

/-- The registers, the pc and the loop stack of a context are as before. -/
def SameProgram (s t : State) (i : Nat) : Prop :=
  (t.ctxAt i).regs = (s.ctxAt i).regs ∧ (t.ctxAt i).pc = (s.ctxAt i).pc ∧ (t.ctxAt i).loops = (s.ctxAt i).loops

/-- The other contexts are as before. -/
def OtherCtxs (s t : State) (i : Nat) : Prop := ∀ j, j ≠ i → t.ctxAt j = s.ctxAt j

/-- The masked bytes of line `l` hold those of `d`, and no other byte of memory has changed, but for the frame's
write-time entry. -/
def LineWritten (s t : State) (l : Nat) (d : Line) (k : BitVec 64) : Prop :=
  ∀ a, Untimed s (memWriteLine s.mem l d k) (64 * l) a → memByte t.mem a =
    if a / 64 = l ∧ k.getLsbD (a % 64) = true then d.extractLsb' (8 * (a % 64)) 8 else memByte s.mem a

/-- `n` bytes from `a` on hold the value `x`, lowest byte first. -/
def Holds (m : List Host.Cell) (a n x : Nat) : Prop := ∀ k, k < n → memByte m (a + k) = BitVec.ofNat 8 (x / 2 ^ (8 * k))

/-- A record stands at the tail of partition `p`'s fault queue, which has moved past it with its vector raised: cause,
class, source, flags, TVAL and AUX; no other byte of memory has changed but the frame's write-time entry (18 R308,
19 R334, 16 R286). -/
structure Posted (s t : State) (p code cls src : Nat) (flags : BitVec 16) (tval aux : Word) : Prop where
  tail : (t.partAt p).fqTail = ((s.partAt p).fqTail + 1) % 4096
  vector : 0 ∈ (t.partAt p).vectors
  fields : let a := (s.partAt p).fqBase.toNat / 64 * 64 + 64 * (s.partAt p).fqTail
    ∃ m, Holds m (a + 8) 1 code ∧ Holds m (a + 9) 1 cls ∧ Holds m (a + 10) 1 src ∧ Holds m (a + 22) 2 flags.toNat
      ∧ Holds m (a + 24) 8 tval.toNat ∧ Holds m (a + 48) 8 aux.toNat
      ∧ (∀ b, (b < a ∨ a + 64 ≤ b) → memByte m b = memByte s.mem b) ∧ Timed s m a t.mem

/-- The completion entry of a launch stands at the tail of its queue's completion ring, which has moved past it; no
other byte of memory has changed but the frame's write-time entry (18 R302, 16 R286). -/
structure Completed (s t : State) (p q : Nat) (lid status reason : Nat) : Prop where
  tail : ((t.partAt p).queueAt q).ctail = (((s.partAt p).queueAt q).ctail + 1) % 2 ^ ((s.partAt p).queueAt q).log2n
  vector : 1 + q ∈ (t.partAt p).vectors
  fields : let a := ((s.partAt p).queueAt q).cbase.toNat / 16 * 16 + 16 * ((s.partAt p).queueAt q).ctail
    ∃ m, Holds m a 4 lid ∧ Holds m (a + 4) 2 status ∧ Holds m (a + 6) 2 reason ∧ Holds m (a + 8) 8 s.ptime
      ∧ (∀ b, (b < a ∨ a + 16 ≤ b) → memByte m b = memByte s.mem b) ∧ Timed s m a t.mem

/-! ### Copies -/

/-- One extent of the context serves a page for each key. -/
def OneExtent (s : State) (i va : Nat) : Prop :=
  ∀ g key, ∀ x ∈ (s.ctxAt i).extents, ∀ y ∈ (s.ctxAt i).extents,
    x.serves g key (va / 4096) = true → y.serves g key (va / 4096) = true → x = y

/-- An access of `n` bytes by an engine of context `i` of its virtual space that is allowed without a walk: its
extent and physical address. `raw` copies may touch kept pages. -/
structure EngineAllowed (s : State) (i : Nat) (user raw : Bool) (ea : Word) (n : Nat) (k : AccKind) (e : Extent) (pa : Nat) : Prop where
  region : regionOf ea = .virt ea.toNat
  one : OneExtent s i ea.toNat
  translated : s.translate i ea.toNat n k user = .ok e pa
  page : e.k = false ∨ raw = true

/-- An engine of context `i` reaches `n` bytes of the window: core and offset. -/
def EngineWindow (s : State) (i : Nat) (ea : Word) (n core off : Nat) : Prop :=
  ∃ m byte, regionOf ea = .window m byte ∧ s.windowAt i m byte n = some (core, off)

/-- `x` is the source element of a copy at an address: in the window, or in memory where the die's RDC holds no copy
(10 R245). -/
def CopySource (s : State) (i : Nat) (o : Copy) (ea : Word) (x : Nat) : Prop :=
  (∃ core off, EngineWindow s i ea (tSsz o.tmpl) core off ∧ x = memNat (s.coreAt core).scratch off (tSsz o.tmpl))
  ∨ ∃ e pa, EngineAllowed s i o.user (tRaw o.tmpl) ea (tSsz o.tmpl) .read e pa
      ∧ s.rdcServes i (pa / 64) (e.kind == .so) = none ∧ x = memNat s.mem pa (tSsz o.tmpl)

/-- `xs` are the source elements of destination line `l` of a copy, in order. -/
def CopySources (s : State) (i : Nat) (o : Copy) (src dst l : Word) (xs : List Nat) : Prop :=
  xs.length = (lineElems o.tmpl dst l).length ∧ ∀ (k e x : Nat), (lineElems o.tmpl dst l)[k]? = some e → xs[k]? = some x →
    CopySource s i o (elemAddr src (tSC o.tmpl) (tSS o.tmpl) (tSsz o.tmpl) e) x

/-! ### Operands of the matrix unit -/

/-- `l` is what an M operation of context `i`, no store of which waits, reads of `n` bytes at a 64-byte boundary: the bank's
line in the window, or that of memory where no cache of the die holds another copy and no earlier request of the unit has read
it; `kept` for a kept page (09 R203, R210). -/
def MatrixLine (s : State) (i : Nat) (o : MOp) (kept : Bool) (ea : Word) (n : Nat) (l : Line) : Prop :=
  (kept = false ∧ ∃ core off, EngineWindow s i ea n core off ∧ l = s.snapLine o core off (core == coreOf i))
  ∨ ∃ e pa, EngineAllowed s i o.user true ea n .read e pa ∧ e.k = kept ∧ viaRdc (dieOf i) pa = false
      ∧ (∀ x ∈ (s.ctxAt i).asks 1, x.line ≠ pa / 64) ∧ l = memLine s.mem (pa / 64)

/-- `x` is the number that `n` bytes from a 64-byte boundary on make, lowest byte first. -/
def MatrixBytes (s : State) (i : Nat) (o : MOp) (kept : Bool) (ea : Word) (n x : Nat) : Prop :=
  x < 2 ^ (8 * n) ∧ ∀ c, 64 * c < n → ∃ l, MatrixLine s i o kept (ea + BitVec.ofNat 64 (64 * c)) (Nat.min 64 (n - 64 * c)) l
    ∧ ∀ b, b < Nat.min 64 (n - 64 * c) → x / 2 ^ (8 * (64 * c + b)) % 256 = (l.extractLsb' (8 * b) 8).toNat

/-- The values of row `j` of an operand of an `mma` at a base, with the flags of each: rows in memory `ld` bytes apart, scaled
by a buffer's bytes and bands when the format is E2M1, or the codes and scales of a kept tile (09 R203, R205, R206). -/
def OperandRow (s : State) (i : Nat) (o : MOp) (f : MFmt) (base : Word) (ld : Nat) (buf : KBuf) (j : Nat) (v : MRow) : Prop :=
  let k := gK o.gset
  (((∃ m byte, regionOf base = .window m byte) ∨ ∃ e pa, EngineAllowed s i o.user false base 1 .read e pa)
    ∧ ∃ x, MatrixBytes s i o false (base + BitVec.ofNat 64 (j * ld)) ((k * mfmtBits f + 7) / 8) x
        ∧ v = if f = .e2m1 then scaledRow k x (fun e => buf.bytes.toNat / 2 ^ (8 * (j * (k / 8) + e / 8)) % 256)
                (if j < 64 then buf.bnd0.toNat else buf.bnd1.toNat)
              else plainRow f k x)
  ∨ ∃ h p, MatrixLine s i o true base 64 h
      ∧ MatrixBytes s i o true (base + 64) (64 * payloadLines h base.toNat) p
      ∧ v = scaledRow k (p / 2 ^ (4 * (j * kCols h))) (fun e => p / 2 ^ (4 * kNelem h + 8 * ((j * kCols h + e) / 8)) % 256)
          (p / 2 ^ (5 * kNelem h) % 2 ^ 16)

/-- The reads of destination line `j` of a copy on channel `n` have all arrived in state `u`, without an error, a wait or
an overrun slot. -/
def CopyArrived (s : State) (i n : Nat) (o : Copy) (j : Nat) (src dst l : Word) (u : State) : Prop :=
  let r := ((MRun.start s 0).copyLine i n (o.asking j) src dst l).2
  r.ok = true ∧ r.last ≤ s.ptime ∧ r.over_ = [] ∧ r.s = u ∧ (s.ctxAt i).asks (16 + n) = []

/-- The new line of a copy: its elements, converted and reduced, at their offsets of the old one. -/
def copyLineOf (o : Copy) (dst l : Word) (old : Line) (xs : List Nat) : Line :=
  applyElems o.tmpl old ((lineElems o.tmpl dst l).map (fun e =>
    (elemAddr dst (tDC o.tmpl) (tDS o.tmpl) (tDsz o.tmpl) e).toNat % 64)) (xs.map (copyConv o.tmpl))

/-- A copy of context `i` makes line `off / 64` of a core's scratchpad `x`, and every other byte of every scratchpad is as
before. -/
def BankLine (s t : State) (i core off : Nat) (x : Line) : Prop :=
  (∀ a, BankByte s t i core 4 a (a / 64 = off / 64) (x.extractLsb' (8 * (a % 64)) 8))
    ∧ ∀ k, k ≠ core → (t.coreAt k).scratch = (s.coreAt k).scratch

/-! ### Bundles -/

/-- The state in which the checks of bundle `b` at the pc are made. -/
def bundleState (s : State) (b : Bundle) (after : Nat) (transfer : Bool) : State :=
  { s with issue := { pc := s.ctx.pc, next := BitVec.ofNat 64 (s.ctx.pc.toNat + b.len), hdr := b.hdr, db := b.db,
                      entry := BitVec.ofNat 10 b.entry, slot := 0, word := 0, stop := .go, transfer := transfer,
                      after2 := BitVec.ofNat 64 after, rett := false, user := true, te := true } }

/-- Whether slots hold a transfer. -/
def transfers (ops : List SlotOp) : Bool := ops.any (fun o => isJump o.op || isProbe o.op)

/-- The state in which its conditions are tested: a restart mark has closed the region before it (14 R266). -/
def markedState (s : State) (b : Bundle) (ops : List SlotOp) (after : Nat) : State :=
  let u := bundleState s b after (transfers ops)
  if hRm b.hdr then u.restart u.cur u.issue.pc 0 .none else u

/-- The state in which it issues: a yield bundle has stated its run, and the arbiter has made its choice (01 R24, R27). -/
def issuedState (s : State) (b : Bundle) (ops : List SlotOp) (after : Nat) : State :=
  let u := ((markedState s b ops after).modCtx (·.goesOn s.ptime)).modIssue (fun k => { k with user := s.ctx.user, te := s.ctx.te })
  if hY b.hdr then (u.modCtx (·.stateRun s.ptime (hRun b.hdr))).yieldPoint u.cur else u

/-- The state that its slots `ops` find: the bundle has its number, and keeps its slots. -/
def startState (s : State) (b : Bundle) (ops : List SlotOp) (after : Nat) : State :=
  let u := issuedState s b ops after
  u.modCtx (fun c => { c.number with inIssue := some { issue := u.issue, ops := ops } })

/-- What issuing bundle `b` records in a state `t` that its slots have led to. -/
def notedState (s : State) (b : Bundle) (ops : List SlotOp) (after : Nat) (t : State) : State :=
  t.noteIssue b.len (markedState s b ops after).ctx.dictPend.length true

/-- A state in which slot `o` is in issue. -/
def inSlot (s : State) (o : SlotOp) : State := s.modIssue (fun k => { k with slot := o.slot, word := o.word })

/-- Slots run from one state to another, left to right, each to its end. -/
def SlotsRun : List SlotOp → State → State → Prop
  | [], s, t => t = s
  | o :: os, s, t => ∃ u, exec o.op (inSlot s o) = .next u ∧ u.issue.stop = .go ∧ SlotsRun os u t

/-- What follows the last slot of a bundle that has run from `s` to `t`. -/
def ended (s : State) (b : Bundle) (ops : List SlotOp) (after : Nat) (t : State) : State :=
  ((notedState s b ops after t).finishBundle s.ctx.te).stepDone true

/-- The words at the pc of the context in issue are bundle `b`, which the checks at decode pass with slots `ops`, and nothing
keeps it from issuing: no breakpoint, no wait, room for its stores, no rule of delay bundles, no held operation, and of a yield
bundle the arbiter's choice leaves the block (06 R120, 07 R150, 01 R20, R27). -/
structure Attempts (s : State) (b : Bundle) (ops : List SlotOp) (after : Nat) : Prop where
  may : s.mayAttempt s.cur = true
  whole : s.ctx.slot = 0 ∧ s.ctx.posted = false ∧ s.ctx.inIssue = none
  noBreak : ∀ n, n < 8 → getB (vget 0 s.ctx.bps n) 63 = false
  fetched : s.fetchBundle s.cur s.ctx.pc.toNat = .ok b
  decoded : (bundleState s b 0 false).decodeBundle b = .ok ops
  stays : (issuedState s b ops after).ctx.block.isSome = true
  second : if transfers ops = true then s.afterTwo s.cur (s.ctx.pc.toNat + b.len) = .ok after else after = 0
  delay : s.ctx.delay = none ∨ ((∀ o ∈ ops, noDelay o.op = false) ∧ s.ctx.endsLevel s.ctx.pc = false)
  ends : transfers ops = true → s.ctx.endsLevel s.ctx.pc = false
  held : (markedState s b ops after).ctx.heldOp = none ∨ ∀ o ∈ ops, isM o.op = false ∧ isExit o.op = false
  waits : (markedState s b ops after).bundleWait ops = .none
  room : let u := markedState s b ops after
    u.needs ops = 0 ∨ (u.ctx.entries true + u.needs ops ≤ 64 ∧ u.ctx.entries false + u.needs ops ≤ 64)

/-- A bundle with the one slot `k` whose word decodes to `i`. -/
structure Issues (s : State) (b : Bundle) (k : Nat) (w : SlotWord) (i : Instr) (after : Nat) : Prop where
  word : b.words = [(k, w)] ∧ decodeSlot (Slot.ofIndex k) w = .ok i
  attempts : Attempts s b [{ slot := k, word := w, op := i }] after

/-- The state in which that slot is executed. -/
def slotState (s : State) (b : Bundle) (after k : Nat) (w : SlotWord) (i : Instr) : State :=
  let o : SlotOp := { slot := k, word := w, op := i }
  inSlot (startState s b [o] after) o

/-- Instructions that complete in every state: scalar and vector arithmetic but for division by a divisor of 0
(07 R143 to R149; 08 R176 to R195). -/
def steady (i : Instr) : Bool :=
  match i with
  | .add .. | .sub .. | .and .. | .or .. | .xor .. | .andn .. | .orn .. | .shl .. | .shr .. | .sar .. | .rotl .. | .min .. | .max ..
  | .minu .. | .maxu .. | .mul .. | .mulh .. | .mulhu .. | .clz .. | .ctz .. | .popc .. | .sel .. => true
  | .addi .. | .andi .. | .ori .. | .xori .. | .shli .. | .shri .. | .sari .. | .rotli .. | .li .. | .lsh .. | .ext .. | .extS ..
  | .ins .. => true
  | .cmp .. | .cmpi .. | .pand .. | .por .. | .pxor .. | .pandn .. | .pnot .. | .rdp .. | .wrp .. => true
  | .vadd .. | .vsub .. | .vmul .. | .vfma .. | .vfms .. | .vfnma .. | .vmax .. | .vmin .. | .vabs .. | .vneg .. | .vexp2 ..
  | .vlog2 .. | .vrcp .. | .vrsqrt .. | .vsqrt .. | .vdiv .. => true
  | .vand .. | .vor .. | .vxor .. | .vnot .. | .vshl .. | .vshli .. | .vshr .. | .vshri .. | .vsar .. | .vsari .. | .vrelu ..
  | .vreluBwd .. | .vcmp .. | .vsel .. | .vcvt .. | .vround .. | .vbcast .. | .vmovs .. | .viota .. | .vmovv .. | .vperm ..
  | .vslide .. | .vred .. | .vclass .. | .vqnt .. | .vdeq .. => true
  | .qand .. | .qor .. | .qxor .. | .qandn .. | .qnot .. | .qmov .. => true
  | _ => false

end Sys2Proof.Safety
end

