-- ==== Sys2Proof/Certificates/Slice0/Obligations.lean ====
section
/-! DEFINITION. The statements for the provers, by family of the opcode table. A statement of several parts is the
conjunction of the parts that stand before it. -/

open Sys2Proof Sys2Proof.Machine Sys2Proof.Safety

/-! ### The scalar slots (07) -/

/-- 07 R143, R141: functions 0 to 14 of the ALU on 64 bits, or on the low 32 bits with the result sign-extended;
readable after one cycle, nothing else changed, s0 discarding its result. -/
def Sys2Proof.Parts.ScalarOneCycle : Prop :=
  ∀ (s : State) (d a b : SReg) (w : Bool),
    let x := s.rS a; let y := s.rS b
    let u : BitVec 32 := x.setWidth 32; let v : BitVec 32 := y.setWidth 32
    let is (i : Instr) (wide : BitVec 64) (narrow : BitVec 32) : Prop :=
      ScalarResult s (exec i s) 1 d (if w then narrow.signExtend 64 else wide)
    is (.add d a b w) (x + y) (u + v) ∧ is (.sub d a b w) (x - y) (u - v)
      ∧ is (.and d a b w) (x &&& y) (u &&& v) ∧ is (.or d a b w) (x ||| y) (u ||| v)
      ∧ is (.xor d a b w) (x ^^^ y) (u ^^^ v) ∧ is (.andn d a b w) (x &&& ~~~y) (u &&& ~~~v)
      ∧ is (.orn d a b w) (x ||| ~~~y) (u ||| ~~~v)
      ∧ is (.shl d a b w) (x <<< (y.toNat % 64)) (u <<< (y.toNat % 32))
      ∧ is (.shr d a b w) (x >>> (y.toNat % 64)) (u >>> (y.toNat % 32))
      ∧ is (.sar d a b w) (x.sshiftRight (y.toNat % 64)) (u.sshiftRight (y.toNat % 32))
      ∧ is (.rotl d a b w) (x.rotateLeft (y.toNat % 64)) (u.rotateLeft (y.toNat % 32))
      ∧ is (.min d a b w) (if x.toInt ≤ y.toInt then x else y) (if u.toInt ≤ v.toInt then u else v)
      ∧ is (.max d a b w) (if x.toInt ≤ y.toInt then y else x) (if u.toInt ≤ v.toInt then v else u)
      ∧ is (.minu d a b w) (if x.toNat ≤ y.toNat then x else y) (if u.toNat ≤ v.toNat then u else v)
      ∧ is (.maxu d a b w) (if x.toNat ≤ y.toNat then y else x) (if u.toNat ≤ v.toNat then v else u)

/-- 07 R143, R141: `mul` is the low half of the product, `mulh` and `mulhu` the high halves of the signed and the
unsigned product, readable after three cycles. -/
def Sys2Proof.Parts.ScalarMultiply : Prop :=
  ∀ (s : State) (d a b : SReg) (w : Bool),
    let x := s.rS a; let y := s.rS b
    let u : BitVec 32 := x.setWidth 32; let v : BitVec 32 := y.setWidth 32
    let is (i : Instr) (wide : BitVec 64) (narrow : BitVec 32) : Prop :=
      ScalarResult s (exec i s) 3 d (if w then narrow.signExtend 64 else wide)
    is (.mul d a b w) (BitVec.ofNat 64 (x.toNat * y.toNat)) (BitVec.ofNat 32 (u.toNat * v.toNat))
      ∧ is (.mulh d a b w) (BitVec.ofInt 64 (x.toInt * y.toInt / 2 ^ 64)) (BitVec.ofInt 32 (u.toInt * v.toInt / 2 ^ 32))
      ∧ is (.mulhu d a b w) (BitVec.ofNat 64 (x.toNat * y.toNat / 2 ^ 64)) (BitVec.ofNat 32 (u.toNat * v.toNat / 2 ^ 32))

/-- 07 R143, R144, R141: with a divisor that is not 0 in the operation's width, division truncates toward zero, the
most negative number by −1 gives itself with remainder 0, and the result is readable after twenty cycles; with a
divisor of 0 the four instructions take integer divide by zero (0x1F) at the slot, and registers stay. -/
def Sys2Proof.Parts.ScalarDivide : Prop :=
  ∀ (s : State) (d a b : SReg) (w : Bool),
    let x := s.rS a; let y := s.rS b
    let u : BitVec 32 := x.setWidth 32; let v : BitVec 32 := y.setWidth 32
    let zero : Prop := if w then v = 0 else y = 0
    let is (i : Instr) (wide : BitVec 64) (narrow : BitVec 32) : Prop :=
      (¬ zero → ScalarResult s (exec i s) 20 d (if w then narrow.signExtend 64 else wide))
        ∧ (zero → OwnHandler s →
            Next (exec i s) (fun t => Entered s t 0x1F 0 0 s.issue.pc s.issue.slot))
    is (.div d a b w) (BitVec.ofInt 64 (x.toInt.tdiv y.toInt)) (BitVec.ofInt 32 (u.toInt.tdiv v.toInt))
      ∧ is (.divu d a b w) (BitVec.ofNat 64 (x.toNat / y.toNat)) (BitVec.ofNat 32 (u.toNat / v.toNat))
      ∧ is (.rem d a b w) (BitVec.ofInt 64 (x.toInt.tmod y.toInt)) (BitVec.ofInt 32 (u.toInt.tmod v.toInt))
      ∧ is (.remu d a b w) (BitVec.ofNat 64 (x.toNat % y.toNat)) (BitVec.ofNat 32 (u.toNat % v.toNat))

/-- 07 R143: leading zeros, trailing zeros and ones of the operand in the operation's width, and selection by a
predicate. The counts are characterised by the bits that they stand for. -/
def Sys2Proof.Parts.ScalarCountAndSelect : Prop :=
  ∀ (s : State) (d a b : SReg) (p : PReg) (w : Bool),
    let n : Nat := if w then 32 else 64
    let x := (s.rS a).toNat % 2 ^ n
    (∃ k, k ≤ n ∧ ScalarResult s (exec (.clz d a w) s) 1 d (BitVec.ofNat 64 k)
        ∧ (∀ j, n - k ≤ j → j < n → x.testBit j = false) ∧ (k < n → x.testBit (n - 1 - k) = true))
      ∧ (∃ k, k ≤ n ∧ ScalarResult s (exec (.ctz d a w) s) 1 d (BitVec.ofNat 64 k)
        ∧ (∀ j, j < k → x.testBit j = false) ∧ (k < n → x.testBit k = true))
      ∧ ScalarResult s (exec (.popc d a w) s) 1 d (BitVec.ofNat 64 ((List.range n).countP (fun j => x.testBit j)))
      ∧ ScalarResult s (exec (.sel d a b p w) s) 1 d
          (let y := if s.rP p then s.rS a else s.rS b; if w then (y.setWidth 32).signExtend 64 else y)

/-- 07 R143, R144: the scalar ALU, multiplication, division, counts and selection: each writes S[d] with its latency and nothing else. -/
def Obligations.ScalarArithmetic : Prop := Sys2Proof.Parts.ScalarOneCycle ∧ Sys2Proof.Parts.ScalarMultiply ∧ Sys2Proof.Parts.ScalarDivide ∧ Sys2Proof.Parts.ScalarCountAndSelect

/-- 07 R145: the immediate forms. -/
def Sys2Proof.Parts.ScalarImmediates : Prop :=
  ∀ (s : State) (d a : SReg) (imm : BitVec 16) (n : BitVec 6),
    let x := s.rS a
    let is (i : Instr) (y : Word) : Prop := ScalarResult s (exec i s) 1 d y
    is (.addi d a imm) (BitVec.ofInt 64 (x.toInt + imm.toInt))
      ∧ is (.andi d a imm) (BitVec.ofNat 64 (x.toNat &&& imm.toNat))
      ∧ is (.ori d a imm) (BitVec.ofNat 64 (x.toNat ||| imm.toNat))
      ∧ is (.xori d a imm) (BitVec.ofNat 64 (x.toNat ^^^ imm.toNat))
      ∧ is (.shli d a n) (BitVec.ofNat 64 (x.toNat * 2 ^ n.toNat))
      ∧ is (.shri d a n) (BitVec.ofNat 64 (x.toNat / 2 ^ n.toNat))
      ∧ is (.sari d a n) (BitVec.ofInt 64 (x.toInt / 2 ^ n.toNat))
      ∧ is (.rotli d a n) (BitVec.ofNat 64 (x.toNat * 2 ^ n.toNat + x.toNat / 2 ^ (64 - n.toNat)))
      ∧ is (.li d imm) (BitVec.ofInt 64 imm.toInt)
      ∧ is (.lsh d a imm) (BitVec.ofNat 64 (x.toNat * 2 ^ 16 + imm.toNat))

/-- 07 R146: `ext` takes the field of len bits at pos, zero- or sign-extended; `ins` replaces that field of S[d] by
the low bits of S[a]. The fields of the word hold len − 1 and pos, with pos + len at most 64. -/
def Sys2Proof.Parts.ScalarBitFields : Prop :=
  ∀ (s : State) (d a : SReg) (l p : BitVec 6),
    let len := l.toNat + 1; let pos := p.toNat
    let f := (s.rS a).toNat / 2 ^ pos % 2 ^ len
    pos + len ≤ 64 →
    ScalarResult s (exec (.ext d a l p) s) 1 d (BitVec.ofNat 64 f)
      ∧ ScalarResult s (exec (.extS d a l p) s) 1 d
          (BitVec.ofInt 64 (if 2 ^ (len - 1) ≤ f then (f : Int) - 2 ^ len else f))
      ∧ ∃ y : Word, ScalarResult s (exec (.ins d a l p) s) 1 d y
          ∧ ∀ j, j < 64 → y.getLsbD j = if pos ≤ j ∧ j < pos + len then (s.rS a).getLsbD (j - pos) else (s.rS d).getLsbD j

/-- 07 R145 to R149: reserved fields and values that the entries forbid, in both scalar slots: the word is refused by
the name that R120 step 4 gives it. -/
def Sys2Proof.Parts.ImmediateFieldsReserved : Prop :=
  ∀ (w : SlotWord) (sl : Slot), sl = .sa ∨ sl = .sb →
    let op := fldN w 26 6
    let refused : Prop := decodeSlot sl w = .error .reserved
    (op = 0x05 → fldN w 6 8 ≠ 0 → refused) ∧ (op = 0x06 → fldN w 16 5 ≠ 0 → refused)
      ∧ (op = 0x08 ∨ op = 0x09 → (64 < fldN w 0 6 + fldN w 6 6 + 1 ∨ fldN w 13 3 ≠ 0) → refused)
      ∧ (op = 0x09 → w.getLsbD 12 = true → refused)

/-- 07 R145, R146: immediates and bit fields. -/
def Obligations.ScalarImmediatesAndFields : Prop := Sys2Proof.Parts.ScalarImmediates ∧ Sys2Proof.Parts.ScalarBitFields ∧ Sys2Proof.Parts.ImmediateFieldsReserved

/-- 07 R147, R148: compares and predicate logic; p0 discards its result. -/
def Sys2Proof.Parts.ScalarPredicates : Prop :=
  ∀ (s : State) (d a b : PReg) (c : Cond) (m n : SReg) (imm : BitVec 15),
    let holds (x y : Word) : Prop := match c with
      | .eq => x = y
      | .ne => x ≠ y
      | .lt => x.toInt < y.toInt
      | .ltu => x.toNat < y.toNat
      | .le => x.toInt ≤ y.toInt
      | .leu => x.toNat ≤ y.toNat
      | .bs => x.toNat.testBit (y.toNat % 64) = true
      | .bc => x.toNat.testBit (y.toNat % 64) = false
    (∃ r, PredicateResult s (exec (.cmp d c m n) s) d r ∧ (r = true ↔ holds (s.rS m) (s.rS n)))
      ∧ (∃ r, PredicateResult s (exec (.cmpi d c m imm) s) d r ∧ (r = true ↔ holds (s.rS m) (BitVec.ofInt 64 imm.toInt)))
      ∧ PredicateResult s (exec (.pand d a b) s) d (s.rP a && s.rP b)
      ∧ PredicateResult s (exec (.por d a b) s) d (s.rP a || s.rP b)
      ∧ PredicateResult s (exec (.pxor d a b) s) d (xor (s.rP a) (s.rP b))
      ∧ PredicateResult s (exec (.pandn d a b) s) d (s.rP a && !s.rP b)
      ∧ PredicateResult s (exec (.pnot d a) s) d (!s.rP a)

/-- 07 R149: `rdp` reads the eight predicates as a byte, `wrp` writes p1 to p7 from bits 7:1 and nothing else. -/
def Sys2Proof.Parts.PredicatesAsByte : Prop :=
  ∀ (s : State) (d a : SReg),
    (∃ x : Word, ScalarResult s (exec (.rdp d) s) 1 d x
        ∧ ∀ j, x.getLsbD j = (decide (j < 8) && s.rP (BitVec.ofNat 3 j)))
      ∧ Next (exec (.wrp a) s) (fun t => OnlyCtx s t s.cur ∧ SameBesideRegs s.ctx t.ctx ∧ SameEnds s.ctx t.ctx
          ∧ SameReads s t ∧ t.ctx.regs.s = s.ctx.regs.s ∧ t.ctx.regs.v = s.ctx.regs.v ∧ t.ctx.regs.q = s.ctx.regs.q
          ∧ (∀ r : PReg, regP t r = if r = 0 then regP s 0 else (s.rS a).getLsbD r.toNat)
          ∧ (∀ r : PReg, r ≠ 0 → t.ctx.readyAt (.p r) = s.ptime + 1))

/-- 07 R147 to R149: the same of the predicate instructions; `wrp` names p1 to p7 as destinations for R120 step 5. -/
def Sys2Proof.Parts.PredicateFieldsReserved : Prop :=
  (∀ (w : SlotWord) (sl : Slot), sl = .sa ∨ sl = .sb →
    let op := fldN w 26 6
    let refused : Prop := decodeSlot sl w = .error .reserved
    (op = 0x0B → 6 ≤ fldN w 20 3 → fldN w 6 9 ≠ 0 → refused)
      ∧ (op = 0x0C → 5 ≤ fldN w 6 5 → decodeSlot sl w = .error .unassigned)
      ∧ (op = 0x0C → fldN w 6 5 < 5 → (8 ≤ fldN w 21 5 ∨ 8 ≤ fldN w 16 5 ∨ 8 ≤ fldN w 11 5 ∨ fldN w 0 6 ≠ 0) → refused)
      ∧ (op = 0x0C → fldN w 6 5 = 4 → fldN w 11 5 ≠ 0 → refused)
      ∧ (op = 0x0D → fldN w 0 21 ≠ 0 → refused)
      ∧ (op = 0x0E → (fldN w 21 5 ≠ 0 ∨ fldN w 0 16 ≠ 0) → refused))
    ∧ ∀ (a : SReg) (r : RegId), r ∈ (instrDests (.wrp a)).filter RegId.counts ↔ ∃ j : PReg, j ≠ 0 ∧ r = .p j

/-- 07 R147 to R149: comparisons, predicate logic, and the predicates as a byte. -/
def Obligations.PredicateInstructions : Prop := Sys2Proof.Parts.ScalarPredicates ∧ Sys2Proof.Parts.PredicatesAsByte ∧ Sys2Proof.Parts.PredicateFieldsReserved

/-! ### Control and system (07) -/

/-- 07 R151, R152: a transfer leaves two delay bundles pending with its outcome and its destination, taken or not; a taken
`call` and `callr` write the return address to s31; nothing else changes.
Where the spec leaves the point open this is the model's choice: log 53. -/
def Obligations.Transfers : Prop :=
  ∀ (s : State) (p : PReg) (n : Bool) (off : BitVec 22) (a : SReg),
    let after2 := s.issue.after2
    let taken := xor (s.rP p) n
    let target := BitVec.ofInt 64 (after2.toInt + off.toInt)
    let pending (taken : Bool) (target : Word) : Option Delay := some { left := 2, taken := taken, target := target }
    let is (i : Instr) (taken link : Bool) (target : Word) : Prop := Next (exec i s) (fun t =>
      OnlyCtx s t s.cur ∧ t.ctx.delay = pending taken target ∧ SameReads s t
        ∧ SameEnds s.ctx t.ctx ∧ SameBesideRegs { s.ctx with delay := t.ctx.delay } t.ctx
        ∧ (if link then ResultS s.ctx t.ctx (s.ptime + 1) 31 after2
           else t.ctx.regs = s.ctx.regs ∧ t.ctx.ready = s.ctx.ready ∧ t.ctx.resume = s.ctx.resume))
    is (.br p n off) taken false target ∧ is (.call p n off) taken taken target
      ∧ is (.jr a) true false (s.rS a) ∧ is (.callr a) true true (s.rS a)

/-- 07 R154: `lpush` pushes a level from the next bundle to its end with the count and index 0, or, with a count of
0, notes where the bundle's end goes on and pushes nothing; a full stack and a level that does not fit take 0x17 and
0x18. -/
def Sys2Proof.Parts.LoopPush : Prop :=
  ∀ (s : State) (l : BitVec 3) (a : SReg) (stop : BitVec 18),
    let last := s.issue.next + stop.setWidth 64
    let depth := s.ctx.loops.length
    let meets := s.ctx.loops.any (fun k => k.stop == last || k.stop == s.issue.pc)
    (depth ≠ 6 → l.toNat = depth → meets = false → s.rS a ≠ 0 →
      Next (exec (.lpush l a stop) s) (fun t => OnlyCtx s t s.cur ∧ ∃ k, t.ctx = { s.ctx with loops := k :: s.ctx.loops }
        ∧ k.start = s.issue.next ∧ k.stop = last ∧ k.count = s.rS a ∧ k.index = 0 ∧ k.brk = false))
    ∧ (∀ n, depth ≠ 6 → l.toNat = depth → meets = false → s.rS a = 0 → s.after s.cur last.toNat = .ok n →
      Next (exec (.lpush l a stop) s) (fun t => OnlyCtx s t s.cur
        ∧ t.ctx = { s.ctx with resume := { s.ctx.resume with skip := some (BitVec.ofNat 64 n) } }))
    ∧ (depth = 6 → OwnHandler s →
      Next (exec (.lpush l a stop) s) (fun t => Entered s t 0x17 0 0 s.issue.pc s.issue.slot))
    ∧ (depth ≠ 6 → (l.toNat ≠ depth ∨ meets = true) → OwnHandler s →
      Next (exec (.lpush l a stop) s) (fun t => Entered s t 0x18 0 (l.setWidth 64) s.issue.pc s.issue.slot))

/-- 07 R156, R157: `lbrk` sets the break flag of the innermost level, `lidx` reads the index of the level it names; a
level that is not there takes loop-stack-misuse (0x18). -/
def Sys2Proof.Parts.LoopBreakAndIndex : Prop :=
  ∀ (s : State) (l : BitVec 3) (d : SReg),
    (∀ k rest, s.ctx.loops = k :: rest → l.toNat = rest.length →
      Next (exec (.lbrk l) s) (fun t => OnlyCtx s t s.cur ∧ t.ctx = { s.ctx with loops := { k with brk := true } :: rest }))
    ∧ (l.toNat + 1 ≠ s.ctx.loops.length → OwnHandler s →
      Next (exec (.lbrk l) s) (fun t => Entered s t 0x18 0 (l.setWidth 64) s.issue.pc s.issue.slot))
    ∧ (∀ k, s.ctx.loops.reverse[l.toNat]? = some k → ScalarResult s (exec (.lidx l d) s) 1 d k.index)
    ∧ (s.ctx.loops.length ≤ l.toNat → OwnHandler s →
      Next (exec (.lidx l d) s) (fun t => Entered s t 0x18 0 (l.setWidth 64) s.issue.pc s.issue.slot))

/-- 07 R154 to R157: the loop instructions. -/
def Obligations.Loops : Prop := Sys2Proof.Parts.LoopPush ∧ Sys2Proof.Parts.LoopBreakAndIndex

/-- 07 R158, R159; 09 R212: `exit` ends the block with its bundle, or, in a bundle that has not issued, delivers a held matrix
fault in class C;
`pause n` pauses the context for the n cycles after its commit, and `pause 0` does nothing.
Where the spec leaves the point open this is the model's choice: log 38. -/
def Obligations.ExitAndPause : Prop :=
  ∀ (s : State) (n : BitVec 16),
    (s.ctx.heldOp = none ∨ s.ctx.inIssue ≠ none → Next (exec .exit s) (fun t => OnlyCtx s t s.cur
      ∧ t.ctx = { s.ctx with resume := { s.ctx.resume with exiting := true } }))
    ∧ (∀ o code tval rest, s.ctx.mq = o :: rest → o.held = some (code, tval) → s.ctx.inIssue = none → OwnHandler s →
      Next (exec .exit s) (fun t => Entered s t code 2 tval s.issue.pc 0))
    ∧ Next (exec (.pause n) s) (fun t => OnlyCtx s t s.cur
        ∧ t.ctx = { s.ctx with pauseEnd := if n = 0 then s.ctx.pauseEnd else s.ptime + n.toNat + 1 })

/-- 07 R160, R161: `trap` and `brk` enter the handler at TVEC with SLOTRES 1 and their number in TVAL: status,
privilege, delay state and pc as R161 has them, at either privilege. -/
def Sys2Proof.Parts.TrapAndBreak : Prop :=
  ∀ (s : State) (n : BitVec 16), OwnHandler s →
    Next (exec (.trap n) s) (fun t => Entered s t 0x1D 0 (n.setWidth 64) s.issue.pc 1)
      ∧ Next (exec (.brk n) s) (fun t => Entered s t 0x1E 0 (n.setWidth 64) s.issue.pc 1)

/-- 07 R160, R161, 19 R332, R334: with TE = 0 `trap` and `brk` suspend the block and post a record of class D with the cause,
SUSP and FATAL to the partition's fault queue; that its removal (R336) begins at once is the model's reading (log 39). -/
def Sys2Proof.Parts.TrapWithTrapsDisabled : Prop :=
  ∀ (s : State) (n : BitVec 16),
    let p := s.partAt s.ctx.part
    let at_ := p.fqBase.toNat / 64 * 64 + 64 * p.fqTail
    Canonical s → s.ctx.te = false → s.fqOpen s.ctx.part = true →
    ∀ (i : Instr) (code : Nat), (i, code) ∈ [(Instr.trap n, 0x1D), (Instr.brk n, 0x1E)] →
    Next (exec i s) (fun t => t.ctx.status = .removing 1 s.ptime ∧ t.ctx.regs = s.ctx.regs ∧ t.ctx.pc = s.ctx.pc
      ∧ (t.partAt s.ctx.part).fqTail = (p.fqTail + 1) % 4096
      ∧ ∃ m, Holds m (at_ + 8) 1 code ∧ Holds m (at_ + 9) 1 3 ∧ Holds m (at_ + 22) 1 3 ∧ Holds m (at_ + 24) 8 n.toNat
        ∧ Holds m (at_ + 32) 8 s.issue.pc.toNat
        ∧ (∀ a, (a < at_ ∨ at_ + 64 ≤ a) → memByte m a = memByte s.mem a) ∧ Timed s m at_ t.mem)

/-- 07 R159, R160: `pause`, `trap` and `brk` words with a nonzero d or a are refused as reserved; none of the three is
kept out of a delay bundle. -/
def Sys2Proof.Parts.TrapFieldsReserved : Prop :=
  (∀ w : SlotWord, fldN w 26 6 ∈ [0x18, 0x19, 0x1B] → fldN w 16 10 ≠ 0 → decodeSlot .sa w = .error .reserved)
    ∧ ∀ n : BitVec 16, noDelay (.pause n) = false ∧ noDelay (.trap n) = false ∧ noDelay (.brk n) = false

/-- 07 R160, R161: `trap` and `brk` with traps enabled and disabled.
Where the spec leaves the point open this is the model's choice: log 1 and 13. -/
def Obligations.TrapAndBreakpoint : Prop := Sys2Proof.Parts.TrapAndBreak ∧ Sys2Proof.Parts.TrapWithTrapsDisabled ∧ Sys2Proof.Parts.TrapFieldsReserved

/-- 19 R332, R333: at the core monitor's entry a trap of user privilege with a user handler named is delivered to it,
with the return state kept; without a handler the context is suspended with a record. -/
def Sys2Proof.Parts.MonitorDelivers : Prop :=
  ∀ (s : State) (n : BitVec 16),
    s.ctx.te = true → s.ctx.tvec = Config.monitorEntry → getB s.pkg.duty 1 = false → s.ctx.priv = false →
    s.ctx.delivery = none → s.ctx.stores = [] →
    (s.ctx.uhvec ≠ 0 → Next (exec (.trap n) s) (fun t =>
      t.ctx.pc = s.ctx.uhvec ∧ t.ctx.priv = false ∧ t.ctx.te = true ∧ t.ctx.delay = none
        ∧ t.ctx.ucause = BitVec.ofNat 13 (1 * 2 ^ 10 + 0x1D) ∧ t.ctx.uval = n.setWidth 64 ∧ t.ctx.upcw = s.issue.pc
        ∧ t.ctx.regs = s.ctx.regs ∧ t.ctx.shadow.pc = s.ctx.uhvec ∧ t.ctx.shadow.regs = s.ctx.regs
        ∧ (∃ k, t.ctx.delivery = some k ∧ k.tpcw = s.issue.pc ∧ k.slotres = 1 ∧ k.priv = false ∧ k.te = true
            ∧ k.tcause = 0x1D ∧ k.tval = n.setWidth 64)
        ∧ SameMemory s t))
    ∧ (s.ctx.uhvec = 0 → s.fqOpen s.ctx.part = true → Next (exec (.trap n) s) (fun t =>
      t.ctx.status = .suspended ∧ t.ctx.tcause = 0x1D ∧ t.ctx.tval = n.setWidth 64 ∧ t.ctx.tpcw = s.issue.pc
        ∧ t.ctx.slotres = 1 ∧ t.ctx.regs = s.ctx.regs
        ∧ (t.partAt s.ctx.part).fqTail = ((s.partAt s.ctx.part).fqTail + 1) % 4096))

/-- 07 R162, R163; 09 R212: `rett` at supervisor privilege restores the privilege, TE and the delay state and re-enters
bundle TPCW at slot SLOTRES, a held matrix operation going on when MROW.VAL is 1; registers stay. At user
privilege it takes the privilege trap (0x08). -/
def Sys2Proof.Parts.ReturnFromTrap : Prop :=
  ∀ (s : State),
    (s.issue.user = false → Next (exec .rett s) (fun t =>
      t.ctx.priv = s.ctx.ppriv ∧ t.ctx.te = s.ctx.pte ∧ t.ctx.pc = s.ctx.tpcw ∧ t.ctx.slot = s.ctx.slotres.toNat
        ∧ t.ctx.reentered = true ∧ t.ctx.resume = (if s.ctx.slotres = 0 then Saved.none else s.ctx.tresume)
        ∧ (s.ctx.dly = 0 → t.ctx.delay = none)
        ∧ (s.ctx.dly = 1 → t.ctx.delay = some { left := 1, taken := s.ctx.dtk, target := s.ctx.tdtgt })
        ∧ (s.ctx.dly = 2 → t.ctx.delay = some { left := 2, taken := s.ctx.dtk, target := s.ctx.tdtgt })
        ∧ (∀ o rest, s.ctx.mq = o :: rest → o.held.isSome = true → s.ctx.mval = true →
            t.ctx.mq = { o with held := none, row := s.ctx.mrow.toNat } :: rest ∧ t.ctx.mval = false)
        ∧ t.ctx.regs = s.ctx.regs ∧ t.ctx.loops = s.ctx.loops ∧ t.ctx.tcause = s.ctx.tcause ∧ t.ctx.tvec = s.ctx.tvec
        ∧ (∀ j, j ≠ s.cur → t.ctxAt j = s.ctxAt j) ∧ t.parts = s.parts ∧ t.pkg = s.pkg ∧ SameMemory s t))
    ∧ (s.issue.user = true → OwnHandler s →
      Next (exec .rett s) (fun t => Entered s t 0x08 0 0 s.issue.pc s.issue.slot))

/-- 07 R162, R163, 19 R332, R333: what the monitor delivers to a handler, and the return from one.
Where the spec leaves the point open this is the model's choice: log 3 and 54. -/
def Obligations.HandlersAndReturns : Prop := Sys2Proof.Parts.MonitorDelivers ∧ Sys2Proof.Parts.ReturnFromTrap

/-- 07 R164 to R167, R170, 00 R2, 01 R21: what `rdsr` reads at supervisor privilege, and `rdtime`. LATCNT reads as counted
up to now; MSDEFCNT names the pseudo-channel last named and its used counts. -/
def Sys2Proof.Parts.SystemRegisterReads : Prop :=
  ∀ (s : State) (d : SReg),
    let c := s.ctx
    let reads (r : BitVec 16) (x : Word) : Prop := ScalarResult s (exec (.rdsr d r) s) 1 d x
    (s.issue.user = false →
      (∃ x : Word, reads 0 x ∧ x.getLsbD 0 = c.priv ∧ x.getLsbD 1 = c.ppriv ∧ x.getLsbD 2 = c.te ∧ x.getLsbD 3 = c.pte
          ∧ x.getLsbD 4 = c.stores.any (fun t => t.gated) ∧ x.extractLsb' 5 2 = c.dly ∧ x.getLsbD 7 = c.dtk
          ∧ x.extractLsb' 8 3 = c.slotres ∧ x.extractLsb' 11 5 = 0 ∧ x.getLsbD 16 = decide (s.cur % 2 = 1)
          ∧ x.extractLsb' 17 47 = 0)
        ∧ reads 1 (c.tcause.setWidth 64) ∧ reads 2 c.tval ∧ reads 3 c.tpcw ∧ reads 4 c.tvec
        ∧ (∃ x : Word, reads 5 x ∧ x.getLsbD 11 = c.mval ∧ x.extractLsb' 8 3 = c.macc ∧ x.extractLsb' 0 7 = c.mrow
            ∧ x.getLsbD 7 = false ∧ x.extractLsb' 12 52 = 0)
        ∧ reads 6 c.tdtgt ∧ reads 7 c.upcw ∧ reads 9 (c.countLat s.ptime).latcnt
        ∧ (c.stall = none → c.walkReq = none → c.hold = none → reads 9 c.latcnt) ∧ (c.msdef = 0 → reads 0xC 0)
        ∧ (∀ p, p < 512 → c.msdef = BitVec.ofNat 64 (p + 1) → (∀ g, g < 8 → vget 0 (s.pchCal p).used g ≤ 8) →
            ∃ x : Word, reads 0xC x ∧ x.extractLsb' 32 9 = BitVec.ofNat 9 p ∧ x.extractLsb' 41 23 = 0
              ∧ ∀ g, g < 8 → (x.extractLsb' (4 * g) 4).toNat = vget 0 (s.pchCal p).used g)
        ∧ reads 0xA c.pausecnt ∧ reads 0xB c.specdrop
        ∧ reads 0xD c.uhvec ∧ reads 0xE (c.ucause.setWidth 64) ∧ reads 0xF c.uval
        ∧ (∀ b, c.block = some b → reads 0x10 (BitVec.ofNat 64 (b.lrec.asid * 2 ^ 32 + b.wid.toNat))
            ∧ reads 0x11 (BitVec.ofNat 64 b.part))
        ∧ reads 0x12 0x00000110000000FF)
      ∧ ((∀ e ∈ c.fpend, e.1 ≤ s.ptime) → reads 8 ((c.fflagsAt s.ptime).setWidth 64))
      ∧ ScalarResult s (exec (.rdtime d) s) 1 d (BitVec.ofNat 64 s.ptime)

/-- 07 R164, 06 R120: a word with an unassigned register number is refused as reserved. -/
def Sys2Proof.Parts.SystemFieldsReserved : Prop :=
  ∀ w : SlotWord, fldN w 26 6 = 0x1C ∨ fldN w 26 6 = 0x1D → 0x12 < fldN w 0 16 → decodeSlot .sa w = .error .reserved

/-- 07 R164: at user privilege a privileged register takes the privilege trap (0x08), on reading and on writing;
UPCW, LATCNT, UCAUSE and UVAL read but do not write, UHVEC and FFLAGS write as at supervisor privilege. -/
def Sys2Proof.Parts.SystemRegisterPrivilege : Prop :=
  ∀ (s : State) (a d : SReg) (r : BitVec 16), s.issue.user = true →
    let open_ : List (BitVec 16) := [0x7, 0x8, 0x9, 0xD, 0xE, 0xF]
    (r.toNat ≤ 0x12 → r ∉ open_ → OwnHandler s →
      Next (exec (.rdsr d r) s) (fun t => Entered s t 0x08 0 0 s.issue.pc s.issue.slot)
        ∧ Next (exec (.wrsr a r) s) (fun t => Entered s t 0x08 0 0 s.issue.pc s.issue.slot))
    ∧ (∀ k x, (k, x) ∈ [((0x7 : BitVec 16), s.ctx.upcw), (0x9, (s.ctx.countLat s.ptime).latcnt), (0xD, s.ctx.uhvec),
          (0xE, s.ctx.ucause.setWidth 64), (0xF, s.ctx.uval)] → ScalarResult s (exec (.rdsr d k) s) 1 d x)
    ∧ (r ∈ [0x7, 0x9, 0xE, (0xF : BitVec 16)] → exec (.wrsr a r) s = .next s)
    ∧ Next (exec (.wrsr a 0xD) s) (fun t => OnlyCtx s t s.cur ∧ t.ctx = { s.ctx with uhvec := s.rS a })
    ∧ Next (exec (.wrsr a 0x8) s) (fun t => OnlyCtx s t s.cur
        ∧ { t.ctx with fpend := s.ctx.fpend } = { s.ctx with fflags := (s.rS a).setWidth 5 }
        ∧ ∀ u, s.ptime ≤ u → ∀ k, (t.ctx.fflagsAt u).getLsbD k = true ↔
            (s.rS a).getLsbD k = true ∧ k < 5 ∨ ∃ e ∈ s.ctx.fpend, s.ptime ≤ e.1 ∧ e.1 ≤ u ∧ e.2.getLsbD k = true)

/-- 07 R164 to R167: system registers read, and what privilege each asks for. -/
def Obligations.SystemRegisterReadsAndPrivilege : Prop := Sys2Proof.Parts.SystemRegisterReads ∧ Sys2Proof.Parts.SystemFieldsReserved ∧ Sys2Proof.Parts.SystemRegisterPrivilege

/-- 07 R164 to R166, 03 R80, 09 R213: what `wrsr` writes at supervisor privilege; CSTAT keeps its read-only bits, read-only
registers keep their values, nothing else changes. Flags of the cycle of the write and later ones are ORed into the new
FFLAGS; LATCNT's write leaves what the yield count leaves out as it was. A write of MROW that clears VAL discards a held M
operation, whose committed rows' flags stay, and the queue waits for the return. -/
def Obligations.SystemRegisterWrites : Prop :=
  ∀ (s : State) (a : SReg),
    let c := s.ctx; let v := s.rS a
    let writes (r : BitVec 16) (d : Ctx) : Prop :=
      Next (exec (.wrsr a r) s) (fun t => OnlyCtx s t s.cur ∧ t.ctx = d)
    s.issue.user = false →
    writes 0 { c with priv := v.getLsbD 0, ppriv := v.getLsbD 1, te := v.getLsbD 2, pte := v.getLsbD 3,
                      dly := v.extractLsb' 5 2, dtk := v.getLsbD 7, slotres := v.extractLsb' 8 3 }
      ∧ writes 1 { c with tcause := v.setWidth 10 } ∧ writes 2 { c with tval := v } ∧ writes 3 { c with tpcw := v }
      ∧ writes 4 { c with tvec := v }
      ∧ (c.heldOp = none ∨ v.getLsbD 11 = true → c.stores = [] →
          writes 5 { c with mval := v.getLsbD 11, macc := v.extractLsb' 8 3, mrow := v.extractLsb' 0 7 })
      ∧ (∀ o rest, c.mq = o :: rest → o.held.isSome = true → v.getLsbD 11 = false → c.stores = [] →
          Next (exec (.wrsr a 5) s) (fun t => OnlyCtx s t s.cur ∧ t.ctx.mq = rest ∧ t.ctx.mfreeze = true
            ∧ (∀ u, s.ptime ≤ u → t.ctx.fflagsAt u = c.fflagsAt u ||| o.flags)
            ∧ { t.ctx with mq := c.mq, mfreeze := c.mfreeze, tileT := c.tileT, fpend := c.fpend, shadow := c.shadow }
                = { c with mval := false, macc := v.extractLsb' 8 3, mrow := v.extractLsb' 0 7 }))
      ∧ writes 6 { c with tdtgt := v } ∧ writes 7 { c with upcw := v }
      ∧ Next (exec (.wrsr a 8) s) (fun t => OnlyCtx s t s.cur
          ∧ { t.ctx with fpend := c.fpend } = { c with fflags := v.setWidth 5 }
          ∧ ∀ u, s.ptime ≤ u → ∀ k, (t.ctx.fflagsAt u).getLsbD k = true ↔
              v.getLsbD k = true ∧ k < 5 ∨ ∃ e ∈ c.fpend, s.ptime ≤ e.1 ∧ e.1 ≤ u ∧ e.2.getLsbD k = true)
      ∧ Next (exec (.wrsr a 9) s) (fun t => OnlyCtx s t s.cur
          ∧ t.ctx = { c with latcnt := v, yieldLat := t.ctx.yieldLat } ∧ v - t.ctx.yieldLat = c.latcnt - c.yieldLat)
      ∧ writes 0xA { c with pausecnt := v } ∧ writes 0xB { c with specdrop := v } ∧ writes 0xC c
      ∧ writes 0xD { c with uhvec := v } ∧ writes 0xE { c with ucause := v.setWidth 13 } ∧ writes 0xF { c with uval := v }
      ∧ writes 0x10 c ∧ writes 0x11 c ∧ writes 0x12 c

/-- 07 R168, 21 R350, R351, R348, R354, R355: `mscal` answers the start of the first slot of its kind that affects the address
and has not ended; all ones for a slot that does not affect a CXL address. A bank-group slot that is deferred, or that a
forced refresh covers, does not open, and the forced refresh counts for every group. -/
def Sys2Proof.Parts.CalendarQuery : Prop :=
  ∀ (s : State) (d a : SReg) (k : CalKind) (va pa : Nat) (e : Extent),
    regionOf (s.rS a) = .virt va → s.translate s.cur va 1 .read s.issue.user = .ok e pa →
    let c := s.pkg.cal
    let first (base per len x : Nat) : Prop :=
      ∃ n, x = base + n * per ∧ s.ptime < x + len ∧ (n = 0 ∨ base + (n - 1) * per + len ≤ s.ptime)
    Next (exec (.mscal d a k) s) (fun t => OnlyCtx s t s.cur ∧ ∃ x : Nat,
      ResultS s.ctx t.ctx (s.ptime + 4) d (BitVec.ofNat 64 x) ∧ SameReads s t
      ∧ SameBesideRegs { s.ctx with extents := t.ctx.extents, msdef := t.ctx.msdef } t.ctx
      ∧ (k = .major → first 0 (2 ^ c.mjlog) c.mjlen x)
      ∧ (k = .sweep → isHbm pa = true →
          first (pchOf pa / 64 * 2 ^ c.swlog + 2 ^ (c.swlog - 1)) (8 * 2 ^ c.swlog) c.swlen x)
      ∧ (k = .bg → isHbm pa = true → 0 < c.bgper → (s.pchCal (pchOf pa)).deferred = [] →
          (s.pchCal (pchOf pa)).forced = none →
          first (c.bgph + bgOf pa * c.bgstep) c.bgper c.bglen x ∧ t.ctx.msdef = BitVec.ofNat 64 (pchOf pa + 1))
      ∧ (k = .bg → isHbm pa = true →
          let q := s.pchCal (pchOf pa)
          let slot (n : Nat) : Nat := c.bgph + bgOf pa * c.bgstep + n * c.bgper
          let opens (y : Nat) : Prop := s.ptime < y + c.bglen ∧ ((bgOf pa, y) ∉ q.deferred ∨ ∃ f, q.forced = some f ∧ f + c.ablen ≤ y)
            ∧ ∀ f, q.forced = some f → f + c.ablen ≤ y ∨ y + c.bglen ≤ f
          0 < c.bgper → c.ablen + c.bglen ≤ c.bgper → q.deferred.length < 30 →
          (∃ n, opens (slot n) ∧ (∀ m, opens (slot m) → slot n ≤ slot m)
            ∧ x = match q.forced with | some f => Nat.min f (slot n) | none => slot n)
          ∧ t.ctx.msdef = BitVec.ofNat 64 (pchOf pa + 1))
      ∧ (k ≠ .major → isHbm pa = false → x = 2 ^ 64 - 1) ∧ (k ≠ .bg → t.ctx.msdef = s.ctx.msdef))

/-- 07 R169, 21 R354, R355: `msdefer` takes one from the allowance of the address's pseudo-channel and bank group and
answers what is left; with none left, or for a CXL address, it answers all ones and moves nothing. What moves is the group's
first slot that is not deferred and opens LEAD cycles later or more; the `msdefer` that brings the allowance to 0 makes the
first such slot of any group a forced refresh. -/
def Sys2Proof.Parts.CalendarDeferral : Prop :=
  ∀ (s : State) (d a : SReg) (va pa : Nat) (e : Extent),
    regionOf (s.rS a) = .virt va → s.translate s.cur va 1 .read s.issue.user = .ok e pa →
    let c := s.pkg.cal
    let left (s : State) : Nat := (s.pchCal (pchOf pa)).allowance s.pkg.cal (bgOf pa)
    0 < c.bgper → 0 < c.ablen →
    Next (exec (.msdefer d a) s) (fun t => SameMemory s t ∧ t.pkg.cal = c
      ∧ ∃ lat x, 8 ≤ lat ∧ lat ≤ 96 ∧ ResultS s.ctx t.ctx (s.ptime + lat) d x
        ∧ (isHbm pa = false → x = BitVec.allOnes 64 ∧ t.pkg = s.pkg)
        ∧ (isHbm pa = true → left s = 0 → x = BitVec.allOnes 64 ∧ t.pkg = s.pkg)
        ∧ (isHbm pa = true → 0 < left s → x = BitVec.ofNat 64 (left s - 1) ∧ left t = left s - 1)
        ∧ (isHbm pa = true → 0 < left s → (s.pchCal (pchOf pa)).deferred.length < 30 →
            let q := s.pchCal (pchOf pa); let q' := t.pchCal (pchOf pa)
            let isSlot (h y : Nat) : Prop := s.ptime + c.lead ≤ y ∧ ∃ n, y = c.bgph + h * c.bgstep + n * c.bgper
            (∃ y, isSlot (bgOf pa) y ∧ (bgOf pa, y) ∉ q.deferred
                ∧ (∀ z, isSlot (bgOf pa) z → (bgOf pa, z) ∉ q.deferred → y ≤ z) ∧ q'.deferred = (bgOf pa, y) :: q.deferred)
            ∧ (∀ h, h < 8 → vget 0 q'.used h = vget 0 q.used h + if h = bgOf pa then 1 else 0)
            ∧ (left s ≠ 1 → q'.forced = none)
            ∧ (left s = 1 → ∃ f h, q'.forced = some f ∧ h < 8 ∧ isSlot h f ∧ (h, f) ∉ q'.deferred
                ∧ ∀ k z, k < 8 → isSlot k z → (k, z) ∉ q'.deferred → f ≤ z)))

/-- 07 R168, R169: `mscal` and `msdefer`.
Where the spec leaves the point open this is the model's choice: log 19 and 51. -/
def Obligations.CalendarInstructions : Prop := Sys2Proof.Parts.CalendarQuery ∧ Sys2Proof.Parts.CalendarDeferral

/-- 07 R171, 06 R133: `ddsync` closes the region and has its bundle hold the later ones; DDSYNC_COMPLETE lets them go on once
no dictionary store waits, and what has been fetched is fetched again. -/
def Obligations.DictionarySync : Prop :=
  (∀ (s : State), Next (exec .ddsync s) (fun t => t.ctx.resume.sync = true ∧ t.ctx.regs = s.ctx.regs ∧ t.ctx.loops = s.ctx.loops
      ∧ t.ctx.shadow.pc = s.issue.pc ∧ t.ctx.shadow.slot = s.issue.slot + 1 ∧ t.ctx.shadow.regs = s.ctx.regs
      ∧ t.ctx.resume.marked = true ∧ (∀ k ∈ t.ctx.stores, k.gated = false) ∧ SameMemory s t))
    ∧ (∀ (s : State) (i : Nat), (s.ctxAt i).ddsync = true →
      (∀ k ∈ (s.ctxAt i).stores, ∀ off n, k.kind ≠ .dict off n) →
      Next (exec (.ddsyncComplete i) s) (fun t => OnlyCtx s t i
        ∧ t.ctxAt i = { s.ctxAt i with ddsync := false, dictPend := [], ibuf := [] }))

/-! ### Scalar memory (10 R230 to R238) -/

/-- 10 R221, R231, 02 R55, 24 R381: a plain load of the hearth window reads the bank, readable after six cycles; nothing
else changes. Where ECC cannot correct what it reads it takes uncorrectable-memory (0x19) in class A. -/
def Sys2Proof.Parts.LoadsFromWindow : Prop :=
  ∀ (s : State) (d a : SReg) (imm : BitVec 16) (core off : Nat), ∀ i ∈ plainLoads d a imm,
    InWindow s (s.addr a imm) i.2.1 core off → WindowFree s (s.addr a imm) i.2.1 →
    ((s.coreAt core).badBytes off i.2.1 = false →
      ScalarResult s (exec i.1 s) 6 d (extend i.2.1 i.2.2 (memNat (s.coreAt core).scratch off i.2.1)))
    ∧ ((s.coreAt core).badBytes off i.2.1 = true → OwnHandler s →
      Next (exec i.1 s) (fun t => Entered s t 0x19 0 s.badTval s.issue.pc s.issue.slot))

/-- 10 R231, 02 R43, R48, 04 R83, R84, 21 R352, 24 R381: a plain load of the virtual space takes bytes that the context's
own stores all supply from them; else it reads the line that the L1 holds, the line that the die's remote-data cache
holds, or memory. From the last two the bundle stalls until the value arrives, and the L1 takes the line; a line that its
controller holds makes the bundle wait, with nothing read; one that ECC cannot correct takes uncorrectable-memory in
class B. No byte of memory changes. -/
def Sys2Proof.Parts.LoadsFromMemory : Prop :=
  ∀ (s : State) (d a : SReg) (imm : BitVec 16) (e : Extent) (pa : Nat), ∀ i ∈ plainLoads d a imm,
    let ea := s.addr a imm; let n := i.2.1; let l := pa / 64; let so := e.kind == .so
    let l1 := s.l1Serves ea.toNat l so; let rdc := s.rdcServes s.cur l so
    let core := s.coreAt (coreOf s.cur)
    let from_ (x : Line) : Word := extend n i.2.2 (x.toNat / 2 ^ (8 * (pa % 64)) % 2 ^ (8 * n))
    let reads (x : Line) (more : State → Prop) : Prop :=
      Next (exec i.1 s) (fun t => SameMemory s t ∧ SameControl s t ∧ OnlyS s t d (from_ x) ∧ more t)
    let arrives (t : State) (x : Line) : Prop := (∃ w, t.ctx.stall = some w ∧ (.s d, 0) ∈ w.regs)
      ∧ (so = false → ∃ k, (t.coreAt (coreOf s.cur)).l1Find s.ctx.asid ea.toNat = some k ∧ k.data = x)
    let faults : Prop := OwnHandler s → s.ctx.resume.marked = false →
      Next (exec i.1 s) (fun t => RolledBack s t 0x19 (BitVec.ofNat 64 (64 * l)))
    Allowed s ea n .read false e pa → LoadFree s e.kind ea pa n →
    ((∀ j, j < n → (s.ctx.forwarded l).getLsbD (pa % 64 + j) = true) →
        reads (s.ctx.forward l 0) (fun t => t.cores = s.cores ∧ t.dies = s.dies))
    ∧ (NoStoreTo s l →
      (∀ k, l1 = some k → .line k.asid k.vline ∉ core.bad → reads k.data (fun t => t.ctx.stall = s.ctx.stall))
      ∧ (∀ k, l1 = some k → .line k.asid k.vline ∈ core.bad → faults)
      ∧ (∀ r, l1 = none → rdc = some r → reads r.data (fun t => arrives t r.data))
      ∧ (l1 = none → rdc = none → s.readHeld s.cur l so = true → Next (exec i.1 s) (fun t => SameMemory s t
          ∧ t.ctx.regs = s.ctx.regs ∧ t.issue.stop = .held ∧ ∃ h, t.ctx.hold = some h ∧ h.line = l ∧ h.waits = true))
      ∧ (l1 = none → rdc = none → s.readHeld s.cur l so = false → l ∉ s.pkg.poisoned →
        reads (memLine s.mem l) (fun t => arrives t (memLine s.mem l)))
      ∧ (l1 = none → rdc = none → s.readHeld s.cur l so = false → l ∈ s.pkg.poisoned → faults))

/-- 10 R231: plain loads of the window and of the virtual space.
Where the spec leaves the point open this is the model's choice: log 1, 9, 19, 21, 41, 44 and 65. -/
def Obligations.ScalarLoads : Prop := Sys2Proof.Parts.LoadsFromWindow ∧ Sys2Proof.Parts.LoadsFromMemory

/-- 10 R230, R241, 04 R83: a plain store of the virtual space takes its place at the end of the context's waiting
stores with the line, bytes and value that its address and S[d] give; no byte of memory changes yet. -/
def Sys2Proof.Parts.StoresToMemory : Prop :=
  ∀ (s : State) (d a : SReg) (imm : BitVec 16) (e : Extent) (pa : Nat), ∀ i ∈ plainStores d a imm,
    Allowed s (s.addr a imm) i.2 .write false e pa →
    Next (exec i.1 s) (fun t => StoreWaits s t (pa / 64) (pa % 64) i.2 true
      (fun j => (s.rS d).extractLsb' (8 * j) 8))

/-- 10 R230, 02 R39, R40, R42, 04 R97: a plain store of the hearth window that waits for nothing writes its bytes of the bank
at once, but for those that the bank has served in this cycle to a store of a later place in its order, and no other byte of
it; memory, registers and the other cores stay. -/
def Sys2Proof.Parts.StoresToWindow : Prop :=
  ∀ (s : State) (d a : SReg) (imm : BitVec 16) (core off : Nat), ∀ i ∈ plainStores d a imm,
    InWindow s (s.addr a imm) i.2 core off → MatrixClear s (s.addr a imm) i.2 core → s.ctx.windowStoreWaits = false →
    Canonical s →
    Next (exec i.1 s) (fun t => { t with cores := s.cores } = s
      ∧ (∀ k, k ≠ core → t.coreAt k = s.coreAt k)
      ∧ { t.coreAt core with scratch := (s.coreAt core).scratch, bad := (s.coreAt core).bad,
                             served := (s.coreAt core).served, servedT := (s.coreAt core).servedT } = s.coreAt core
      ∧ ∀ x, BankByte s t s.cur core 3 x (off ≤ x ∧ x < off + i.2) ((s.rS d).extractLsb' (8 * (x - off)) 8))

/-- 10 R230: plain stores to memory and to the window. -/
def Obligations.ScalarStores : Prop := Sys2Proof.Parts.StoresToMemory ∧ Sys2Proof.Parts.StoresToWindow

/-- 02 R35 to R37, R42, 06 R132, 10 R239: `st.d` to the block-transfer registers, the engine-register window and, with `st.w`,
the dictionary aperture waits as a store of that kind; memory is as before. -/
def Obligations.StoresToRegisters : Prop :=
  ∀ (s : State) (d a : SReg) (imm : BitVec 16) (off : Nat),
    let ea := s.addr a imm; let v := s.rS d
    let waits (i : Instr) (k : StoreKind) (x : Nat) : Prop := Next (exec i s) (fun t => OnlyCtx s t s.cur
      ∧ SameControl s t ∧ t.ctx.regs = s.ctx.regs
      ∧ ∃ w, t.ctx.stores = s.ctx.stores ++ [w] ∧ w.kind = k ∧ w.data = BitVec.ofNat 512 x ∧ w.gated = true)
    (regionOf ea = .transfer off → off % 8 = 0 → s.ctx.engineDeclared (64 * (v.toNat % 256)) = true →
        waits (.stD d a imm) (.start (off / 8)) v.toNat)
      ∧ (regionOf ea = .engine off → off % 8 = 0 → s.ctx.engineDeclared off = true → s.ctx.engineCheck off v = none →
        waits (.stD d a imm) (.engine off) v.toNat)
      ∧ (regionOf ea = .dict off → off % 8 = 0 → waits (.stD d a imm) (.dict off 8) v.toNat)
      ∧ (regionOf ea = .dict off → off % 4 = 0 → waits (.stW d a imm) (.dict off 4) (v.toNat % 2 ^ 32))

/-- 10 R230, R231, 19 R329, R331, 14 R266, 02 R36, R39: a misaligned plain load or store takes misaligned (0x09) in class A
with the address in TVAL; one beyond its window 0x0A, one in no region undeclared-access (0x0B), which comes before a
misalignment by the model's choice (log 44); one that the ranges or the translation refuse takes its cause in class B, with a
rollback to the last restart point.
Where the spec leaves the point open this is the model's choice: log 44. -/
def Obligations.AccessFaults : Prop :=
  ∀ (s : State) (d a : SReg) (imm : BitVec 16), OwnHandler s →
    let ea := s.addr a imm
    let is (i : Instr) (n : Nat) (k : AccKind) : Prop :=
      (regionOf ea = .virt ea.toNat → ea.toNat % n ≠ 0 →
        Next (exec i s) (fun t => Entered s t 0x09 0 ea s.issue.pc s.issue.slot))
      ∧ (∀ m byte, regionOf ea = .window m byte → byte % n ≠ 0 →
        Next (exec i s) (fun t => Entered s t 0x09 0 ea s.issue.pc s.issue.slot))
      ∧ (∀ m byte, regionOf ea = .window m byte → byte % n = 0 → s.windowAt s.cur m byte n = none →
        Next (exec i s) (fun t => Entered s t 0x0A 0 ea s.issue.pc s.issue.slot))
      ∧ (∀ f, regionOf ea = .virt ea.toNat → ea.toNat % n = 0 → s.ctx.resume.marked = false →
        s.translate s.cur ea.toNat n k s.issue.user = .fault f →
        Next (exec i s) (fun t => RolledBack s t f.code f.tval))
      ∧ (regionOf ea = .undeclared →
        Next (exec i s) (fun t => Entered s t 0x0B 0 (BitVec.ofNat 64 (7 * 2 ^ 57 + ea.toNat % 2 ^ 57)) s.issue.pc s.issue.slot))
    (∀ i ∈ plainLoads d a imm, is i.1 i.2.1 .read) ∧ (∀ i ∈ plainStores d a imm, is i.1 i.2 .write)

/-- 10 R233, 02 R44, R48, 04 R87: an acquire load empties the core's L1 at cluster scope and beyond, and the die's RDC of
the partition's lines at die scope and beyond, before it reads; it then reads the value at the line's home where no cache
serves it. A misaligned one takes 0x09, one of a UN page 0x0F. -/
def Sys2Proof.Parts.AcquireLoads : Prop :=
  ∀ (s : State) (d a : SReg) (sc : Scope) (z : Size) (o : BitVec 11),
    let n := z.bytes; let ea := s.addr a o; let u := s.acquire s.cur sc
    (∀ e pa, let l := pa / 64; let so := e.kind == .so
      Allowed s ea n .read false e pa → LoadFree s e.kind ea pa n →
      (e.kind ≠ .un → NoStoreTo s l → l ∉ s.pkg.poisoned → u.l1Serves ea.toNat l so = none → u.rdcServes s.cur l so = none →
        u.readHeld s.cur l so = false →
        Next (exec (.ldAcq d a sc z o) s) (fun t => SameMemory s t ∧ SameControl s t
          ∧ OnlyS s t d (BitVec.ofNat 64 (memNat s.mem pa n)) ∧ (∃ w, t.ctx.stall = some w ∧ (.s d, 0) ∈ w.regs)
          ∧ (sc ≠ .ctx → ∀ x ∈ (t.coreAt (coreOf s.cur)).l1, x.vline = ea.toNat / 64 ∧ x.data = memLine s.mem l)
          ∧ (scopeWide sc = true → ∀ r ∈ (t.dieAt (dieOf s.cur)).rdc, r.part = s.ctx.part →
              r.pline = l ∧ r.data = memLine s.mem l)))
      ∧ (e.kind = .un → OwnHandler s → s.ctx.resume.marked = false →
        Next (exec (.ldAcq d a sc z o) s) (fun t => RolledBack s t 0x0F ea)))
    ∧ (∀ core off, InWindow s ea n core off → WindowFree s ea n → (s.coreAt core).badBytes off n = false →
      Next (exec (.ldAcq d a sc z o) s) (fun t => SameMemory s t ∧ SameControl s t
        ∧ OnlyS s t d (BitVec.ofNat 64 (memNat (s.coreAt core).scratch off n))
        ∧ (sc ≠ .ctx → (t.coreAt (coreOf s.cur)).l1 = [])
        ∧ (scopeWide sc = true → ∀ r ∈ (t.dieAt (dieOf s.cur)).rdc, r.part ≠ s.ctx.part)))
    ∧ (regionOf ea = .virt ea.toNat → ea.toNat % n ≠ 0 → OwnHandler s →
      Next (exec (.ldAcq d a sc z o) s) (fun t => Entered s t 0x09 0 ea s.issue.pc s.issue.slot))

/-- 10 R233, 04 R87: a release store of an RC or SO page waits as the plain store of its size, marked with its scope; a
UN page takes 0x0F. One of the window waits among the stores too, and is performed at once when none is ahead of it. -/
def Sys2Proof.Parts.ReleaseStores : Prop :=
  ∀ (s : State) (d a : SReg) (sc : Scope) (z : Size) (o : BitVec 11),
    let i : Instr := .stRel d a sc z o; let ea := s.addr a o; let n := z.bytes
    (∀ (e : Extent) (pa : Nat), Allowed s ea n .write false e pa →
      (e.kind ≠ .un → Next (exec i s) (fun t =>
        StoreWaits s t (pa / 64) (pa % 64) n true (fun j => (s.rS d).extractLsb' (8 * j) 8)
          ∧ ∀ k, t.ctx.stores.getLast? = some k → k.rel = some sc))
      ∧ (e.kind = .un → OwnHandler s → s.ctx.resume.marked = false →
        Next (exec i s) (fun t => RolledBack s t 0x0F ea)))
    ∧ (∀ core off, InWindow s ea n core off → MatrixClear s ea n core → Canonical s → Quiet s → s.ctx.barHold = false →
      Next (exec i s) (fun t => SameMemory s t ∧ SameControl s t ∧ t.ctx.regs = s.ctx.regs ∧ t.ctx.stores = []
        ∧ (∀ k, k ≠ core → t.coreAt k = s.coreAt k)
        ∧ ∀ x, BankByte s t s.cur core 3 x (off ≤ x ∧ x < off + n) ((s.rS d).extractLsb' (8 * (x - off)) 8)))

/-- 10 R233: `ld.acq` and `st.rel`.
Where the spec leaves the point open this is the model's choice: log 20, 21, 44, 45 and 65. -/
def Obligations.AcquireAndRelease : Prop := Sys2Proof.Parts.AcquireLoads ∧ Sys2Proof.Parts.ReleaseStores

/-- 10 R234, 04 R94, R97: an atomic reads the old value into S[d], sign-extended, and writes its result at the line's
home, or in the bank, in one step; no other byte changes but the frame's write-time entry. A `cas` whose comparison fails
writes nothing. The line is sealed with the block's writer tag; an acquire empties the core's L1 at cluster scope and beyond,
and the die's RDC of the partition's lines at die scope and beyond (02 R44, R48).
Where the spec leaves the point open this is the model's choice: log 21. -/
def Obligations.Atomics : Prop :=
  ∀ (s : State) (d a b : SReg) (op : AmoOp) (dbl : Bool) (sc : Scope) (acq rel : Bool),
    let n := atomicBytes dbl; let w := 8 * n; let ea := s.rS a
    let y := (s.rS b).toNat % 2 ^ w
    let signed (x : Nat) : Int := if 2 ^ (w - 1) ≤ x then (x : Int) - 2 ^ w else x
    let new (old : Nat) : Nat := match op with
      | .add => (old + y) % 2 ^ w
      | .and => old &&& y
      | .or => old ||| y
      | .xor => old ^^^ y
      | .min => if signed old ≤ signed y then old else y
      | .max => if signed old ≤ signed y then y else old
      | .minu => Nat.min old y
      | .maxu => Nat.max old y
      | .swap => y
    let answer (old : Nat) : Word := BitVec.ofInt 64 (signed old)
    let acquired (t : State) : Prop := acq = true → (sc ≠ .ctx → (t.coreAt (coreOf s.cur)).l1 = [])
      ∧ (scopeWide sc = true → ∀ r ∈ (t.dieAt (dieOf s.cur)).rdc, r.part ≠ s.ctx.part)
    Canonical s → Quiet s → s.ctx.barHold = false →
    (∀ (e : Extent) (pa : Nat), Allowed s ea n .readWrite false e pa → e.kind ≠ .un →
      LineClear s (fun _ => True) ea pa n → s.atomicHeld (pa / 64) = false → (pa / 64) ∉ s.pkg.poisoned →
      let old := memNat s.mem pa n
      let stored (x : Nat) : List Host.Cell :=
        memWriteLine s.mem (pa / 64) (BitVec.ofNat 512 (x * 2 ^ (8 * (pa % 64)))) (byteMask (pa % 64) n)
      let done (t : State) : Prop := OnlyS s t d (answer old) ∧ acquired t
        ∧ (∃ v, t.ctx.stall = some v ∧ (.s d, 0) ∈ v.regs)
        ∧ (isHbm pa = true → t.lineTag (pa / 64) = 0x1000 ||| s.ctx.wid.setWidth 13)
      let writes (i : Instr) (x : Nat) : Prop := Next (exec i s) (fun t => done t
          ∧ (∀ j, Untimed s (stored x) (64 * (pa / 64)) j → memByte t.mem j =
              if pa ≤ j ∧ j < pa + n then BitVec.ofNat 8 (x / 2 ^ (8 * (j - pa))) else memByte s.mem j))
      writes (.amo d a b op dbl sc acq rel) (new old)
        ∧ (old = (s.rS d).toNat % 2 ^ w → writes (.cas d a b dbl sc acq rel) y)
        ∧ (old ≠ (s.rS d).toNat % 2 ^ w → Next (exec (.cas d a b dbl sc acq rel) s) (fun t => SameMemory s t ∧ done t)))
    ∧ (∀ core off, InWindow s ea n core off → MatrixClear s ea n core → (s.coreAt core).badBytes off n = false →
      let old := memNat (s.coreAt core).scratch off n
      let writes (i : Instr) (x : Nat) : Prop := Next (exec i s) (fun t => SameMemory s t ∧ OnlyS s t d (answer old) ∧ acquired t
          ∧ (d ≠ 0 → t.ctx.readyAt (.s d) = s.ptime + 8) ∧ (∀ k, k ≠ core → (t.coreAt k).scratch = (s.coreAt k).scratch)
          ∧ ∀ j, memByte (t.coreAt core).scratch j =
              if off ≤ j ∧ j < off + n then BitVec.ofNat 8 (x / 2 ^ (8 * (j - off))) else memByte (s.coreAt core).scratch j)
      writes (.amo d a b op dbl sc acq rel) (new old)
        ∧ (old = (s.rS d).toNat % 2 ^ w → writes (.cas d a b dbl sc acq rel) y)
        ∧ (old ≠ (s.rS d).toNat % 2 ^ w → writes (.cas d a b dbl sc acq rel) old))

/-- 10 R235, R236, R238, 02 R44, R48, 04 R87, R97: fences, L1 invalidation and `rdwp`. An acquire fence, and a
`fence.full` when it is performed, empty the core's L1 and, at die scope or wider, the die's RDC of the partition's
lines. A fence of the other kinds closes the region and takes a place among the waiting stores: no later store of an RC
or SO page is ready while it stands, nor is it while an earlier one waits, and when it is performed at die scope or wider
it seals the lines that earlier stores were directed to, those of UN pages with `fence.full` alone. An invalidation keeps the
L1 from serving the context until its time has passed. None of them changes memory or another register.
Where the spec leaves the point open this is the model's choice: log 20 and 43. -/
def Obligations.FencesAndInvalidation : Prop :=
  ∀ (s : State) (sc : Scope) (k : FenceKind) (a b d : SReg) (c : BitVec 4),
    let core := coreOf s.cur
    let acquired (t : State) : Prop := (sc ≠ .ctx → (t.coreAt core).l1 = [])
      ∧ (scopeWide sc = true → ∀ r ∈ (t.dieAt (dieOf s.cur)).rdc, r.part ≠ s.ctx.part)
    let reaches (t : Store) : Prop := t.isAccess = true ∧ t.page ≠ .un
    let busy (t : State) (n : Nat) : Prop :=
      t.ctx = { s.ctx with l1busy := Nat.max s.ctx.l1busy (s.ptime + 1 + Nat.min ((n + 63) / 64) 4) }
    let rest (t : State) : Prop := { t with cores := s.cores, ctxs := s.ctxs } = s ∧ (∀ j, j ≠ s.cur → t.ctxAt j = s.ctxAt j)
      ∧ (∀ j, j ≠ core → t.coreAt j = s.coreAt j) ∧ { t.coreAt core with l1 := (s.coreAt core).l1 } = s.coreAt core
    let first := (s.rS a).toNat / 64; let last := ((s.rS a).toNat + (s.rS b).toNat - 1) / 64
    (s.ctx.engineWaits = false →
        Next (exec (.fence sc .acq) s) (fun t => t.ctxs = s.ctxs ∧ t.mem = s.mem ∧ acquired t))
      ∧ (k ≠ .acq → Next (exec (.fence sc k) s) (fun t => SameMemory s t ∧ t.ctx.regs = s.ctx.regs
          ∧ t.ctx.loops = s.ctx.loops ∧ t.ctx.resume.marked = true ∧ (∀ w ∈ t.ctx.stores, w.gated = false)
          ∧ (Quiet s → s.ctx.barHold = false → t.ctx.stores = [] ∧ (k = .full → acquired t))))
      ∧ (∀ (t : Ctx) (f x : Store), f ∈ t.stores → x ∈ t.stores → f.kind = .fence (k == .full) →
          (f.seq < x.seq → (k = .full ∨ reaches x) → t.storeReady x = false)
          ∧ (x.seq < f.seq → (k = .full ∨ reaches x) → t.storeReady f = false))
      ∧ (∀ (t : State) (i : Nat) (f : Store), f.kind = .fence (k == .full) → f.rel = some sc → scopeWide sc = true →
          ∀ x ∈ (t.ctxAt i).directed, x.queue = 0 → x.seq < f.seq → (x.un = true → k = .full) → isHbm (64 * x.line) = true →
          ((t.performStore i f).lineTag x.line).getLsbD 12 = true)
      ∧ Next (exec .l1inva s) (fun t => rest t ∧ (t.coreAt core).l1 = [] ∧ busy t 256)
      ∧ Next (exec (.l1inv a b) s) (fun t => rest t
          ∧ (s.rS b = 0 → t = s)
          ∧ (s.rS b ≠ 0 → last - first < 256 → busy t (last - first + 1)
            ∧ ∀ e, e ∈ (t.coreAt core).l1 ↔ e ∈ (s.coreAt core).l1 ∧ ¬ (e.asid = s.ctx.asid ∧ first ≤ e.vline ∧ e.vline ≤ last))
          ∧ (s.rS b ≠ 0 → 256 ≤ last - first → (t.coreAt core).l1 = [] ∧ busy t 256))
      ∧ ScalarResult s (exec (.rdwp d c) s) 1 d (s.ctx.wp c.toNat)

/-- 10 R237, 02 R52, R53: `probe` looks the page up among the tags. A hit answers the slot's window address, bit 0 set
while it fills, and does not transfer; a miss with no slot that may be taken answers 0 and transfers; another miss
claims the slot, starts its fill on channel 15, answers its address with bit 0 set, and transfers. The two delay bundles
follow in every case, and a trap among them saves the transfer's destination. A full channel makes it wait; a block
without a probe region takes handle-error (0x14).
Where the spec leaves the point open this is the model's choice: log 11. -/
def Obligations.ProbeLookup : Prop :=
  ∀ (s : State) (d a : SReg) (imm : BitVec 16),
    let c := s.ctx; let i : Instr := .probe d a imm
    let tag := (s.rS a).toNat / 4096 % 2 ^ 45
    let pending (taken : Bool) : Option Delay := some ⟨2, taken, BitVec.ofInt 64 (s.issue.after2.toInt + imm.toInt)⟩
    (c.probeSlots = 0 → OwnHandler s → Next (exec i s) (fun t => Entered s t 0x14 0 31 s.issue.pc s.issue.slot))
    ∧ (c.probeSlots ≠ 0 →
      (∀ k, c.probeHit tag = some k → Next (exec i s) (fun t => SameMemory s t
        ∧ OnlyS s t d (if gState (c.tagAt k) = 1 then c.probeWin k + 1 else c.probeWin k)
        ∧ t.ctx.delay = pending false ∧ t.ctx.ages.head? = some k))
      ∧ (c.probeHit tag = none → s.probeVictim s.cur = none →
        Next (exec i s) (fun t => SameMemory s t ∧ OnlyS s t d 0 ∧ t.ctx.delay = pending true))
      ∧ (∀ k, c.probeHit tag = none → s.probeVictim s.cur = some k → c.chanLoad 15 < 16 →
        Next (exec i s) (fun t => SameMemory s t ∧ OnlyS s t d (c.probeWin k + 1) ∧ t.ctx.delay = pending true
          ∧ gTag (t.ctx.tagAt k) = tag ∧ gState (t.ctx.tagAt k) = 1 ∧ t.ctx.ages.head? = some k
          ∧ ∃ o, (t.ctx.chan 15).getLast? = some o ∧ o.probe = some k
              ∧ tSBase o.tmpl = tag * 4096 ∧ tDBase o.tmpl = (c.probeWin k).toNat ∧ tSCount o.tmpl * tSsz o.tmpl = 4096))
      ∧ (∀ k, c.probeHit tag = none → s.probeVictim s.cur = some k → 16 ≤ c.chanLoad 15 →
        Next (exec i s) (fun t => SameMemory s t ∧ t.ctx.regs = s.ctx.regs ∧ t.ctx.delay = c.delay ∧ t.issue.stop = .held)))

/-- 07 R172, R173, 18 R299, R300, 16 R286: an append to a queue that is not enabled, or not owned by the device, answers
−2 and to a full one −1; otherwise the record stands in the queue's next entry, TAIL moves past it and S[d] receives its
identity; beside the record only the write times of its frames change. `rlnch` of a launch without a trace answers −3; that
−2 and −1 come before it, and the identity of a record whose CMD is neither 1 nor 2, are the model's choices (log 64).
Where the spec leaves the point open this is the model's choice: log 27 and 64. -/
def Obligations.DeviceAppends : Prop :=
  ∀ (s : State) (d a b : SReg),
    let part := s.ctx.part; let n := (s.rS b).toNat; let q := (s.partAt part).queueAt n; let p := s.partAt part
    let x := s.rS a
    let known := p.traces.any (fun t => t.lid == x.extractLsb' 0 32)
    let open_ := n < 64 ∧ q.en = true ∧ q.own = true
    let answers (i : Instr) (y : Word) : Prop :=
      Next (exec i s) (fun t => OnlyS s t d y ∧ SameMemory s t ∧ t.parts = s.parts)
    let appends (i : Instr) (y : Word) (byte : Nat → Byte → Prop) : Prop :=
      Next (exec i s) (fun t => OnlyS s t d y
        ∧ ((t.partAt part).queueAt n).tail = (q.tail + 1) % 2 ^ q.log2n
        ∧ ∃ m m', (∀ k, k < 512 → byte k (memByte m (q.slotPa q.tail + k)))
          ∧ (∀ j, (j < q.slotPa q.tail ∨ q.slotPa q.tail + 512 ≤ j) → memByte m j = memByte s.mem j)
          ∧ Timed s m (q.slotPa q.tail) m' ∧ Timed s m' (q.slotPa q.tail + 511) t.mem)
    let piece (k pa : Nat) : Prop := ∃ e, Allowed s (x + BitVec.ofNat 64 (64 * k)) 64 .read false e pa
      ∧ LoadFree s e.kind (x + BitVec.ofNat 64 (64 * k)) pa 64 ∧ (pa / 64) ∉ s.pkg.poisoned ∧ Sent s (pa / 64) (e.kind == .so)
    let readable := x.toNat % 64 = 0 ∧ regionOf x = .virt x.toNat ∧ (∀ k, k < 8 → ∃ pa, piece k pa)
    Canonical s → Quiet s →
    (readable → (¬ open_ → answers (.lnch d a b) (-2)) ∧ (open_ → q.full = true → answers (.lnch d a b) (-1))
        ∧ (open_ → q.full = false → ∀ pa : Nat → Nat, (∀ k, k < 8 → piece k (pa k) ∧ viaRdc (dieOf s.cur) (pa k) = false) →
            let bytes (k : Nat) (v : Byte) : Prop := v = memByte s.mem (pa (k / 64) + k % 64)
            (memByte s.mem (pa 0) ≠ 2 → appends (.lnch d a b) (p.lidNext.setWidth 64) bytes)
            ∧ (memByte s.mem (pa 0) = 2 → appends (.lnch d a b) (BitVec.ofNat 64 (memNat s.mem (pa 0 + 8) 4)) bytes)))
      ∧ (x.toNat < 2 ^ 32 → (¬ open_ → answers (.rlnch d a b) (-2))
        ∧ (open_ → q.full = true → answers (.rlnch d a b) (-1))
        ∧ (open_ → q.full = false → known = false → answers (.rlnch d a b) (-3))
        ∧ (open_ → q.full = false → known = true → appends (.rlnch d a b) x
            (fun k v => v = if k = 0 then 2 else if 8 ≤ k ∧ k < 12 then x.extractLsb' (8 * (k - 8)) 8 else 0)))

/-! ### The vector slot (08 R174 to R195) -/

/-- 08 R174, R177 to R179, R176: integer arithmetic by elements: two's complement wrap, or saturation where the form
asks for it; no flag. -/
def Obligations.VectorIntegers : Prop :=
  ∀ (s : State) (f : Fmt) (d a b : VReg) (q : QReg) (sat u : Bool), f.isFL = false →
    let w := f.width
    let x (i : Nat) : Int := toInt (elem (s.rV a) w i) w
    let y (i : Nat) : Int := toInt (elem (s.rV b) w i) w
    let wrap (z : Int) : Nat := (z % 2 ^ w).toNat
    let narrow (z : Int) : Nat :=
      wrap (if sat then (if z < -2 ^ (w - 1) then -2 ^ (w - 1) else if 2 ^ (w - 1) ≤ z then 2 ^ (w - 1) - 1 else z) else z)
    let ux (i : Nat) : Nat := elem (s.rV a) w i
    let uy (i : Nat) : Nat := elem (s.rV b) w i
    let is (i : Instr) (lat : Nat) (g : Nat → Nat) : Prop := VectorResult s (exec i s) lat f d q (fun k => (g k, 0))
    is (.vadd f d a b q sat) 2 (fun i => narrow (x i + y i)) ∧ is (.vsub f d a b q sat) 2 (fun i => narrow (x i - y i))
      ∧ is (.vmul f d a b q) 3 (fun i => wrap (x i * y i))
      ∧ is (.vmax f d a b q u) 2 (fun i => if u then Nat.max (ux i) (uy i) else wrap (max (x i) (y i)))
      ∧ is (.vmin f d a b q u) 2 (fun i => if u then Nat.min (ux i) (uy i) else wrap (min (x i) (y i)))
      ∧ is (.vabs f d a q) 2 (fun i => wrap (if x i < 0 then -x i else x i)) ∧ is (.vneg f d a q) 2 (fun i => wrap (-x i))

/-- 03 R65, R67, R78 to R80; 08 R177 to R179, R176: floating arithmetic by elements: the exact value of the operation
rounded once, with its flags; NaN results and signaling inputs as the formats have them. An infinity times a zero is
invalid and gives the canonical NaN, whatever the addend. -/
def Sys2Proof.Parts.VectorFloatArithmetic : Prop :=
  ∀ (s : State) (f : Fmt) (d a b : VReg) (q : QReg), f.isFL = true →
    let F := fmtSpec f; let w := f.width
    let x (i : Nat) : Nat := elem (s.rV a) w i
    let y (i : Nat) : Nat := elem (s.rV b) w i
    let z (i : Nat) : Nat := elem (s.rV d) w i
    let nv (b : Bool) : BitVec 5 := if b then 0x10 else 0
    let rounded (r : FVal × Bool) (sn : BitVec 5) : Nat × BitVec 5 := ((F.ofVal r.1).1, (F.ofVal r.1).2 ||| sn ||| nv r.2)
    let fused (p : FVal × Bool) (z : FVal) : FVal × Bool := ((p.1.add z).1, p.2 || (p.1.add z).2)
    let prod (i : Nat) : FVal × Bool := (F.value (x i)).mul (F.value (y i))
    let s2 (i : Nat) : BitVec 5 := F.snan (x i) ||| F.snan (y i)
    let s3 (i : Nat) : BitVec 5 := F.snan (x i) ||| F.snan (y i) ||| F.snan (z i)
    let is (i : Instr) (lat : Nat) (g : Nat → Nat × BitVec 5) : Prop := VectorResult s (exec i s) lat f d q g
    let infZero (i : Nat) : Prop := ∃ sx sy e, (F.value (x i) = .inf sx ∧ F.value (y i) = .fin sy 0 e)
      ∨ (F.value (x i) = .fin sx 0 e ∧ F.value (y i) = .inf sy)
    let fma (i : Instr) (g : Nat → Nat × BitVec 5) : Prop :=
      is i 4 g ∧ ∀ k, infZero k → (g k).1 = F.nan ∧ (g k).2.getLsbD 4 = true
    is (.vadd f d a b q false) 2 (fun i => rounded ((F.value (x i)).add (F.value (y i))) (s2 i))
      ∧ is (.vsub f d a b q false) 2 (fun i => rounded ((F.value (x i)).add (F.value (y i)).negate) (s2 i))
      ∧ is (.vmul f d a b q) 3 (fun i => rounded (prod i) (s2 i))
      ∧ fma (.vfma f d a b q) (fun i => rounded (fused (prod i) (F.value (z i))) (s3 i))
      ∧ fma (.vfms f d a b q) (fun i => rounded (fused (prod i) (F.value (z i)).negate) (s3 i))
      ∧ fma (.vfnma f d a b q) (fun i => rounded (fused ((prod i).1.negate, (prod i).2) (F.value (z i))) (s3 i))
      ∧ is (.vmax f d a b q false) 2 (fun i => F.extreme true (x i) (y i))
      ∧ is (.vmin f d a b q false) 2 (fun i => F.extreme false (x i) (y i))
      ∧ is (.vabs f d a q) 2 (fun i => if F.isNan (x i) then (F.nan, F.snan (x i)) else (x i % 2 ^ (w - 1), 0))
      ∧ is (.vneg f d a q) 2 (fun i => if F.isNan (x i) then (F.nan, F.snan (x i)) else (x i ^^^ 2 ^ (w - 1), 0))

/-- 03 R74, R67, 08 R180, R176: `vexp2`, `vlog2`, `vrcp`, `vrsqrt`, `vsqrt` and `vdiv` of F32 and BF16 elements: the
rounded value with its flags, and the special inputs of R74 with theirs: zeros, infinities, numbers below zero, NaNs. -/
def Sys2Proof.Parts.VectorTranscendentals : Prop :=
  ∀ (s : State) (f : Fmt) (d a b : VReg) (q : QReg), f = .f32 ∨ f = .bf16 →
    let F := fmtSpec f; let w := f.width
    let x (i : Nat) : Nat := elem (s.rV a) w i
    let y (i : Nat) : Nat := elem (s.rV b) w i
    let neg := 2 ^ (w - 1)
    let inf := if f = .f32 then 0x7F800000 else 0x7F80
    let nan := if f = .f32 then 0x7FC00000 else 0x7FC0
    let below (c : Nat) : Prop := ∃ m e, 0 < m ∧ F.value c = .fin true m e
    let is (i : Instr) (lat : Nat) (g : Nat → Nat × BitVec 5) : Prop := VectorResult s (exec i s) lat f d q g
    let unary (i : Instr) (lat : Nat) (g : FVal → Nat × BitVec 5) (special : List (Nat × Nat × BitVec 5)) (root : Bool) : Prop :=
      let r (k : Nat) : Nat × BitVec 5 := ((g (F.value (x k))).1, (g (F.value (x k))).2 ||| F.snan (x k))
      is i lat r ∧ ∀ k, (∀ c ∈ special, x k = c.1 → r k = c.2) ∧ (F.isNan (x k) = true → r k = (nan, F.snan (x k)))
        ∧ (root = true → below (x k) → r k = (nan, 0x10))
    let q2 (k : Nat) : Nat × BitVec 5 :=
      ((F.div (F.value (x k)) (F.value (y k))).1, (F.div (F.value (x k)) (F.value (y k))).2 ||| F.snan (x k) ||| F.snan (y k))
    unary (.vexp2 f d a q) 10 F.exp2 [(neg + inf, 0, 0), (inf, inf, 0)] false
      ∧ unary (.vlog2 f d a q) 10 F.log2 [(0, neg + inf, 8), (neg, neg + inf, 8), (neg + inf, nan, 0x10), (inf, inf, 0)] true
      ∧ unary (.vrcp f d a q) 10 F.rcp [(0, inf, 8), (neg, neg + inf, 8), (inf, 0, 0), (neg + inf, neg, 0)] false
      ∧ unary (.vrsqrt f d a q) 10 F.rsqrt [(0, inf, 8), (neg, neg + inf, 8), (neg + inf, nan, 0x10), (inf, 0, 0)] true
      ∧ unary (.vsqrt f d a q) 14 F.sqrt [(0, 0, 0), (neg, neg, 0), (neg + inf, nan, 0x10), (inf, inf, 0)] true
      ∧ is (.vdiv f d a b q) 14 q2
      ∧ ∀ k, (F.isNan (x k) = true ∨ F.isNan (y k) = true → q2 k = (nan, F.snan (x k) ||| F.snan (y k)))
          ∧ (x k % neg = 0 → y k % neg = 0 → q2 k = (nan, 0x10)) ∧ (x k % neg = inf → y k % neg = inf → q2 k = (nan, 0x10))
          ∧ (0 < x k % neg → x k % neg < inf → y k % neg = 0 →
              q2 k = ((if x k / neg = y k / neg then inf else neg + inf), 8))

/-- 03 R65 to R67, R74, R78 to R80; 08 R177 to R180: floating arithmetic of the V slot.
Where the spec leaves the point open this is the model's choice: log 15. -/
def Obligations.VectorFloats : Prop := Sys2Proof.Parts.VectorFloatArithmetic ∧ Sys2Proof.Parts.VectorTranscendentals

/-- 08 R181 to R183: logic, shifts by an element or an immediate, ReLU and its gradient. -/
def Sys2Proof.Parts.VectorLogicShift : Prop :=
  ∀ (s : State) (f : Fmt) (d a b : VReg) (q : QReg) (m : BitVec 5),
    let w := f.width; let F := fmtSpec f
    let x (i : Nat) : Nat := elem (s.rV a) w i
    let y (i : Nat) : Nat := elem (s.rV b) w i
    let sar (v k : Nat) : Nat := ((toInt v w / 2 ^ k) % 2 ^ w).toNat
    let pos (v : Nat) : Prop := if f.isFL then F.isNan v = false ∧ 0 < F.key v else 0 < toInt v w
    let is (i : Instr) (g : Nat → Nat × BitVec 5) : Prop := VectorResult s (exec i s) 2 f d q g
    let plain (i : Instr) (g : Nat → Nat) : Prop := is i (fun k => (g k, 0))
    plain (.vand f d a b q) (fun i => x i &&& y i) ∧ plain (.vor f d a b q) (fun i => x i ||| y i)
      ∧ plain (.vxor f d a b q) (fun i => x i ^^^ y i) ∧ plain (.vnot f d a q) (fun i => 2 ^ w - 1 - x i)
      ∧ plain (.vshl f d a b q) (fun i => x i * 2 ^ (y i % w)) ∧ plain (.vshli f d a m q) (fun i => x i * 2 ^ m.toNat)
      ∧ plain (.vshr f d a b q) (fun i => x i / 2 ^ (y i % w)) ∧ plain (.vshri f d a m q) (fun i => x i / 2 ^ m.toNat)
      ∧ plain (.vsar f d a b q) (fun i => sar (x i) (y i % w)) ∧ plain (.vsari f d a m q) (fun i => sar (x i) m.toNat)
      ∧ (∃ g, is (.vrelu f d a q) g ∧ ∀ i, (pos (x i) → g i = (x i, 0))
          ∧ (¬ pos (x i) → f.isFL = true → F.isNan (x i) = true → g i = (F.nan, F.snan (x i)))
          ∧ (¬ pos (x i) → (f.isFL = false ∨ F.isNan (x i) = false) → g i = (0, 0)))
      ∧ (∃ g, is (.vreluBwd f d a b q) g ∧ ∀ i, (¬ pos (x i) → g i = (0, 0))
          ∧ (pos (x i) → (f.isFL = false ∨ F.isNan (y i) = false) → g i = (y i, 0))
          ∧ (pos (x i) → f.isFL = true → F.isNan (y i) = true → g i = (F.nan, F.snan (y i))))

/-- 08 R182, R183: an immediate shift amount of the format's width or more, and a nonzero b field in the forward form
of `vrelu`, are refused as reserved in the formats that the rows list. -/
def Sys2Proof.Parts.ShiftFieldsReserved : Prop :=
  ∀ w : SlotWord, let op := fldN w 26 6; let f := Fmt.ofCode (fldN w 23 3)
    (op = 0x14 ∨ op = 0x15 ∨ op = 0x16 → w.getLsbD 0 = true → f.isIN = true → f.width ≤ fldN w 8 5 →
        decodeSlot .v w = .error .reserved)
      ∧ (op = 0x17 → w.getLsbD 0 = false → f.isFLIN = true → fldN w 8 5 ≠ 0 → decodeSlot .v w = .error .reserved)

/-- 08 R181 to R183: logic, shifts and ReLU, and the fields that they reserve. -/
def Obligations.VectorLogicAndShifts : Prop := Sys2Proof.Parts.VectorLogicShift ∧ Sys2Proof.Parts.ShiftFieldsReserved

/-- 08 R184 to R187, 03 R68, R75: `vcmp` writes one bit for each 32-bit lane from the element of part k in it, with
invalid for a signaling NaN, for `lt` and `le` for any; `vsel` and `vmovv` choose by lanes, `vcvt` converts a stretch of
the wider format's elements, `vround` rounds to an integral value. -/
def Obligations.VectorCompareSelectConvert : Prop :=
  ∀ (s : State) (f src : Fmt) (d a b : VReg) (qd q : QReg) (k : BitVec 2) (c : VCond) (r : RoundKind),
    let w := f.width; let m := s.rQ q; let F := fmtSpec f
    let x (j : Nat) : Nat := elem (s.rV a) w (j * (32 / w) + k.toNat)
    let y (j : Nat) : Nat := elem (s.rV b) w (j * (32 / w) + k.toNat)
    let nan (j : Nat) : Bool := F.isNan (x j) || F.isNan (y j)
    let fp (j : Nat) : Bool := match c with
      | .eq => !nan j && decide (F.key (x j) = F.key (y j))
      | .ne => nan j || decide (F.key (x j) ≠ F.key (y j))
      | .lt => !nan j && decide (F.key (x j) < F.key (y j))
      | .le => !nan j && decide (F.key (x j) ≤ F.key (y j))
      | _ => nan j
    let int (j : Nat) : Bool := match c with
      | .eq => decide (x j = y j)
      | .ne => decide (x j ≠ y j)
      | .lt => decide (toInt (x j) w < toInt (y j) w)
      | .le => decide (toInt (x j) w ≤ toInt (y j) w)
      | .ltu => decide (x j < y j)
      | _ => decide (x j ≤ y j)
    let invalid (j : Nat) : Prop := f.isFL = true ∧ (if c = .lt ∨ c = .le then nan j = true
      else F.signaling (x j) = true ∨ F.signaling (y j) = true)
    let choice (o : Out) (yes no : VWord) : Prop := Next o (fun t => ∃ z, WroteV s t 2 d z 0
      ∧ ∀ j, j < 128 → elem z 32 j = if m.getLsbD j then elem yes 32 j else elem no 32 j)
    ((if f.isFL then c ≠ .ltu ∧ c ≠ .leu else c ≠ .un) → Next (exec (.vcmp f qd a b q k c) s) (fun t => ∃ z fl,
        WroteQ s t 2 qd z fl
        ∧ (∀ j, j < 128 → z.getLsbD j = if m.getLsbD j then (if f.isFL then fp j else int j) else (s.rQ qd).getLsbD j)
        ∧ ∀ n, fl.getLsbD n = true ↔ n = 4 ∧ ∃ j, j < 128 ∧ m.getLsbD j = true ∧ invalid j))
      ∧ choice (exec (.vsel f d a b q) s) (s.rV a) (s.rV b) ∧ choice (exec (.vmovv f d a q) s) (s.rV a) (s.rV d)
      ∧ VectorResult s (exec (.vround f d a q r) s) 2 f d q (fun i => F.roundInt r (elem (s.rV a) w i))
      ∧ (src.width ≤ w → VectorResult s (exec (.vcvt f d a q k src) s) 2 f d q (fun i =>
          convertIn src f (elem (s.rV a) src.width (if src.width = w then i else k.toNat * (4096 / w) + i))))
      ∧ (w < src.width → VectorResult s (exec (.vcvt f d a q k src) s) 2 f d q (fun i =>
          let n := 4096 / src.width
          if k.toNat * n ≤ i ∧ i < k.toNat * n + n then convertIn src f (elem (s.rV a) src.width (i - k.toNat * n))
          else (elem (s.rV d) w i, 0)))

/-- 08 R188 to R190: broadcast, index ramp, lane to scalar, permute and slide. -/
def Sys2Proof.Parts.VectorMoves : Prop :=
  ∀ (s : State) (f : Fmt) (d a b : VReg) (sa sd : SReg) (q : QReg) (lo hi : BitVec 5) (up : Bool),
    let w := f.width; let n := 4096 / w
    let x (i : Nat) : Nat := elem (s.rV a) w i
    let c := (s.rS sa).toNat
    let is (i : Instr) (lat : Nat) (g : Nat → Nat) : Prop := VectorResult s (exec i s) lat f d q (fun k => (g k, 0))
    is (.vbcast f d sa q) 2 (fun _ => c) ∧ is (.viota f d sa q) 2 (fun i => c + i)
      ∧ is (.vperm f d a b q) 3 (fun i => if elem (s.rV b) w i < n then x (elem (s.rV b) w i) else 0)
      ∧ is (.vslide f d a sa q up) 3 (fun i =>
          if up then (if c ≤ i then x (i - c) else 0) else (if i + c < n then x (i + c) else 0))
      ∧ Next (exec (.vmovs f sd a lo hi) s) (fun t => WroteSV s t 3 sd
          (let e := x (lo.toNat + 32 * hi.toNat); if f.isIN then BitVec.ofInt 64 (toInt e w) else BitVec.ofNat 64 e))

/-- 08 R195: lane-mask logic, readable after two cycles; q0 reads as all ones. -/
def Sys2Proof.Parts.MaskLogic : Prop :=
  ∀ (s : State) (d a b : QReg),
    let is (i : Instr) (g : Bool → Bool → Bool) : Prop := Next (exec i s) (fun t => ∃ z, WroteQ s t 2 d z 0
      ∧ ∀ j, j < 128 → z.getLsbD j = g ((s.rQ a).getLsbD j) ((s.rQ b).getLsbD j))
    is (.qand d a b) (fun x y => x && y) ∧ is (.qor d a b) (fun x y => x || y) ∧ is (.qxor d a b) (fun x y => xor x y)
      ∧ is (.qandn d a b) (fun x y => x && !y) ∧ is (.qnot d a) (fun x _ => !x) ∧ is (.qmov d a) (fun x _ => x)
      ∧ s.rQ 0 = BitVec.allOnes 128 ∧ s.rS 0 = 0 ∧ s.rP 0 = true

/-- 08 R188, R190, R195: a `vmovs` index of n or more, nonzero FN[4:1] of `vslide`, and the fields of `qlog` that must
be 0 are refused as reserved; functions 6 to 31 of `qlog` are not assigned. -/
def Sys2Proof.Parts.MoveFieldsReserved : Prop :=
  ∀ w : SlotWord, let op := fldN w 26 6; let f := Fmt.ofCode (fldN w 23 3)
    (op = 0x1D → 4096 / f.width ≤ fldN w 8 5 + 32 * fldN w 0 5 → decodeSlot .v w = .error .reserved)
      ∧ (op = 0x21 → fldN w 1 4 ≠ 0 → decodeSlot .v w = .error .reserved)
      ∧ (op = 0x26 → fldN w 23 3 = 0 → 6 ≤ fldN w 0 5 → decodeSlot .v w = .error .unassigned)
      ∧ (op = 0x26 → fldN w 23 3 = 0 → fldN w 0 5 < 6 → fldN w 5 3 ≠ 0 → decodeSlot .v w = .error .reserved)
      ∧ (op = 0x26 → fldN w 23 3 = 0 → fldN w 0 5 ∈ [4, 5] → fldN w 8 5 ≠ 0 → decodeSlot .v w = .error .reserved)
      ∧ (op = 0x26 → fldN w 23 3 ≠ 0 → decodeSlot .v w = .error .unassigned)

/-- 08 R188 to R190, R195: moves, permutations and mask logic. -/
def Obligations.VectorMovesAndMasks : Prop := Sys2Proof.Parts.VectorMoves ∧ Sys2Proof.Parts.MaskLogic ∧ Sys2Proof.Parts.MoveFieldsReserved

/-- 08 R191 to R194, 03 R69, R70, R76, R77: reductions into lane 0 with zeros above, floating elements ranked in the total
order of R77; the class of each element, quantization into a NARROW4 band and back. -/
def Obligations.VectorReductions : Prop :=
  ∀ (s : State) (f : Fmt) (d a : VReg) (q : QReg) (k : BitVec 3),
    let w := f.width; let n := 4096 / w; let F := fmtSpec f
    let e (i : Nat) : Nat := elem (s.rV a) w i
    let x (i : Nat) : Int := toInt (e i) w
    let lane0 (op : RedOp) (ok : Nat → BitVec 5 → Prop) : Prop := Next (exec (.vred f d a op) s) (fun t =>
      ∃ y fl, WroteV s t 6 d (BitVec.ofNat 4096 y) fl ∧ y < 2 ^ 32 ∧ ok y fl)
    let most (rank : Nat → Int) (i : Nat) : Prop := i < n ∧ ∀ j, j < n → rank j ≤ rank i
    let first (rank : Nat → Int) (i : Nat) : Prop := most rank i ∧ ∀ j, j < i → rank j < rank i
    let rank (nan : Int) (i : Nat) : Int :=
      if F.isNan (e i) then nan else if e i < 2 ^ (w - 1) then (e i : Int) else 2 ^ (w - 1) - 1 - (e i : Int)
    let wide (i : Nat) : Nat := if F.isNan (e i) then 0x7FC00000 else if f = .f32 then e i else (F.convert fsF32 (e i)).1
    let signaled (fl : BitVec 5) : Prop := ∀ b, fl.getLsbD b = true ↔ b = 4 ∧ ∃ i, i < n ∧ F.signaling (e i) = true
    (f.isFL = false →
        lane0 .sum (fun y fl => fl = 0 ∧ (y : Int) = ((List.range n).map x).sum % 2 ^ 32)
        ∧ lane0 .max (fun y fl => fl = 0 ∧ ∃ i, most x i ∧ (y : Int) = x i % 2 ^ 32)
        ∧ lane0 .min (fun y fl => fl = 0 ∧ ∃ i, most (fun j => -x j) i ∧ (y : Int) = x i % 2 ^ 32)
        ∧ lane0 .argmax (fun i fl => fl = 0 ∧ first x i) ∧ lane0 .argmin (fun i fl => fl = 0 ∧ first (fun j => -x j) i))
      ∧ (f.isFL = true →
        lane0 .sum (fun y fl => (y, fl) = redSumF F (elems (s.rV a) w n))
        ∧ lane0 .max (fun y fl => signaled fl ∧ ∃ i, most (rank (2 ^ 40)) i ∧ y = wide i)
        ∧ lane0 .min (fun y fl => signaled fl ∧ ∃ i, most (fun j => -rank (-(2 ^ 40)) j) i ∧ y = wide i)
        ∧ lane0 .argmax (fun i fl => fl = 0 ∧ first (rank (2 ^ 40)) i)
        ∧ lane0 .argmin (fun i fl => fl = 0 ∧ first (fun j => -rank (-(2 ^ 40)) j) i))
      ∧ VectorResult s (exec (.vclass f d a q) s) 2 f d q (fun i => (F.cls (e i), 0))
      ∧ Next (exec (.vqnt d a k) s) (fun t => ∃ y fl, WroteV s t 8 d y fl
          ∧ (let r := quantBand (elems (s.rV a) 32 128)
             fl = r.2.2.2 ∧ (∀ i, i < 128 → elem y 4 i = (nth r.1 i).getD 0 % 16)
              ∧ (∀ i, i < 16 → elem y 8 (64 + i) = (nth r.2.1 i).getD 0 % 256) ∧ elem y 16 40 = r.2.2.1 % 2 ^ 16
              ∧ ∀ i, 82 ≤ i → i < 512 → elem y 8 i = 0))
      ∧ VectorResult s (exec (.vdeq d a k) s) 4 .f32 d 0 (fun i =>
          dequant (elem (s.rV a) 4 i) (elem (s.rV a) 8 (64 + i / 8)) (elem (s.rV a) 16 40))

/-! ### Tongs, matrix and scale slots (08 R196 to R199; 09) -/

/-- 08 R196 to R198: `xpush` notes its register for the row at the push pointer and advances it, `xpop` gives the
group at the pop pointer as the view of the bundle has it and advances it, `xclr` and `xwid` note themselves and reset the pointers;
nothing else of the device changes. A bundle that issued with TE = 0 takes illegal-slot-opcode (0x02) for them. -/
def Sys2Proof.Parts.TongsOperations : Prop :=
  ∀ (s : State) (v : VReg) (w : XWidth),
    (s.issue.te = false → OwnHandler s → ∀ i ∈ [Instr.xpush v, .xclr, .xwid w, .xpop v],
      Next (exec i s) (fun t => Entered s t 0x02 0 s.issue.tvalWord s.issue.pc s.issue.slot))
    ∧ (s.issue.te = true →
    let view := s.ctx.tongs.at s.ctx.bnum
    let is (i : Instr) (x : Tongs) : Prop := Next (exec i s) (fun t => OnlyCtx s t s.cur ∧ t.ctx = { s.ctx with tongs := x })
    is (.xpush v) { view with hist := view.hist ++ [(s.ctx.bnum, .push view.push (s.rV v))], push := view.push + 1 }
      ∧ is .xclr { view with hist := view.hist ++ [(s.ctx.bnum, .clear)], push := 0, pop := 0 }
      ∧ is (.xwid w) { view with hist := view.hist ++ [(s.ctx.bnum, .width w)], push := 0, pop := 0 }
      ∧ Next (exec (.xpop v) s) (fun t => OnlyCtx s t s.cur ∧ t.ctx.tongs = { view with pop := view.pop + 1 }
          ∧ SameReads s t ∧ SameBesideRegs { s.ctx with tongs := t.ctx.tongs } t.ctx
          ∧ ∃ x, ResultV s.ctx t.ctx (s.ptime + 2) v x
              ∧ (let b := XWidth.bits view.width
                 ∀ n, n < 4096 / b → elem x b n =
                  elem (view.rows.extractLsb' (4096 * (n % 32)) 4096) b (128 / b * view.pop.toNat + n / 32))))

/-- 08 R197, R198: what a bundle sees of the tongs: the X words of the bundles up to its number less four have acted on
rows and width, in order, and the later ones stay in the history. -/
def Sys2Proof.Parts.TongsView : Prop :=
  ∀ (t : Tongs) (n : Nat),
    (t.at n).hist = t.hist.filter (fun e => decide (n < e.1 + 4)) ∧ (t.at n).push = t.push ∧ (t.at n).pop = t.pop
      ∧ (∀ m r v rest, t.hist = (m, .push r v) :: rest → m + 4 ≤ n → (∀ e ∈ rest, n < e.1 + 4) →
          (t.at n).width = t.width ∧ ∀ k, k < 32 →
            (t.at n).rows.extractLsb' (4096 * k) 4096 = if k = r.toNat then v else t.rows.extractLsb' (4096 * k) 4096)
      ∧ (∀ m w rest, t.hist = (m, .width w) :: rest → m + 4 ≤ n → (∀ e ∈ rest, n < e.1 + 4) →
          (t.at n).width = w ∧ (t.at n).rows = 0)
      ∧ ((∀ e ∈ t.hist, n < e.1 + 4) → (t.at n) = t)

/-- 08 R196 to R198: the X slot and what a bundle sees of the tongs. -/
def Obligations.Tongs : Prop := Sys2Proof.Parts.TongsOperations ∧ Sys2Proof.Parts.TongsView

/-- 09 R203, R204, R207, R209, R215: an M word whose operands pass joins the M queue at its end with its tile and what it
captures, and closes the region; `mrd` receives its row at once, `mwait` only waits, to the cycle after the busy bit
clears. An error in a scale buffer is captured with it. -/
def Sys2Proof.Parts.MatrixIssue : Prop :=
  ∀ (s : State) (t3 : BitVec 3) (af bf : MFmt) (f : TFmt) (sa sb r : SReg) (v : VReg) (g ka kb : BitVec 2) (z : Bool),
    let c := s.ctx
    let set := tget gsetUndefined c.gset g.toNat
    let row := (s.rS r).toNat
    let base (a : SReg) : Prop := (∃ va, regionOf (s.rS a) = .virt va ∨ ∃ m, regionOf (s.rS a) = .window m va)
      ∧ (s.rS a).toNat % 64 = 0
    let joins (i : Instr) (ok : MOp → Prop) : Prop := Next (exec i s) (fun t => SameMemory s t ∧ t.cores = s.cores
      ∧ SameControl s t ∧ (∀ k ∈ t.ctx.stores, k.gated = false) ∧ t.ctx.shadow.pc = s.issue.pc
      ∧ t.ctx.shadow.slot = s.issue.slot + 1
      ∧ ∃ o, t.ctx.mq = c.mq ++ [o] ∧ o.tile = t3 ∧ o.row = 0 ∧ o.held = none ∧ o.flags = 0 ∧ o.user = s.issue.user ∧ ok o)
    c.heldOp = none ∨ c.inIssue ≠ none → c.mq.length < 8 → (∀ o ∈ c.mq, o.tile ≠ t3) → c.declTile t3 = true → Quiet s →
    (joins (.mzero t3) (fun o => o.kind = .mzero)
      ∧ (row < 64 → joins (.mwr t3 v r) (fun o => o.kind = .mwr ∧ o.data = s.rV v ∧ o.addrA = s.rS r))
      ∧ (row < 64 → s.badRow s.cur t3 row = false → Next (exec (.mrd t3 v r) s) (fun t =>
          OnlyV s t v (tileRow (s.tileAt s.cur t3) row) ∧ SameMemory s t ∧ SameControl s t
            ∧ ∃ o, t.ctx.mq = c.mq ++ [o] ∧ o.kind = .mrd ∧ o.tile = t3))
      ∧ (c.clearsNow t3 s.ptime = false → Next (exec (.mwait t3) s) (fun t => SameMemory s t ∧ SameControl s t ∧ t.ctx.mq = c.mq ∧ t.ctx.regs = c.regs))
      ∧ (c.clearsNow t3 s.ptime = true → Next (exec (.mwait t3) s) (fun t => t.ctx = c ∧ t.issue.stop = .held))
      ∧ (c.declSet g = true → gsetUsable set false = true → base sa →
          joins (.mst f t3 sa g) (fun o => o.kind = .mst ∧ o.tf = f ∧ o.addrA = s.rS sa ∧ o.gset = set)
          ∧ joins (.mld f t3 sa g) (fun o => o.kind = .mld ∧ o.tf = f ∧ o.addrA = s.rS sa ∧ o.gset = set))
      ∧ (c.declSet g = true → gsetUsable set (af == .e2m1) = true → base sa → base sb →
          (af = .e2m1 → c.declKbuf ka = true ∧ c.declKbuf kb = true) →
          joins (.mma af bf t3 sa sb g z ka kb) (fun o => o.kind = .mma ∧ o.af = af ∧ o.bf = bf ∧ o.z = z
            ∧ o.addrA = s.rS sa ∧ o.addrB = s.rS sb ∧ o.gset = set
            ∧ (af = .e2m1 → o.bufA = s.kbufAt s.cur ka ∧ o.bufB = s.kbufAt s.cur kb
              ∧ o.badA = s.badScale s.cur ka ∧ o.badB = s.badScale s.cur kb))))

/-- 09 R212: an M word, or `exit`, of a bundle that has not issued that meets a held operation delivers its fault in class C;
TPCW names the bundle and SLOTRES is 0. -/
def Sys2Proof.Parts.MatrixFaultDelivery : Prop :=
  ∀ (s : State) (t3 : BitVec 3) (v : VReg) (r sa sb : SReg) (f : TFmt) (af bf : MFmt) (g ka kb : BitVec 2) (z : Bool)
    (o : MOp) (rest : List MOp) (code : Nat) (tval : Word),
    s.ctx.mq = o :: rest → o.held = some (code, tval) → s.ctx.inIssue = none → OwnHandler s →
    ∀ i ∈ [Instr.mzero t3, .mrd t3 v r, .mwr t3 v r, .mst f t3 sa g, .mwait t3, .mld f t3 sa g,
           .mma af bf t3 sa sb g z ka kb, .exit],
      Next (exec i s) (fun t => Entered s t code 2 tval s.issue.pc 0 ∧ t.ctx.mq = s.ctx.mq)

/-- 09 R203 to R215: an M word joins its queue, or delivers a held fault. -/
def Obligations.MatrixWords : Prop := Sys2Proof.Parts.MatrixIssue ∧ Sys2Proof.Parts.MatrixFaultDelivery

/-- 09 R207, R208, 03 R79: a matrix operation without operands in memory is performed once its cycles have passed:
`mzero` clears its tile, `mwr` writes its row and no other, the operation leaves the queue, and memory stays. -/
def Sys2Proof.Parts.MatrixTileWrites : Prop :=
  ∀ (s : State) (i : Nat) (o : MOp), (s.ctxAt i).mHead = some o → (s.ctxAt i).stores = [] →
    (s.ctxAt i).tileNo o.tile < 8 → o.addrA.toNat < 64 → s.noRoom = false → (o.kind = .mzero ∨ o.kind = .mwr ∨ o.kind = .mrd) →
    o.time + o.cycles ≤ s.ptime →
    Next (exec (.mOpComplete i) s) (fun t => SameMemory s t ∧ t.ptime = s.ptime ∧ (t.ctxAt i).mq = (s.ctxAt i).mq.drop 1
      ∧ (∀ j, j ≠ i → t.ctxAt j = s.ctxAt j) ∧ (t.ctxAt i).regs = (s.ctxAt i).regs
      ∧ (∀ u, s.ptime ≤ u → (t.ctxAt i).fflagsAt u = (s.ctxAt i).fflagsAt u ||| o.flags)
      ∧ tget 0 (t.ctxAt i).tileT o.tile.toNat = s.ptime
      ∧ (∀ r, r < 64 → (t.tileAt i o.tile).extractLsb' (4096 * r) 4096 =
          match o.kind with
          | .mzero => 0
          | .mwr => if r = o.addrA.toNat then o.data else (s.tileAt i o.tile).extractLsb' (4096 * r) 4096
          | _ => (s.tileAt i o.tile).extractLsb' (4096 * r) 4096))

/-- 09 R207, R210, R214, R216, 03 R65 to R72, R79: what an operation with operands in memory leaves when it is performed. An
`mma` accumulates its rows of A and B into rows 0 to M − 1 and columns 0 to N − 1 of its tile, group by group; a `mld` widens
its rows into that region; the other elements stay, and so does memory. A `mst` narrows that region into memory, or into a
bank, and no other byte changes. Flags join FFLAGS. Bytes of the own footprint are those of the commit or of now by a free
value (log 17). -/
def Sys2Proof.Parts.MatrixResults : Prop :=
  ∀ (s : State) (i : Nat) (o : MOp),
    let c := s.ctxAt i; let g := o.gset; let run := (s.runM i o).1; let old := s.tileAt i o.tile
    let w := tfmtBits o.tf; let n := gN g * w / 8
    let within (r j : Nat) : Prop := o.row ≤ r ∧ r < gM g ∧ j < gN g
    let flags (t : State) (f : Nat → Nat → BitVec 5) : Prop := ∀ u, s.ptime ≤ u → ∀ k, k < 5 →
      (((t.ctxAt i).fflagsAt u).getLsbD k = true ↔ (c.fflagsAt u).getLsbD k = true ∨ o.flags.getLsbD k = true
        ∨ ∃ r j, within r j ∧ (f r j).getLsbD k = true)
    let done (new : Nat → Nat → Nat × BitVec 5) : Prop := Next (exec (.mOpComplete i) s) (fun t => SameMemory s t
      ∧ (t.ctxAt i).mq = c.mq.drop 1 ∧ (∀ k, (t.coreAt k).scratch = (s.coreAt k).scratch) ∧ flags t (fun r j => (new r j).2)
      ∧ ∀ r j, r < 64 → j < 128 →
          (within r j → elem (tileRow (t.tileAt i o.tile) r) 32 j = (new r j).1 % 2 ^ 32)
          ∧ (¬ within r j → elem (tileRow (t.tileAt i o.tile) r) 32 j = elem (tileRow old r) 32 j))
    let code (r j : Nat) : Nat × BitVec 5 := if o.tf = .f32 then (elem (tileRow old r) 32 j, 0)
      else fsF32.convert (tfmtSpec o.tf) (elem (tileRow old r) 32 j)
    let byte (r b : Nat) : Byte := BitVec.ofNat 8 ((code r (b / (w / 8))).1 / 2 ^ (8 * (b % (w / 8))))
    let at_ (r k : Nat) : Word := o.addrA + BitVec.ofNat 64 (r * gLdc g) + BitVec.ofNat 64 (64 * k)
    let pieces (P : Nat → Nat → Nat → Prop) : Prop := ∀ r k, o.row ≤ r → r < gM g → 64 * k < n → P r k (Nat.min 64 (n - 64 * k))
    c.mHead = some o → c.stores = [] → c.tileNo o.tile < 8 → gM g ≤ 64 → gN g ≤ 128 → Canonical s →
    run.stop = none → run.wait = false → run.over_ = [] → run.s.noRoom = false → Nat.max o.time run.last + o.cycles ≤ s.ptime →
    (∀ A B : Nat → MRow, o.kind = .mma →
        (∀ r, o.row ≤ r → r < gM g → OperandRow s i o o.af o.addrA (gLda g) o.bufA r (A r)) →
        (∀ j, j < gN g → OperandRow s i o o.bf o.addrB (gLdb g) o.bufB j (B j)) →
        let G := mGroup o.af o.bf
        done (fun r j => accumulate G ((gK g + G - 1) / G) (A r) (B j) (if o.z then 0 else elem (tileRow old r) 32 j, 0)))
    ∧ (∀ x : Nat → Nat, o.kind = .mld →
        (∀ r, o.row ≤ r → r < gM g → MatrixBytes s i o false (at_ r 0) n (x r)) →
        done (fun r j => let v := x r / 2 ^ (w * j) % 2 ^ w; if o.tf = .f32 then (v, 0) else (tfmtSpec o.tf).convert fsF32 v))
    ∧ (∀ (core : Nat) (off : Nat → Nat), o.kind = .mst →
        pieces (fun r k m => EngineWindow s i (at_ r k) m core (off r + 64 * k)) →
        (∀ r q a b, o.row ≤ r → r < gM g → o.row ≤ q → q < gM g → a < n → b < n → off r + a = off q + b → r = q) →
        Next (exec (.mOpComplete i) s) (fun t => SameMemory s t ∧ t.tileAt i o.tile = old ∧ flags t (fun r j => (code r j).2)
          ∧ (∀ r b, o.row ≤ r → r < gM g → b < n → BankByte s t i core 1 (off r + b) True (byte r b))
          ∧ (∀ a, (∀ r b, o.row ≤ r → r < gM g → b < n → a ≠ off r + b) →
              memByte (t.coreAt core).scratch a = memByte (s.coreAt core).scratch a)
          ∧ ∀ k, k ≠ core → t.coreAt k = s.coreAt k))
    ∧ (∀ pa : Nat → Nat → Nat, o.kind = .mst → (∀ d, d < 5 → (vget 0 s.pkg.wtroot d).toNat < 4096) →
        pieces (fun r k m => ∃ e, EngineAllowed s i o.user false (at_ r k) m .write e (pa r k) ∧ pa r k % 64 = 0
          ∧ (isHbm (pa r k) = false ∨ s.tagAllows (pa r k / 64) c.wid = true)) →
        pieces (fun r k _ => pieces (fun q l _ => pa r k = pa q l → r = q ∧ k = l)) →
        Next (exec (.mOpComplete i) s) (fun t => t.tileAt i o.tile = old ∧ flags t (fun r j => (code r j).2)
          ∧ (∀ k, (t.coreAt k).scratch = (s.coreAt k).scratch)
          ∧ pieces (fun r k m => ∀ b, b < m → memByte t.mem (pa r k + b) = byte r (64 * k + b))
          ∧ ∀ a, pieces (fun r k m => a < pa r k ∨ pa r k + m ≤ a) → memByte t.mem a = memByte s.mem a))

/-- 09 R208, R211, R212: the operation at the head of an M queue that meets a fault is held with its cause, MROW names
its tile and the row, and the rows before it are final; one that waits, or meets none, is left to its completion. A row
of `mst` or `mld` that cannot be reached is named itself; a fault in reaching the B operand of an `mma` counts as
row 0. -/
def Sys2Proof.Parts.MatrixRowFaults : Prop :=
  ∀ (s : State) (i : Nat) (o : MOp), (s.ctxAt i).mHead = some o →
    let r := s.runM i o
    (∀ f, r.1.stop = some f → r.1.wait = false → r.1.over_ = [] → r.1.s.noRoom = false →
        Next (exec (.matrixRowFault i) s) (fun t =>
          (t.ctxAt i).mval = true ∧ (t.ctxAt i).macc = o.tile ∧ (t.ctxAt i).mrow = BitVec.ofNat 7 r.2
          ∧ (t.ctxAt i).mHead = none ∧ (∃ p, (t.ctxAt i).heldOp = some p ∧ p.held = some f ∧ p.row = r.2 ∧ p.tile = o.tile)
          ∧ ∀ j, j ≠ i → t.ctxAt j = r.1.s.ctxAt j))
      ∧ (r.1.stop = none ∨ r.1.wait = true → exec (.matrixRowFault i) s = .next s)
      ∧ (∀ va f, let ea := o.addrA + BitVec.ofNat 64 (o.row * gLdc o.gset)
          let n := Nat.min (gN o.gset * tfmtBits o.tf / 8) 64
          o.kind = .mst ∨ o.kind = .mld → o.row < gM o.gset → 0 < n → regionOf ea = .virt va →
          (s.translateNow i 1 va n (if o.kind = .mst then .write else .read) o.user).1 = .fault f →
          r.1.stop = some (f.code, f.tval) ∧ r.2 = o.row)
      ∧ (∀ va f, o.kind = .mma → regionOf o.addrB = .virt va → (s.translateNow i 1 va 1 .read o.user).1 = .fault f →
          r.1.stop = some (f.code, f.tval) ∧ r.2 = 0)

/-- 09 R207 to R212: what M operations do to their tiles, and where they are held.
Where the spec leaves the point open this is the model's choice: log 17, 23, 48 and 49. -/
def Obligations.MatrixRows : Prop := Sys2Proof.Parts.MatrixTileWrites ∧ Sys2Proof.Parts.MatrixResults ∧ Sys2Proof.Parts.MatrixRowFaults

/-- 09 R217 to R220: `kband`, `kclr` and `kld` note their write for the twelfth bundle after theirs; a `kld` reads its
lines at issue. K_WRITE_LANDING lets the writes land that are due at the bundle that has ended, and no others: a load gives
its bytes of the buffer, a band both bands, a clear makes all of them zero, and the rest of the buffer stays. -/
def Obligations.ScaleBuffers : Prop :=
  (∀ (s : State) (k : BitVec 2) (a : SReg) (off lm1 : BitVec 8) (lines : Nat → Line),
    let c := s.ctx; let n := lm1.toNat + 1
    let note (w : KWrite) : List KPend := c.kpend ++ [{ due := c.bnum + 12, buf := k, write := w }]
    s.issue.te = true → c.declKbuf k = true →
    Next (exec (.kband k a) s) (fun t => OnlyCtx s t s.cur ∧ t.ctx = { c with kpend := note (.band (s.rS a)) })
      ∧ Next (exec (.kclr k) s) (fun t => OnlyCtx s t s.cur ∧ t.ctx = { c with kpend := note .clear })
      ∧ ((s.rS a).toNat % 64 = 0 → (∀ j, j < n → LineAt s false (s.rS a + BitVec.ofNat 64 (64 * j)) (lines j)) →
          Next (exec (.kld k a off lm1) s) (fun t => SameMemory s t ∧ SameControl s t ∧ t.ctx.regs = c.regs
            ∧ ∃ data, t.ctx.kpend = note (.load (64 * off.toNat) (64 * n) data) ∧ data.length = 64 * n
                ∧ ∀ j b, j < n → b < 64 → data[64 * j + b]? = some ((lines j).extractLsb' (8 * b) 8))))
    ∧ (∀ (s : State) (i : Nat), Next (exec (.kWriteLanding i) s) (fun t =>
        let c := s.ctxAt i; let n := if c.numbered then c.bnum - 1 else c.bnum
        { t with ctxs := s.ctxs, cores := s.cores } = s ∧ (∀ j, j ≠ i → t.ctxAt j = s.ctxAt j)
          ∧ (t.ctxAt i).kpend = c.kpend.filter (fun p => decide (n < p.due))
          ∧ (∀ k, (t.coreAt k).scratch = (s.coreAt k).scratch ∧ (t.coreAt k).tiles = (s.coreAt k).tiles)
          ∧ ((∀ p ∈ c.kpend, n < p.due) → t.cores = s.cores ∨ ∀ k, t.coreAt k = s.coreAt k)
          ∧ (∀ p, c.kpend.filter (fun p => decide (p.due ≤ n)) = [p] → c.kbufNo p.buf < 4 →
              (∀ k, c.kbufNo k ≠ c.kbufNo p.buf → t.kbufAt i k = s.kbufAt i k)
              ∧ (∀ x, p.write = .band x →
                (t.kbufAt i p.buf).bnd0 = x.extractLsb' 0 16 ∧ (t.kbufAt i p.buf).bnd1 = x.extractLsb' 16 16
                  ∧ (t.kbufAt i p.buf).bytes = (s.kbufAt i p.buf).bytes)
              ∧ (p.write = .clear → t.kbufAt i p.buf = .zero)
              ∧ (∀ off len data, p.write = .load off len data → data.length = len → off + len ≤ 16384 →
                (t.kbufAt i p.buf).bnd0 = (s.kbufAt i p.buf).bnd0 ∧ (t.kbufAt i p.buf).bnd1 = (s.kbufAt i p.buf).bnd1
                  ∧ ∀ x, x < 16384 → some ((t.kbufAt i p.buf).bytes.extractLsb' (8 * x) 8) =
                      if off ≤ x ∧ x < off + len then data[x - off]? else some ((s.kbufAt i p.buf).bytes.extractLsb' (8 * x) 8)))))

/-! ### Lines and kept tiles (10 R221 to R229; 05) -/

/-- 10 R223 to R226: `vld`, `vlds` and `vldh` give V[v] the lanes of their lines that the mask leaves and keep the
others; `vgth` gives each unmasked lane its word. Memory and the banks stay. The value is that of memory at issue (log 21).
Where the spec leaves the point open this is the model's choice: log 21. -/
def Obligations.VectorLoads : Prop :=
  ∀ (s : State) (v x : VReg) (a b : SReg) (q : QReg) (h : BitVec 5) (imm : BitVec 13) (lines : Nat → Line),
    let m := s.rQ q
    let reads (i : Instr) (at_ : Nat → Word) : Prop :=
      (∀ c, c < 8 → Touched m c → LineAt s false (at_ c) (lines c)) → Next (exec i s) (fun t => LinesLoaded s t v m lines)
    let ea := s.rS a + BitVec.ofInt 64 (imm.toInt * 64)
    let d := s.ctx.handle h.toNat
    (ea.toNat % 64 = 0 → reads (.vld v a q imm) (fun c => ea + BitVec.ofNat 64 (64 * c)))
      ∧ ((s.rS a).toNat % 64 = 0 → (s.rS b).toNat % 64 = 0 →
          reads (.vlds v a q b) (fun c => s.rS a + BitVec.ofNat 64 c * s.rS b))
      ∧ (s.ctx.handleOk h.toNat = true → 64 * imm.toNat + 512 ≤ hSize d → hState d (hCP d) = 2 →
          reads (.vldh v h q imm) (fun c => s.ctx.handleWin h.toNat (hCP d) + BitVec.ofNat 64 (64 * imm.toNat)
            + BitVec.ofNat 64 (64 * c)))
      ∧ ((s.rS a).toNat % 4 = 0 → ∀ word : Nat → Nat,
          (∀ j, j < 128 → m.getLsbD j = true → let ej := s.rS a + BitVec.ofNat 64 (4 * elem (s.rV x) 32 j)
            (WindowFree s ej 4 ∧ ∃ core off, InWindow s ej 4 core off
              ∧ (s.coreAt core).badLine (off / 64) (BitVec.allOnes 64) = false
              ∧ word j = memNat (s.coreAt core).scratch off 4)
            ∨ ∃ e pa, Allowed s ej 4 .read false e pa ∧ LoadFree s e.kind ej pa 4 ∧ NoStoreTo s (pa / 64)
              ∧ (pa / 64) ∉ s.pkg.poisoned ∧ Sent s (pa / 64) (e.kind == .so)
              ∧ (viaRdc (dieOf s.cur) pa = false ∨ e.kind = .so) ∧ word j = memNat s.mem pa 4) →
          Next (exec (.vgth v a q x) s) (fun t => SameMemory s t ∧ SameControl s t ∧ t.cores = s.cores
            ∧ ∃ y, OnlyV s t v y ∧ ∀ j, j < 128 → elem y 32 j = if m.getLsbD j then word j else elem (s.rV v) 32 j))

/-- 10 R223 to R226, R230, 08 R198, R199: `vst`, `vsts`, `vsth` and `xst` put a waiting store for each line with an unmasked lane in
their order, or write the bank at once where they go to the window; `vsct` does so by lanes. Memory stays until the
stores are performed. -/
def Obligations.VectorStores : Prop :=
  ∀ (s : State) (v x : VReg) (a b : SReg) (q : QReg) (h : BitVec 5) (imm : BitVec 13) (im16 : BitVec 16) (pa : Nat → Nat)
    (core off : Nat),
    let m := s.rQ q; let all := BitVec.allOnes 128
    let ea := s.rS a + BitVec.ofInt 64 (imm.toInt * 64); let ex := s.rS a + BitVec.ofInt 64 (im16.toInt * 64)
    let at_ (e : Word) (c : Nat) : Word := e + BitVec.ofNat 64 (64 * c)
    let d := s.ctx.handle h.toNat
    let eh := s.ctx.handleWin h.toNat (hPP d) + BitVec.ofNat 64 (64 * imm.toNat)
    let virt (m : QMask) (e : Nat → Word) : Prop := ∀ c, c < 8 → Touched m c → ∃ x, Allowed s (e c) 64 .write false x (pa c)
    let bank (m : QMask) (e : Word) : Prop := off % 64 = 0 ∧ Canonical s ∧ s.ctx.windowStoreWaits = false
      ∧ ∀ c, c < 8 → Touched m c → InWindow s (at_ e c) 64 core (off + 64 * c) ∧ MatrixClear s (at_ e c) 64 core
    (ea.toNat % 64 = 0 →
        (virt m (at_ ea) → Next (exec (.vst v a q imm) s) (fun t => LinesWait s t (s.rV v) m pa))
          ∧ (bank m ea → Next (exec (.vst v a q imm) s) (fun t => LinesStored s t (s.rV v) m core off)))
      ∧ ((s.rS a).toNat % 64 = 0 → (s.rS b).toNat % 64 = 0 →
          let es (c : Nat) : Word := s.rS a + BitVec.ofNat 64 c * s.rS b
          (virt m es → Next (exec (.vsts v a q b) s) (fun t => LinesWait s t (s.rV v) m pa))
          ∧ (Canonical s → s.ctx.windowStoreWaits = false →
            (∀ c, c < 8 → Touched m c → pa c % 64 = 0 ∧ InWindow s (es c) 64 core (pa c) ∧ MatrixClear s (es c) 64 core) →
            (∀ c k, c < 8 → k < 8 → Touched m c → Touched m k → pa c = pa k → c = k) →
            Next (exec (.vsts v a q b) s) (fun t => SameMemory s t ∧ t.ctx.regs = s.ctx.regs ∧ SameControl s t
              ∧ (∀ k, k ≠ core → t.coreAt k = s.coreAt k) ∧ LanesStand s t core (s.rV v) 64 (fun i => m.getLsbD (i / 4)) pa)))
      ∧ (s.issue.te = true → ex.toNat % 64 = 0 →
          (virt all (at_ ex) → Next (exec (.xst a im16) s) (fun t => SameMemory s t ∧ t.ctx.regs = s.ctx.regs
            ∧ t.ctx.tongs.pop = s.ctx.tongs.pop + 1
            ∧ ∃ ks, t.ctx.stores = s.ctx.stores ++ ks ∧ ks.map (fun k => (k.kind, k.data))
                = (List.range 8).map (fun c => (StoreKind.line (pa c / 64) false, vline s.ctx.group c))))
          ∧ (bank all ex → Next (exec (.xst a im16) s) (fun t => LinesStored s t s.ctx.group all core off
            ∧ t.ctx.tongs.pop = s.ctx.tongs.pop + 1)))
      ∧ (s.ctx.handleOk h.toNat = true → 64 * imm.toNat + 512 ≤ hSize d → hState d (hPP d) ≤ 1 → Quiet s → bank m eh →
          Next (exec (.vsth v h q imm) s) (fun t => SameMemory s t ∧ t.ctx.regs = s.ctx.regs
            ∧ hState (t.ctx.handle h.toNat) (hPP d) = 1
            ∧ ∀ y, BankByte s t s.cur core 2 y (off ≤ y ∧ y < off + 512 ∧ m.getLsbD ((y - off) / 4) = true)
                ((s.rV v).extractLsb' (8 * (y - off)) 8)))
      ∧ ((s.rS a).toNat % 4 = 0 → ∀ at4 : Nat → Nat,
          (∀ j, j < 128 → m.getLsbD j = true →
            ∃ e, Allowed s (s.rS a + BitVec.ofNat 64 (4 * elem (s.rV x) 32 j)) 4 .write false e (at4 j)) →
          Next (exec (.vsct v a q x) s) (fun t => SameMemory s t ∧ t.ctx.regs = s.ctx.regs ∧ SameControl s t
            ∧ ∃ ks, t.ctx.stores = s.ctx.stores ++ ks ∧ ks.map (fun k => (k.kind, k.mask, k.data))
                = ((List.range 128).filter (fun j => m.getLsbD j)).map
                    (fun j => (StoreKind.line (at4 j / 64) false, byteMask (at4 j % 64) 4,
                      BitVec.ofNat 512 (elem (s.rV v) 32 j * 2 ^ (8 * (at4 j % 64)))))))
      ∧ ((s.rS a).toNat % 4 = 0 → Canonical s → s.ctx.windowStoreWaits = false → ∀ at4 : Nat → Nat,
          (∀ j, j < 128 → m.getLsbD j = true → at4 j % 4 = 0 ∧ InWindow s (s.rS a + BitVec.ofNat 64 (4 * elem (s.rV x) 32 j)) 4 core (at4 j)
            ∧ MatrixClear s (s.rS a + BitVec.ofNat 64 (4 * elem (s.rV x) 32 j)) 4 core) →
          (∀ j k, j < 128 → k < 128 → m.getLsbD j = true → m.getLsbD k = true → at4 j = at4 k → j = k) →
          Next (exec (.vsct v a q x) s) (fun t => SameMemory s t ∧ t.ctx.regs = s.ctx.regs ∧ SameControl s t
            ∧ (∀ k, k ≠ core → t.coreAt k = s.coreAt k) ∧ LanesStand s t core (s.rV v) 4 (fun i => m.getLsbD (i / 4)) at4))

/-- 05 R102, R105, R107, R108, 10 R227: a `kst` that passes its checks waits with its payload's lines and after them the
header, whose fields name the reader class, the shape, the payload's length and its CRC-32C; its flags join FFLAGS at
once. A shape that is refused takes 0x03, a base off its line or an allocation beyond its page 0x09, an allocation too
short for the tile 0x12. -/
def Sys2Proof.Parts.KeptStore : Prop :=
  ∀ (s : State) (v : VReg) (a t3 : SReg) (c : KClass) (f : KFmt) (pa : Nat → Nat),
    let ea := s.rS a; let w := s.rS t3; let n := (kfmtFmt f).count; let form := keptForm c
    let win := getF w 16 7
    let plen := payloadLen form n win; let lines := (plen + 63) / 64
    let data := payload form (kfmtFmt f) win (elems (s.rV v) (kfmtFmt f).width n)
    let placed := ea.toNat % 64 = 0 ∧ ea.toNat % 4096 + 64 * getF w 40 8 ≤ 4096
    let enters (code : Nat) (tval : Word) : Prop :=
      Next (exec (.kst v a t3 c f) s) (fun t => Entered s t code 0 tval s.issue.pc s.issue.slot)
    (OwnHandler s → (shapeOk form n w = false → enters 0x03 s.issue.tvalWord)
      ∧ (shapeOk form n w = true → ¬ placed → enters 0x09 ea)
      ∧ (shapeOk form n w = true → placed → 64 * getF w 40 8 < 64 + 64 * lines → enters 0x12 ea))
    ∧ (shapeOk form n w = true → placed → 64 + 64 * lines ≤ 64 * getF w 40 8 →
      (∀ j, j ≤ lines → ∃ e, Allowed s (ea + BitVec.ofNat 64 (64 * j)) 64 .write true e (pa j)) →
    Next (exec (.kst v a t3 c f) s) (fun t => SameMemory s t ∧ t.ctx.regs = s.ctx.regs
      ∧ t.ctx.fflags = s.ctx.fflags ||| data.2
      ∧ ∃ ks h, t.ctx.stores = s.ctx.stores ++ ks ++ [h]
          ∧ ks.map (fun k => (k.kind, k.data)) = (List.range lines).map (fun j =>
              (StoreKind.line (pa (j + 1) / 64) false, BitVec.ofNat 512 (data.1 / 2 ^ (512 * j))))
          ∧ h.kind = .line (pa 0 / 64) true ∧ kRdr h.data = c.code ∧ kForm h.data = form ∧ kNelem h.data = n
          ∧ kCols h.data = getF w 0 10 ∧ kPlen h.data = plen ∧ kSuff h.data = getB w 32
          ∧ kCrc h.data = crc32c (natBytes plen data.1) ∧ ∀ k ∈ ks ++ [h], k.mask = BitVec.allOnes 64 ∧ k.gated = true))

/-- 05 R109 to R111, 10 R228, R229: a kept reader whose tile it accepts, with a payload that matches its CRC, gives
V[v] the values of the payload, as memory holds it at issue (log 21); a tile that it does not accept, or whose shape its entry
refuses, takes kept-reader-mismatch (0x10), a payload that does not match its CRC takes uncorrectable-memory (0x19), both in
class A. -/
def Sys2Proof.Parts.KeptReaders : Prop :=
  ∀ (s : State) (v g : VReg) (a : SReg) (f : RFmt) (win : BitVec 6) (k : BitVec 2) (h : Line) (ls : List Line),
    let ea := s.rS a; let p := payloadNat ls; let fm := rfmtFmt f; let w := fm.width
    let grad (i : Nat) : Nat := elem (s.rV g) w i
    let pass (i : Nat) : Nat := ((fmtSpec fm).quiet (grad i)).1
    let enters (i : Instr) (code : Nat) (tval : Word) : Prop :=
      Next (exec i s) (fun t => Entered s t code 0 tval s.issue.pc s.issue.slot)
    let reads (i : Instr) (r : KReader) (width : Nat) (ok : Prop) (value : Nat → Nat) : Prop :=
      (accepted r h ea.toNat = true → ok → crcOk h ls = true → Next (exec i s) (fun t => SameMemory s t
          ∧ (∀ j, j ≠ s.cur → t.ctxAt j = s.ctxAt j) ∧ t.ctx.stores = s.ctx.stores
          ∧ ∃ x, OnlyV s t v x ∧ ∀ j, j < 4096 / width → elem x width j = value j % 2 ^ width))
      ∧ (OwnHandler s → accepted r h ea.toNat = false → enters i 0x10 (setF ea 0 6 (kRdr h)))
      ∧ (OwnHandler s → accepted r h ea.toNat = true → crcOk h ls = false → ∀ e pa, Allowed s ea 64 .read true e pa →
          enters i 0x19 (BitVec.ofNat 64 pa))
      ∧ (OwnHandler s → accepted r h ea.toNat = true → crcOk h ls = true → ¬ ok → enters i 0x10 (setF ea 0 6 (kRdr h)))
    ea.toNat % 64 = 0 → LineAt s true ea h →
    ls.length = Nat.min ((kPlen h + 63) / 64) ((4096 - ea.toNat % 4096) / 64 - 1) →
    (∀ j x, ls[j]? = some x → LineAt s true (ea + BitVec.ofNat 64 (64 * (j + 1))) x) →
    reads (.vldk v a k) .vldk 32 True (fun j => p % 2 ^ (8 * kPlen h) / 2 ^ (4096 * k.toNat + 32 * j))
      ∧ reads (.vdeqk v a k) .vdeqk 32 True (fun j =>
          if 128 * k.toNat + j < kNelem h then (narrowElem p (kNelem h) (128 * k.toNat + j)).1 else 0)
      ∧ reads (.vrelub v g a f) .vrelub w (kNelem h = 4096 / w) (fun j =>
          if storedPositive (kForm h) p j then pass j else 0)
      ∧ reads (.vmaxpb v g a win f) .vmaxpb w
          (kNelem h = 4096 / w ∧ (if kForm h = 2 then kWin h = win.toNat + 1 else kCols h % (win.toNat + 1) = 0))
          (fun j =>
            let n := win.toNat + 1
            let q := j / kCols h * (kCols h / n) + j % kCols h / n
            if j % n = storedOffset (kForm h) p n q then pass q else 0)

/-- 05 R104 to R111, 10 R227 to R229: kept tiles stored and read.
Where the spec leaves the point open this is the model's choice: log 21, 46 and 47. -/
def Obligations.KeptTiles : Prop := Sys2Proof.Parts.KeptStore ∧ Sys2Proof.Parts.KeptReaders

/-! ### The engine slot (10 R249 to R258) -/

/-- 10 R249, R251, R253: `cbwait` and `cbfree` pass when the slots from their pointer are full, and free; `cbadvc` frees
full slots and moves CP, `cbadvp` fills slots that nothing pins and moves PP, modulo the slot count; `cbstat` reads the
handle's second doubleword. `cbwait` and `cbfree` wait otherwise, the handle-state trap (0x14) meets the others (a `cbadvc`
with a slot that is not full, a `cbadvp` with one that is full, draining or pinned), and a count of 0 or beyond the handle's
slots takes reserved-field (0x03). -/
def Sys2Proof.Parts.HandleInstructions : Prop :=
  ∀ (s : State) (h : BitVec 5) (n : BitVec 16) (r d : SReg),
    let c := s.ctx; let k := h.toNat; let x := c.handle k; let m := hCount x
    let all (p : Nat) (ok : Nat → Prop) : Prop := ∀ j, j < n.toNat → ok (hState x ((p + j) % m))
    let waits (i : Instr) : Prop := Next (exec i s) (fun t => SameMemory s t ∧ SameControl s t ∧ t.ctx.regs = c.regs
      ∧ t.issue.stop = .held)
    let moved (i : Instr) (p v : Nat) (cp pp : Nat) : Prop := Next (exec i s) (fun t => SameMemory s t ∧ t.cores = s.cores
      ∧ SameControl s t ∧ t.ctx.regs = c.regs ∧ hCP (t.ctx.handle k) = cp ∧ hPP (t.ctx.handle k) = pp
      ∧ (∀ j, j < m → hState (t.ctx.handle k) j =
          if ∃ e, e < n.toNat ∧ (p + e) % m = j then v else hState x j)
      ∧ ∀ j, j ≠ k → t.ctx.handle j = c.handle j)
    (c.handleOk k = true → 1 ≤ n.toNat → n.toNat ≤ m → Quiet s →
      (all (hCP x) (· = 2) → exec (.cbwait h n) s = .next s)
        ∧ (¬ all (hCP x) (· = 2) → waits (.cbwait h n)) ∧ (¬ all (hPP x) (· = 0) → waits (.cbfree h n))
        ∧ (all (hPP x) (· = 0) → exec (.cbfree h n) s = .next s)
        ∧ (all (hCP x) (· = 2) → moved (.cbadvc h n) (hCP x) 0 ((hCP x + n.toNat) % m) (hPP x))
        ∧ (all (hPP x) (· ≤ 1) → s.slotsPinned s.cur h n = false →
            moved (.cbadvp h n) (hPP x) 2 (hCP x) ((hPP x + n.toNat) % m))
        ∧ (¬ all (hCP x) (· = 2) → OwnHandler s →
            Next (exec (.cbadvc h n) s) (fun t => Entered s t 0x14 0 (BitVec.ofNat 64 k) s.issue.pc s.issue.slot))
        ∧ (¬ all (hPP x) (· ≤ 1) ∨ s.slotsPinned s.cur h n = true → OwnHandler s →
            Next (exec (.cbadvp h n) s) (fun t => Entered s t 0x14 0 (BitVec.ofNat 64 k) s.issue.pc s.issue.slot)))
      ∧ (c.handleOk k = false → (h ≠ 31 ∨ c.probeSlots = 0) → 1 ≤ n.toNat → n.toNat ≤ m → OwnHandler s →
          ∀ i ∈ [Instr.cbwait h n, .cbfree h n, .cbadvc h n, .cbadvp h n],
            Next (exec i s) (fun t => Entered s t 0x14 0 (BitVec.ofNat 64 k) s.issue.pc s.issue.slot))
      ∧ ((h ≠ 31 ∨ c.probeSlots = 0) → (n = 0 ∨ m < n.toNat) → OwnHandler s →
          ∀ i ∈ [Instr.cbwait h n, .cbfree h n, .cbadvc h n, .cbadvp h n],
            Next (exec i s) (fun t => Entered s t 0x03 0 s.issue.tvalWord s.issue.pc s.issue.slot))
      ∧ ((h ≠ 31 ∨ c.probeSlots = 0) → ScalarResult s (exec (.cbstat h d) s) 1 d (x.extractLsb' 64 64))
      ∧ (∀ j, j < c.probeSlots → c.probeWin j = s.rS r → gState (c.tagAt j) = 2 → exec (.cbwaitProbe r) s = .next s)

/-- 04 R91, 10 R254: a `qfence` closes the region and leaves a join of the queues that it names behind every operation
that stands before it; one that names no queue leaves none. Registers and memory stay. -/
def Sys2Proof.Parts.QueueFence : Prop :=
  ∀ (s : State) (qs qm qx : Bool) (ch : BitVec 16), s.ctx.stores = [] →
    Next (exec (.qfence qs qm qx ch) s) (fun t => SameMemory s t ∧ SameControl s t ∧ t.ctx.regs = s.ctx.regs
      ∧ t.ctx.resume.marked = true ∧ t.ctx.shadow.pc = s.issue.pc
      ∧ (if qs = false ∧ qm = false ∧ qx = false ∧ ch = 0 then t.ctx.joins = s.ctx.joins
         else ∃ j, t.ctx.joins = s.ctx.joins ++ [j] ∧ j.seq = s.ctx.seq ∧ j.s = qs ∧ j.m = qm ∧ j.x = qx ∧ j.chans = ch))

/-- 10 R249 to R254: handles and the queue fence. -/
def Obligations.EngineInstructions : Prop := Sys2Proof.Parts.HandleInstructions ∧ Sys2Proof.Parts.QueueFence

/-- 10 R255, R256, R258, 04 R99: a `bar` that every member of the gang has reached passes, counts, and acquires at
cluster scope, and accesses after it wait for what the other members ordered before theirs; one whose gang has not waits
without an effect on registers. A `wpwait` passes once WP has reached S[s]. A `cred` that passes its checks joins the X
queue with what it captured, as its context's next collective on the group; it claims its slot when it starts.
Where the spec leaves the point open this is the model's choice: log 57. -/
def Obligations.BarriersAndCollectives : Prop :=
  ∀ (s : State) (ch : BitVec 4) (a : SReg) (h : BitVec 5) (g : BitVec 8) (op : BitVec 4),
    let c := s.ctx; let x := c.handle h.toNat
    (c.gangSize ≠ 0 → s.barReached s.cur = true → Next (exec .bar s) (fun t => SameMemory s t ∧ t.ctx.regs = c.regs
        ∧ t.ctx.bars = c.bars + 1 ∧ t.ctx.barHere = false ∧ t.ctx.barHold = true ∧ t.ctx.barSeq = c.seq
        ∧ (t.coreAt (coreOf s.cur)).l1 = [] ∧ t.issue = s.issue))
      ∧ (c.gangSize ≠ 0 → s.barReached s.cur = false → Next (exec .bar s) (fun t => SameMemory s t ∧ t.ctx.regs = c.regs
        ∧ t.ctx.barHere = true ∧ t.ctx.bars = c.bars ∧ t.issue.stop = .held))
      ∧ ((s.rS a).toNat ≤ (c.wp ch.toNat).toNat → exec (.wpwait ch a) s = .next s)
      ∧ ((c.wp ch.toNat).toNat < (s.rS a).toNat → Next (exec (.wpwait ch a) s) (fun t => SameMemory s t
        ∧ t.ctx.regs = c.regs ∧ t.issue.stop = .held))
      ∧ (c.credWaits h = false → op.toNat < 5 → s.credCheck h (s.rS a) g = none → Quiet s →
          Next (exec (.cred h a g op) s) (fun t => SameMemory s t ∧ SameControl s t ∧ t.ctx.regs = c.regs
            ∧ t.cores = s.cores ∧ t.ctx.handles = c.handles ∧ tget 0 t.ctx.credN g.toNat = tget 0 c.credN g.toNat + 1
            ∧ ∃ o, t.ctx.xq = c.xq ++ [o] ∧ o.op = op ∧ o.h = h.toNat ∧ o.group = g.toNat ∧ o.k = tget 0 c.credN g.toNat
                ∧ o.addr = (s.rS a).toNat % 2 ^ 20 ∧ o.size = hSize x ∧ o.seq = c.seq ∧ o.read = none))

/-! ### Bundles and the front end (06 R116 to R121; 07 R150 to R155; 01 R16 to R26; 15; 19 R326) -/

/-- 01 R19, 06 R116, R117: a step at which context `c` issues runs the bundle at its pc; when that bundle has one slot
whose word decodes to `i`, with nothing that keeps it from issuing, the step is `exec i` at that slot, then what follows
the last slot: the bundle's number and marks, the pc, the loops. A slot that traps or waits ends the bundle there; one
that holds the issue stage has issued, and goes on at that slot. The step of every other agent's event is `exec` of it.
Where the spec leaves the point open this is the model's choice: log 5 and 38. -/
def Obligations.StepRunsTheDecodedInstruction : Prop :=
  (∀ (s : State) (c : Nat) (q : List Nat) (b : Bundle) (k : Nat) (w : SlotWord) (i : Instr) (after : Nat) (t : State),
    let u : State := { s with cur := c, issueQ := q }
    let ops : List SlotOp := [{ slot := k, word := w, op := i }]
    let v := notedState u b ops after t
    s.agenda = [] → s.issueQ = c :: q → Issues u b k w i after →
    exec i (slotState u b after k w i) = .next t → t.noRoom = false →
    (t.issue.stop = .go → step s = .next (ended u b ops after t))
      ∧ (t.issue.stop = .trapped → step s = .next ((v.modCtx (fun d => { d with
          walked := [], inIssue := none, numbered := if t.issue.rett && u.ctx.te then false else d.numbered })).stepDone t.issue.rett))
      ∧ (t.issue.stop = .held → t.issue.slot = k →
          ∃ f, (startState u b ops after).ctx.inIssue = some f
            ∧ step s = .next (if t.ctx.posted then v.modCtx (·.keepIssue f k) else t.modCtx (fun d => { d with inIssue := none }))))
    ∧ (∀ (s : State) (i : Instr) (a : List Turn), s.agenda = .event i :: a → issued i = false →
        step s = exec i { s with agenda := a })
    ∧ (∀ (sl : Slot) (w : SlotWord) (i : Instr) (s : State), decodeSlot sl w = .ok i → execSlot i s = exec i s)

/-- 06 R116 to R122, 01 R19: a bundle of KIND 0b00, and one of KIND 0b01 from the decode dictionary, that passes its checks and
meets its conditions executes its slots left to right and ends, with a restart mark after the region is closed, a yield bundle
after the arbiter's choice; where they are arithmetic, and where it has none, it always does. An end-of-kernel marker, and KIND 0b10, raise illegal-bundle (0x01) with the header in TVAL. -/
def Sys2Proof.Parts.BundleKinds : Prop :=
  (∀ (s : State) (b : Bundle) (ops : List SlotOp) (after : Nat), Attempts s b ops after →
    let ends (t : State) : Prop := (b.db = false → exec .wideBundle s = .next (ended s b ops after t))
      ∧ (b.db = true → exec .dictionaryBundle s = .next (ended s b ops after t))
    (∀ t, SlotsRun ops (startState s b ops after) t → t.noRoom = false → ends t)
      ∧ ((∀ o ∈ ops, steady o.op = true) → (startState s b ops after).noRoom = false →
          ∃ t, SlotsRun ops (startState s b ops after) t ∧ ends t))
    ∧ (∀ (s : State) (h : SlotWord), s.mayAttempt s.cur = true → s.ctx.inIssue = none →
        (∀ n, n < 8 → getB (vget 0 s.ctx.bps n) 63 = false) →
        s.codeWord s.cur s.ctx.pc.toNat = .ok h → OwnHandler s → s.noRoom = false → s.ctx.step = false →
        (hKind h = 3 → Next (exec .endOfKernelMarker s) (fun t => Entered s t 0x01 0 (h.setWidth 64) s.ctx.pc 0))
          ∧ (hKind h = 2 → Next (exec .wideBundle s) (fun t => Entered s t 0x01 0 (h.setWidth 64) s.ctx.pc 0)))

/-- 06 R120 step 4, R121: a bundle whose one word is refused raises the code of the refusal in class A at the bundle,
with SLOTRES 0 and the entry, slot and word in TVAL. -/
def Sys2Proof.Parts.RefusedWordsTrap : Prop :=
  ∀ (s : State) (b : Bundle) (k : Nat) (w : SlotWord) (e : DecodeError),
    s.mayAttempt s.cur = true → s.ctx.inIssue = none → s.ctx.slot = 0 → (∀ n, n < 8 → getB (vget 0 s.ctx.bps n) 63 = false) →
    s.fetchBundle s.cur s.ctx.pc.toNat = .ok b → b.words = [(k, w)] → k < 8 →
    decodeSlot (Slot.ofIndex k) w = .error e → OwnHandler s → s.noRoom = false → s.ctx.step = false →
    let is (i : Instr) : Prop := Next (exec i s) (fun t => Entered s t e.code 0
      (BitVec.ofNat 64 (b.entry % 1024 * 2 ^ 36 + (if b.db then 2 ^ 35 else 0) + k * 2 ^ 32 + w.toNat)) s.ctx.pc 0)
    (b.db = false → is .wideBundle) ∧ (b.db = true → is .dictionaryBundle)

/-- 07 R150, R154, R155, R158: after the last slot of a bundle: the pc goes on, or after the second delay bundle of a
taken transfer to its target, or past a loop of count 0; at the end of a level that has a count left and no break the
level's count and index step and its body starts again, else the level is popped; `exit` leaves the pc at its bundle and
the context drains. Registers stay. -/
def Sys2Proof.Parts.BundleEnds : Prop :=
  ∀ (s : State) (te : Bool),
    let c := s.ctx; let e := s.issue.pc; let t := s.finishBundle te
    let base : Word := match s.issue.transfer, c.delay with
      | true, _ => s.issue.next
      | false, some d => if d.left ≤ 1 ∧ d.taken = true then d.target else s.issue.next
      | false, none => match c.resume.skip with | some a => a | none => s.issue.next
    c.boundary e = false →
    t.ctx.regs = c.regs ∧ SameMemory s t ∧ t.ctx.slot = 0 ∧ t.ctx.resume = .none
      ∧ (c.resume.exiting = true → t.ctx.status = .exiting ∧ t.ctx.pc = e ∧ t.ctx.loops = c.loops)
      ∧ (c.resume.exiting = false → t.ctx.status = c.status
        ∧ ((∀ l rest, c.loops = l :: rest → l.stop ≠ e) → t.ctx.pc = base ∧ t.ctx.loops = c.loops)
        ∧ (∀ l rest, c.loops = l :: rest → l.stop = e → l.count ≠ 1 → l.brk = false →
            t.ctx.pc = l.start ∧ t.ctx.loops = { l with count := l.count - 1, index := l.index + 1 } :: rest)
        ∧ (∀ l rest, c.loops = l :: rest → l.stop = e → (l.count = 1 ∨ l.brk = true) →
            (∀ m rest', rest = m :: rest' → m.stop ≠ e) → t.ctx.pc = base ∧ t.ctx.loops = rest)
        ∧ (∀ d, s.issue.transfer = false → c.delay = some d →
            t.ctx.delay = if d.left ≤ 1 then none else some { d with left := d.left - 1 })
        ∧ (s.issue.transfer = true → t.ctx.delay = c.delay))

/-- 06 R116 to R121, 07 R150 to R158: what a bundle is and where the pc goes after it.
Where the spec leaves the point open this is the model's choice: log 5, 38 and 52. -/
def Obligations.Bundles : Prop := Sys2Proof.Parts.BundleKinds ∧ Sys2Proof.Parts.RefusedWordsTrap ∧ Sys2Proof.Parts.BundleEnds

/-- 15 R281, R282, 19 R328, R326, 01 R20 to R22: lines of code that the next bundle or a prefetch needs join the
instruction buffer with the bytes that memory holds, unless a slot or a full port holds their read, and a prefetch that fails is counted
once; a stall ends when its value has arrived, and its cycles count in LATCNT; a walk answers the access that asked for
it, or under host walking posts its request. -/
def Sys2Proof.Parts.FetchesStallsAndWalks : Prop :=
  (∀ (s : State) (i va : Nat) (e : Extent), (s.ctxAt i).status = .running → s.lookExtent i (va / 4096) codeKey = .hit e →
    (s.demandLine i = some va ∨ (s.demandLine i = none ∧ s.aheadOf i = .line va)) →
    let l := e.pa va / 64
    let held := (s.inL2 (64 * l) = false ∧ (s.heldBy (64 * l) s.ptime).isSome = true) ∨ s.portFull l 0 = true
    (held → exec (.instructionFetch i) s = .next s)
      ∧ (¬ held → Next (exec (.instructionFetch i) s) (fun t => t.mem = s.mem ∧ t.parts = s.parts ∧ t.pkg = s.pkg
          ∧ t.cores = s.cores ∧ SameProgram s t i ∧ SameProgram s t (partner i)
          ∧ (∀ j, j ≠ i → j ≠ partner i → t.ctxAt j = s.ctxAt j)
          ∧ ∃ x rest, (t.ctxAt i).ibuf = x :: rest ∧ x.vline = va / 64 ∧ x.pline = l ∧ x.data = memLine s.mem l ∧ x.user = e.u
              ∧ ∀ y ∈ rest, y ∈ (s.ctxAt i).ibuf ∧ y.vline ≠ va / 64)))
    ∧ (∀ (s : State) (i va : Nat), (s.ctxAt i).status = .running → s.demandLine i = none → s.aheadOf i = .drop va →
        let c := s.ctxAt i
        Next (exec (.instructionFetch i) s) (fun t => OnlyCtx s t i
          ∧ t.ctxAt i = if c.dropAt = some va then c else { c with specdrop := c.specdrop + 1, dropAt := some va }))
    ∧ (∀ (s : State) (i : Nat) (x : Stall), (s.ctxAt i).stall = some x → s.noRoom = false →
        (s.ptime < x.earliest → exec (.memoryAccessComplete i) s = .next s)
          ∧ (x.earliest ≤ s.ptime → x.overrun = [] → Next (exec (.memoryAccessComplete i) s) (fun t =>
            SameMemory s t ∧ OtherCtxs s t i ∧ t.cores = s.cores ∧ t.parts = s.parts ∧ t.pkg = s.pkg ∧ SameProgram s t i
              ∧ (t.ctxAt i).stall = none
              ∧ ((s.ctxAt i).walkReq = none → (s.ctxAt i).hold = none → (t.ctxAt i).latcnt
                  = (s.ctxAt i).latcnt + BitVec.ofNat 64 (s.ptime - Nat.max (x.since + x.free) (s.ctxAt i).lat0))
              ∧ ∀ r n, x.regs = [(r, n)] → (t.ctxAt i).readyAt r = s.ptime + n)))
    ∧ (∀ (s : State) (i : Nat) (w : WalkReq), (s.ctxAt i).walkReq = some w → s.noRoom = false →
        let u := s.modCtxAt i (fun c => { c with engAns := [] })
        (∀ key rw, getB s.pkg.duty 0 = false → (u.walkEnd i w.va w.since).1 ≤ s.ptime →
            (w.kind = .fetch ∨ (u.walkEnd i w.va w.since).2 = []) →
            (s.ctxAt i).walkKey w = some (key, rw) → Next (exec (.walk i) s) (fun t =>
          OtherCtxs s t i ∧ SameProgram s t i ∧ t.cores = s.cores ∧ t.parts = s.parts ∧ t.pkg = s.pkg
            ∧ (t.ctxAt i).walkReq = none ∧ ∃ a, (t.ctxAt i).walked = a :: (s.ctxAt i).walked ∧ a.page = w.va / 4096
              ∧ a.no = key.no ∧ a.parm = key.parm ∧ a.code = key.code
              ∧ (∀ x v, u.formExtent i w.va key rw = (.ok x, v) → a.cause = 0 ∧ a.ext = x ∧ t.mem = v.mem)
              ∧ (∀ c l v, u.formExtent i w.va key rw = (.error (c, l), v) → a.cause = c ∧ a.level = l ∧ SameMemory s t)))
          ∧ (getB s.pkg.duty 0 = true → w.posted = false → s.fqOpen (s.ctxAt i).part = true → Canonical s →
            Next (exec (.walk i) s) (fun t => SameProgram s t i ∧ OtherCtxs s t i
              ∧ (t.ctxAt i).walkReq = some { w with posted := true }
              ∧ Posted s t (s.ctxAt i).part 0x0C 3 10 0 (BitVec.ofNat 64 (w.va % 2 ^ 57))
                  (match w.kind with | .read => 0 | .write => 1 | .readWrite => 2 | .fetch => 3))))

/-- 01 R16, R18, R22, R26, 18 R303: of two contexts that are ready the slot's owner issues, and the other in the same cycle
where their bundles share no slot; a pause ends at its time; the watchdog posts one record when the yield count, which
leaves out the cycles of LATCNT, passes 64 times the stated run by 65,536; a slot table that the host writes is refused
when it holds a code 3 or the device is not in service, and is in force from the next multiple of 64 of PTIME on. -/
def Sys2Proof.Parts.IssueControls : Prop :=
  (∀ (s : State) (core own m n : Nat), own < 2 → (s.coreAt core).slotEntry s.ptime (s.ptime % 64) = own →
    let o := 2 * core + own; let p := 2 * core + (1 - own)
    (s.ask o = .ready m → s.paused o = false → s.ask p = .ready n →
        s.pick core = if s.paused p = false ∧ m &&& n = 0 then [o, p] else [o])
      ∧ (s.ask o = .ready m → s.paused o = true → s.ask p = .ready n → s.pick core = [p])
      ∧ (s.ask o = .ready m → (s.ask p).mask = none → s.pick core = [o])
      ∧ ((s.ask o).mask = none → s.ask p = .ready n → s.pick core = [p]))
    ∧ (∀ (s : State) (i : Nat), (s.ctxAt i).pauseEnd ≠ 0 → (s.ctxAt i).pauseEnd ≤ s.ptime →
    Next (exec (.pauseEnd i) s) (fun t => OnlyCtx s t i ∧ t.ctxAt i = { s.ctxAt i with pauseEnd := 0 }))
    ∧ (∀ (s : State) (i : Nat), let c := s.ctxAt i
        let count := s.ptime - c.yieldT - ((c.countLat s.ptime).latcnt - c.yieldLat).toNat
        c.block.isSome = true → (c.status = .running ∨ c.status = .exiting) → c.watchdog = false → c.run ≠ 0 →
        s.fqOpen c.part = true → Canonical s → s.noRoom = false →
        (64 * c.run + 65536 < count → Next (exec (.watchdog i) s) (fun t => Posted s t c.part 0x20 3 7 0 0 0
            ∧ OtherCtxs s t i ∧ t.ctxAt i = { c with watchdog := true }))
          ∧ (count ≤ 64 * c.run + 65536 → exec (.watchdog i) s = .next s))
    ∧ (∀ (s : State) (part i c : Nat) (hi : Bool) (v : Word), (s.partAt part).coreNo i = some c →
        ((∃ e, e < 32 ∧ getF v (2 * e) 2 = 3) ∨ s.serves part = false → exec (.slotTableWrite part i hi v) s = .next s)
          ∧ ((∀ e, e < 32 → getF v (2 * e) 2 ≠ 3) → s.serves part = true → Next (exec (.slotTableWrite part i hi v) s) (fun t => OnlyCore s t c
            ∧ (∀ e, (t.coreAt c).slotEntry s.ptime e = (s.coreAt c).slotEntry s.ptime e)
            ∧ ∀ now e, (s.ptime / 64 + 1) * 64 ≤ now → e < 32 →
                (t.coreAt c).slotEntry now (if hi then 32 + e else e) = getF v (2 * e) 2)))
    ∧ (∀ (s : State) (core : Nat), Next (exec (.slotTableInstall core) s) (fun t => OnlyCore s t core
        ∧ ∀ now e, s.ptime ≤ now → (t.coreAt core).slotEntry now e = (s.coreAt core).slotEntry now e))

/-- 01 R16 to R26, 15 R281, 19 R328: fetches, stalls, walks, pauses, the watchdog and the slot tables.
Where the spec leaves the point open this is the model's choice: log 5 and 8. -/
def Obligations.FetchesStallsAndIssue : Prop := Sys2Proof.Parts.FetchesStallsAndWalks ∧ Sys2Proof.Parts.IssueControls

/-! ### Homes, ports and copies (02 R47 to R56; 04 R83, R97; 10 R244 to R252) -/

/-- 04 R83, R97, 02 R45, R49, R56, 16 R286, 21 R352, R356: a ready store of a context that waits for nothing at its home
writes its masked bytes, unless the line carries a later writer's tag without a seal; one to a CXL page is forwarded and
waits for its acknowledgement; one that a slot, a port or an earlier request holds waits with its place. A store of the
host, and one of a management core while a slot of its lines is open, writes its bytes whatever the tag and seals the
line; otherwise it waits, and one to an address that is not backed stops the
machine, a fault of the model's own (NOTES, Stops). -/
def Sys2Proof.Parts.StoresAtHome : Prop :=
  ∀ (s : State) (i k : Nat) (w : Store) (l : Nat) (h : Bool) (pa : Nat) (bs : List Byte),
    Canonical s → s.noRoom = false →
    (s.storeNo i k = some w → (s.ctxAt i).storeReady w = true → w.kind = .line l h →
      let run := exec (.homeSliceStore (.context i k)) s
      (s.storeWaits w = true → Next run (fun t => SameMemory s t ∧ SameProgram s t i ∧ OtherCtxs s t i
          ∧ ∃ x ∈ (t.ctxAt i).stores, x.seq = w.seq ∧ x.kind = w.kind ∧ x.arr ≠ 0))
        ∧ (s.storeWaits w = false → s.writeOver (dieOf i) (64 * l) s.ptime = [] →
          (cxlPort (64 * l) = none → (isHbm (64 * l) = false ∨ s.tagAllows l (s.ctxAt i).wid = true) →
            Next run (fun t => LineWritten s t l w.data w.mask ∧ SameProgram s t i ∧ OtherCtxs s t i
              ∧ ∀ x ∈ (t.ctxAt i).stores, x ∈ (s.ctxAt i).stores ∧ ¬ (x.seq = w.seq ∧ x.kind = w.kind)))
          ∧ (cxlPort (64 * l) = none → isHbm (64 * l) = true → s.tagAllows l (s.ctxAt i).wid = false →
            Next run (fun t => SameProgram s t i ∧ OtherCtxs s t i
              ∧ ∀ a, Untimed s s.mem (64 * l) a → memByte t.mem a = memByte s.mem a))
          ∧ (∀ p, cxlPort (64 * l) = some p → Next run (fun t => LineWritten s t l w.data w.mask ∧ SameProgram s t i
              ∧ { w with fwd := true } ∈ (t.ctxAt i).stores))))
      ∧ (s.powered = true → s.rangeBacked pa bs.length = false →
          exec (.homeSliceStore (.host pa bs)) s = .fault (.unbackedAddress pa)
            ∧ exec (.homeSliceStore (.management pa bs)) s = .fault (.unbackedAddress pa))
      ∧ (s.powered = true → s.rangeBacked pa bs.length = true →
          let mayHost := ∀ l ∈ linesOf pa bs.length, s.lineBusy l (s.lateNo (.store (.host pa bs))) = false
          let mayCore := ∀ l ∈ linesOf pa bs.length, s.slotOpen (64 * l) = true ∧ s.installed l ≤ s.ptime
          let writes (o : StoreOrigin) : Prop := Next (exec (.homeSliceStore o) s) (fun t =>
            (∀ a, memByte t.mem a = if pa ≤ a ∧ a < pa + bs.length then bs.getD (a - pa) 0 else memByte s.mem a)
              ∧ t.ctxs = s.ctxs ∧ t.cores = s.cores ∧ t.parts = s.parts ∧ ∀ e ∈ t.late, e.2 ≠ .store o)
          let waits (o : StoreOrigin) : Prop := Next (exec (.homeSliceStore o) s) (fun t => t.mem = s.mem ∧ t.ctxs = s.ctxs
            ∧ t.tags = s.tags ∧ (s.lateNo (.store o), Outside.store o) ∈ t.late)
          (¬ mayHost → waits (.host pa bs)) ∧ (¬ mayCore → waits (.management pa bs))
            ∧ ((∀ d, d < 5 → (vget 0 s.pkg.wtroot d).toNat < 4096) → (mayHost → writes (.host pa bs))
              ∧ (mayCore → writes (.management pa bs)))
            ∧ (mayHost → bs ≠ [] → pa % 64 + bs.length ≤ 64 → Next (exec (.homeSliceStore (.host pa bs)) s) (fun t =>
              LineWritten s t (pa / 64) (bytesLine (pa % 64) bs) (byteMask (pa % 64) bs.length)
                ∧ (isHbm pa = true → (∀ x ∈ (t.dieAt (homeDie pa)).l2, x.pline ≠ pa / 64) ∧ t.lineTag (pa / 64) = 0x1FFF))))

/-- 02 R47, R49, R55, R56, 16 R286: a read of HBM at its home joins an open window or opens one of 32 cycles; when the
read completes the line stands in the home's slice; a CXL port starts a request that waits while fewer than 512 are
outstanding and nothing else holds it, and its expander's acknowledgement performs the store, with its write time. -/
def Sys2Proof.Parts.HomesAndPorts : Prop :=
  (∀ (s : State) (l : Nat), let d := s.dieAt (homeDie (64 * l))
      (isHbm (64 * l) = true → s.inL2 (64 * l) = false → d.openWindow l s.ptime = none →
        Next (exec (.homeSliceRead l) s) (fun t => OnlyDie s t (homeDie (64 * l))
          ∧ (t.dieAt (homeDie (64 * l))).windows = { pline := l, opened := s.ptime, readers := 1, shut := false } :: d.windows))
      ∧ (∀ w, isHbm (64 * l) = true → s.inL2 (64 * l) = false → d.openWindow l s.ptime = some w →
        Next (exec (.homeSliceRead l) s) (fun t => OnlyDie s t (homeDie (64 * l)) ∧ s.ptime < w.opened + 32
          ∧ { w with readers := w.readers + 1 } ∈ (t.dieAt (homeDie (64 * l))).windows))
      ∧ ((isHbm (64 * l) = false ∨ s.inL2 (64 * l) = true) → exec (.homeSliceRead l) s = .next s)
      ∧ (let due (w : Window) : Prop := w.pline = l ∧ s.installAt w ≤ s.ptime
        (isHbm (64 * l) = true → (∃ w ∈ d.windows, due w) →
          Next (exec (.hbmLineInstall l) s) (fun t => OnlyDie s { t with free := s.free } (homeDie (64 * l))
            ∧ t.inL2 (64 * l) = true ∧ ∀ w, w ∈ (t.dieAt (homeDie (64 * l))).windows ↔ w ∈ d.windows ∧ ¬ due w))
        ∧ ((∀ w ∈ d.windows, ¬ due w) → exec (.hbmLineInstall l) s = .next s))
      ∧ Next (exec (.mergingWindowEnd l) s) (fun t => OnlyDie s t (homeDie (64 * l))
          ∧ ∀ x ∈ (t.dieAt (homeDie (64 * l))).windows, x.pline = l → x.opened + 32 ≤ s.ptime → x.shut = true))
    ∧ (∀ (s : State) (p : Nat), Canonical s → Tables s → s.noRoom = false →
      (s.storesWhere (s.startsAt p) ≠ [] →
          (∀ i w l h, (i, w) ∈ s.storesWhere (s.startsAt p) → w.kind = .line l h → s.writeOver (dieOf i) (64 * l) s.ptime = []) →
          Next (exec (.cxlPortRequest p) s) (fun t =>
          ∃ i w l h, (i, w) ∈ s.storesWhere (s.startsAt p) ∧ w.kind = .line l h ∧ LineWritten s t l w.data w.mask
            ∧ { w with fwd := true } ∈ (t.ctxAt i).stores ∧ SameProgram s t i))
        ∧ (512 ≤ s.outstanding p → exec (.cxlPortRequest p) s = .next s)
        ∧ (let acked := s.storesWhere (fun _ w => w.fwd && w.port == some p && !s.ackHeld w)
          acked ≠ [] → (∀ i w l h, (i, w) ∈ acked → w.kind = .line l h → s.timeOver (dieOf i) (64 * l) s.ptime = []) →
          Next (exec (.expanderAcknowledge p) s) (fun t => ∃ i w l h,
            (i, w) ∈ acked ∧ w.kind = .line l h ∧ Timed s s.mem (64 * l) t.mem
              ∧ SameProgram s t i ∧ OtherCtxs s t i
              ∧ ∀ x ∈ (t.ctxAt i).stores, ¬ (x.seq = w.seq ∧ x.kind = w.kind))))

/-- 04 R83, R97, 02 R49 to R56: stores and reads at their homes.
Where the spec leaves the point open this is the model's choice: log 1, 5, 9, 42 and 50. -/
def Obligations.Homes : Prop := Sys2Proof.Parts.StoresAtHome ∧ Sys2Proof.Parts.HomesAndPorts

/-- 10 R244, R245, R251: a copy at the head of its channel claims its slots and begins, is refused with a record of
engine-setup (0x1A), or finds a slot in the wrong state and is dropped with a record; its not-before time starts it. -/
def Sys2Proof.Parts.CopiesBegin : Prop :=
  ∀ (s : State) (i n : Nat) (o : Copy), let c := s.ctxAt i; let d := o.tmpl
    c.copyAtHead n = some o → s.noRoom = false →
    let src := ∀ k, o.srcSlot = some k → hState (c.handle (tSh d)) k = 2
    let dst := ∀ k, o.dstSlot = some k → hState (c.handle (tDh d)) k = 0
    (o.begun = false → c.copyRefused o = false → src → dst → (o.srcSlot.isSome = true → o.dstSlot.isSome = true → tSh d ≠ tDh d) →
        (∀ k, o.srcSlot = some k → k < 16) → (∀ k, o.dstSlot = some k → k < 16) →
        Next (exec (.copyHead i n) s) (fun t => OnlyCtx s t i ∧ SameProgram s t i
          ∧ (∀ k, o.srcSlot = some k → hState ((t.ctxAt i).handle (tSh d)) k = 3)
          ∧ (∀ k, o.dstSlot = some k → hState ((t.ctxAt i).handle (tDh d)) k = 1)
          ∧ ∃ x rest, c.chan n = o :: rest ∧ (t.ctxAt i).chan n = x :: rest ∧ x.begun = true ∧ x.wp0 = c.wp n
              ∧ x.nbDone = (tNB d == 0) ∧ x.start = o.start ∧ x.tmpl = d ∧ x.seq = o.seq
              ∧ x.recv.map (fun r => r.member) = (List.range 48).filter (fun m => (tMC d).getLsbD m)))
      ∧ (o.begun = false → c.copyRefused o = true → s.fqOpen c.part = true → Canonical s → c.stores = [] →
        Next (exec (.copyHead i n) s) (fun t => Posted s t c.part 0x1A 3 1 0 0 0 ∧ SameProgram s t i
          ∧ (t.ctxAt i).chan n = (c.chan n).drop 1 ∧ (t.ctxAt i).handles = c.handles))
      ∧ (o.begun = false → c.copyRefused o = false → s.fqOpen c.part = true → Canonical s → c.stores = [] →
        (¬ src → dst → Next (exec (.copyHead i n) s) (fun t => Posted s t c.part 0x14 3 1 0 (BitVec.ofNat 64 (tSh d)) 0
            ∧ SameProgram s t i ∧ (t.ctxAt i).chan n = (c.chan n).drop 1 ∧ (t.ctxAt i).handles = c.handles))
          ∧ (src → ¬ dst → Next (exec (.copyHead i n) s) (fun t => Posted s t c.part 0x13 3 1 0 0 0
            ∧ SameProgram s t i ∧ (t.ctxAt i).chan n = (c.chan n).drop 1 ∧ (t.ctxAt i).handles = c.handles)))
      ∧ (o.begun = true → o.nbDone = false → tNB d ≤ s.ptime → Next (exec (.copyNotBefore i n) s) (fun t =>
          OnlyCtx s t i ∧ SameProgram s t i
            ∧ (t.ctxAt i).chan n = { o with nbDone := true, began := s.ptime, last := s.ptime } :: (c.chan n).drop 1))
      ∧ (o.begun = true → s.ptime < tNB d → exec (.copyNotBefore i n) s = .next s)

/-- 10 R245, R246, R251, 04 R97, R90: the next line of a copy lands, once its source elements have arrived: converted, at
their places of the destination line, combined with the old elements where the copy reduces; WP moves by 64; with the last
line the copy is performed and its slots are full and free. A line whose destination faults holds the copy with a
record. -/
def Sys2Proof.Parts.CopyLinesLand : Prop :=
  ∀ (s u : State) (i n : Nat) (o : Copy) (l : Word) (xs : List Nat) (e : Extent) (pa core off : Nat),
    let c := s.ctxAt i; let d := o.tmpl; let dst := c.copyDst o
    let j := (c.wp n - o.wp0).toNat / 64
    let last : Prop := (dstLines d dst).length ≤ j + 1
    let land (t : State) : Prop := SameProgram s t i ∧ OtherCtxs s t i ∧ (t.ctxAt i).wp n = c.wp n + 64
      ∧ (¬ last → (t.ctxAt i).chan n = { o with last := s.ptime, lastN := j } :: (c.chan n).drop 1
          ∧ (t.ctxAt i).handles = c.handles)
      ∧ (last → (t.ctxAt i).chan n = (c.chan n).drop 1
          ∧ (∀ k, k < 16 → o.dstSlot = some k → hState ((t.ctxAt i).handle (tDh d)) k = 2)
          ∧ (∀ k, k < 16 → (o.dstSlot = none ∨ tSh d ≠ tDh d) → o.srcSlot = some k → hState ((t.ctxAt i).handle (tSh d)) k = 0)
          ∧ ∀ k, o.probe = some k → gState ((t.ctxAt i).tagAt k) = 2)
    let kind : AccKind := if tRed d = 0 then .write else .readWrite
    c.copyAtHead n = some o → s.mayLand i j o = true → tMC d = 0 → c.stores = [] → s.noRoom = false → Canonical s →
    nth (dstLines d dst) j = some l → CopySources s i o (c.copySrc o) dst l xs → CopyArrived s i n o j (c.copySrc o) dst l u →
    (EngineWindow s i l 64 core off → off % 64 = 0 → (s.coreAt core).badLine (off / 64) (BitVec.allOnes 64) = false →
        Next (exec (.copyLineLanding i n) s) (fun t => land t ∧ SameMemory s t
          ∧ BankLine s t i core off (copyLineOf o dst l (if tRed d = 0 then 0 else memLine (s.coreAt core).scratch (off / 64)) xs)))
      ∧ (EngineAllowed s i o.user (tRaw d) l 64 kind e pa → pa % 64 = 0 → u.landsLater i (16 + n) (pa / 64) = false →
          u.writeOver (dieOf i) pa s.ptime = [] → (tRed d = 0 ∨ (pa / 64) ∉ s.pkg.poisoned) →
          (tRed d ≠ 0 ∨ isHbm pa = false ∨ s.tagAllows (pa / 64) c.wid = true) →
          Next (exec (.copyLineLanding i n) s) (fun t => land t
            ∧ LineWritten s t (pa / 64) (copyLineOf o dst l (if tRed d = 0 then 0 else memLine s.mem (pa / 64)) xs)
                (BitVec.allOnes 64)))
      ∧ (EngineAllowed s i o.user (tRaw d) l 64 kind e pa → u.landsLater i (16 + n) (pa / 64) = true →
          Next (exec (.copyLineLanding i n) s) (fun t => SameMemory s t ∧ SameProgram s t i ∧ (t.ctxAt i).wps = c.wps
            ∧ (t.ctxAt i).chan n = c.chan n))
      ∧ (s.fqOpen c.part = true → (∀ va, regionOf l ≠ .virt va) → (∀ m byte, regionOf l ≠ .window m byte) →
          Next (exec (.copyLineLanding i n) s) (fun t => SameProgram s t i ∧ (t.ctxAt i).wps = c.wps
            ∧ (t.ctxAt i).chan n = { o with held := true } :: (c.chan n).drop 1
            ∧ Posted s t c.part 0x0B 3 1 4 (BitVec.ofNat 64 (7 * 2 ^ 57 + l.toNat % 2 ^ 57)) 0))

/-- 10 R252: a line of a multicast copy lands in the slot that its receiver's handle gives; a receiver whose slot is not
free takes no line, and the sender and the receiver each have a record of slot-overrun (0x13); for a receiver that has
gone before its first line the sender has one. -/
def Sys2Proof.Parts.MulticastLands : Prop :=
  ∀ (s u : State) (i n m : Nat) (o : Copy) (r : Receiver) (p : Word) (xs : List Nat) (x : Line) (core off : Nat),
    let c := s.ctxAt i; let d := o.tmpl
    c.copyAtHead n = some o → o.recv.find? (fun r => r.member == m) = some r → s.noRoom = false → Canonical s →
    s.mayLand i r.lines o = true → c.stores = [] → r.failed = false →
    nth (dstLines d (doff o.start)) r.lines = some p → tRed d = 0 →
    let arrived : Prop := nth o.mdata r.lines = some x ∨ (nth o.mdata r.lines = none
      ∧ CopyArrived s i n o r.lines (c.copySrc o) (doff o.start) p u)
    (∀ j, s.memberCtx i m = some j → let h := (s.ctxAt j).handle (tDh d)
        let free := hEn h = true ∧ hState h (hPP h) = 0
        ((r.slot.isSome = true ∨ free) →
          (nth o.mdata r.lines = some x ∨ (nth o.mdata r.lines = none ∧ x = copyLineOf o (doff o.start) p 0 xs
            ∧ CopySources s i o (c.copySrc o) (doff o.start) p xs
            ∧ CopyArrived s i n o r.lines (c.copySrc o) (doff o.start) p u)) →
          EngineWindow s i ((s.ctxAt j).handleWin (tDh d) (r.slot.getD (hPP h)) + p) 64 core off → off % 64 = 0 →
          Next (exec (.multicastLanding i n m) s) (fun t => SameMemory s t ∧ BankLine s t i core off x ∧ SameProgram s t i
            ∧ SameProgram s t j))
        ∧ (r.slot = none → ¬ free → arrived → (s.ctxAt j).part = c.part → s.fqOpen c.part = true →
          (s.copyRec j n o 0x13 8 0 (BitVec.ofNat 64 c.member)).fqOpen c.part = true → (s.partAt c.part).fqTail < 4096 →
          Next (exec (.multicastLanding i n m) s) (fun t => t.cores = s.cores ∧ SameProgram s t i ∧ SameProgram s t j
            ∧ (t.partAt c.part).fqTail = ((s.partAt c.part).fqTail + 2) % 4096)))
      ∧ (s.memberCtx i m = none → r.slot = none → arrived → s.fqOpen c.part = true → Next (exec (.multicastLanding i n m) s) (fun t =>
          Posted s t c.part 0x13 3 1 0 0 (BitVec.ofNat 64 m) ∧ SameProgram s t i ∧ t.cores = s.cores))

/-- 10 R244 to R252: copies begin and land.
Where the spec leaves the point open this is the model's choice: log 24, 25 and 26. -/
def Obligations.Copies : Prop := Sys2Proof.Parts.CopiesBegin ∧ Sys2Proof.Parts.CopyLinesLand ∧ Sys2Proof.Parts.MulticastLands

/-! ### Collectives, the end of a block, queues (10 R256, R257; 07 R158; 16 R290, R292; 18 R297 to R306) -/

/-- 10 R251, R257: the collective at the head of the X queue reads its contribution from the scratchpad; a member that
differs from the reference member is refused with a record (0x1B) and its slot is free; once every member has given, and
24 cycles later, the sum of the tree stands in the claimed slot, which is full; to devices of other members it goes over links
that take it (23 R369, log 36). The start claims the slot at PP, which
moves on; it waits for a slot that is free (log 57). A contribution of which ECC cannot correct a byte is a record too
(24 R381), and so is a result that comes after a major slot has opened, of a group that spans devices (0x15; 21 R353, log 68).
Where the spec leaves the point open this is the model's choice: log 36, 57 and 68. -/
def Obligations.CollectivesComplete : Prop :=
  ∀ (s : State) (i : Nat) (o : Cred) (rest : List Cred) (b : Block) (m : Nat),
    let c := s.ctxAt i; let n := (s.groupMembers b.part o.group).1; let k := s.collOf b.part o.group o.k
    let at_ := b.scratchBase + o.addr
    let given (u : Nat) : Option (Nat × Nat) := (k.got.find? (fun e => e.1 == u)).map (fun e => (e.2.1, e.2.2.1))
    let d := c.handle o.h
    c.xq = o :: rest → c.block = some b → c.leaving = false → s.memberOf i b.part o.group = some m → c.stores = [] →
    s.noRoom = false → Canonical s → m ∉ k.taken →
    (o.read = none → hState d (hPP d) ≠ 0 → exec (.credContributionRead i) s = .next s)
      ∧ (∀ u, o.read = none → c.joinsClear o.seq (fun j => j.x) = true → hState d (hPP d) = 0 →
        (m = 0 ∨ given 0 = some (o.op.toNat, o.size)) →
        (s.coreAt (coreOf i)).badBytes at_ o.size = false →
        let x := memRead (s.coreAt (coreOf i)).scratch at_ o.size
        s.sendPart b.part o.group x = some u →
        Next (exec (.credContributionRead i) s) (fun t => SameMemory s t ∧ OtherCtxs s t i ∧ SameProgram s t i
          ∧ t.cores = s.cores ∧ t.pkg = u.pkg
          ∧ (t.ctxAt i).xq = { o with slot := hPP d, read := some x, time := s.ptime } :: rest
          ∧ hState ((t.ctxAt i).handle o.h) (hPP d) = 1 ∧ hPP ((t.ctxAt i).handle o.h) = (hPP d + 1) % hCount d % 16
          ∧ (t.collOf b.part o.group o.k).got = k.got ++ [(m, o.op.toNat, o.size, some x)]))
      ∧ (∀ r u, o.read = none → c.joinsClear o.seq (fun j => j.x) = true → hState d (hPP d) = 0 → s.fqOpen c.part = true →
        s.sendPart b.part o.group [] = some u → (if m = 0 then some (o.op.toNat, o.size) else given 0) = some r →
        let refused (t : State) : Prop := SameProgram s t i ∧ (t.ctxAt i).xq = rest ∧ t.cores = s.cores
          ∧ hState ((t.ctxAt i).handle o.h) (hPP d) = 0 ∧ hPP ((t.ctxAt i).handle o.h) = (hPP d + 1) % hCount d % 16
        (r ≠ (o.op.toNat, o.size) → Next (exec (.credContributionRead i) s) (fun t =>
            Posted s t c.part 0x1B 3 2 0 (BitVec.ofNat 64 o.group) 0 ∧ refused t))
          ∧ (r = (o.op.toNat, o.size) → (s.coreAt (coreOf i)).badBytes at_ o.size = true →
            Next (exec (.credContributionRead i) s) (fun t => (∃ x, Posted s t c.part 0x19 3 2 0 x 0) ∧ refused t)))
      ∧ (o.read.isSome = true → (∀ u, u < n → ∃ e ∈ k.got, e.1 = u) → k.last + 24 ≤ s.ptime → o.slot < 16 →
        let xs := (range 0 n).filterMap (fun u =>
          (k.got.find? (fun e => e.1 == u && e.2.1 == o.op.toNat && e.2.2.1 == o.size)).bind (fun e => e.2.2.2))
        let y := credSum o.op.toNat o.size xs; let d := b.scratchBase + hSlot (c.handle o.h) o.slot
        let done (t : State) : Prop := (t.ctxAt i).xq = rest ∧ hState ((t.ctxAt i).handle o.h) o.slot = 2
          ∧ ∀ a, memByte (t.coreAt (coreOf i)).scratch a =
              if d ≤ a ∧ a < d + y.length then y.getD (a - d) 0 else memByte (s.coreAt (coreOf i)).scratch a
        (m = 0 → s.sendPart b.part o.group y = none → exec (.credResult i) s = .next s)
          ∧ ∀ u, (if m = 0 then s.sendPart b.part o.group y else some s) = some u →
          (s.credOver b.part o.group o.time = [] → Next (exec (.credResult i) s) (fun t => SameMemory s t ∧ OtherCtxs s t i
            ∧ SameProgram s t i ∧ t.pkg = u.pkg ∧ done t))
          ∧ (∀ w, s.credOver b.part o.group o.time = [w] → b.lrec.strict = false → (2, w) ∉ c.overruns → s.fqOpen c.part = true →
            Next (exec (.credResult i) s) (fun t => Posted s t c.part 0x15 3 6 0 0 2 ∧ OtherCtxs s t i ∧ SameProgram s t i
              ∧ t.pkg = u.pkg ∧ done t)))

/-- 07 R158, 18 R302, 16 R289, 21 R352: a context that drains becomes free once its queues are empty: its block is done, and the
last block of an untraced record posts the record's completion with STATUS 0, unless a slot holds the entry; a traced block's
record is written first; a held matrix fault is delivered in class C.
Where the spec leaves the point open this is the model's choice: log 31 and 56. -/
def Obligations.BlocksEnd : Prop :=
  ∀ (s : State) (i : Nat) (b : Block) (l : Launch),
    let c := s.ctxAt i
    c.status = .exiting → c.block = some b → s.noRoom = false → Canonical s → (s.partAt b.part).launchOf b.key = some l →
    (∀ x ∈ (s.partAt b.part).launches, x.key = b.key → x = l) → b.b < l.blocks.length →
    let others : Prop := ∀ k x, k ≠ b.b → nth l.blocks k = some x → x.ended = true
    (c.heldOp = none → c.drained = true → b.lrec.trace = false → l.decided = true → l.stopped = false →
        let held := s.entryHeld ((s.partAt b.part).queueAt l.queue)
        (¬ others ∨ held = true → Next (exec (.exitDrainComplete i) s) (fun t => SameMemory s t ∧ OtherCtxs s t i
          ∧ (t.ctxAt i).status = .free ∧ (t.ctxAt i).block = none ∧ t.cores = s.cores
          ∧ ∃ k, (t.partAt b.part).launchOf b.key = some k ∧ nth k.blocks b.b = some .done ∧ k.lid = l.lid))
        ∧ (others → held = false → l.lrec.trace = false → Next (exec (.exitDrainComplete i) s) (fun t =>
          Completed s t b.part l.queue l.lid.toNat 0 0 ∧ OtherCtxs s t i ∧ (t.ctxAt i).status = .free
            ∧ ∀ x ∈ (t.partAt b.part).launches, x.key ≠ b.key)))
      ∧ (∀ k, c.heldOp = none → c.drained = true → b.lrec.trace = true → (s.partAt b.part).traceOf b.lid = some k →
          let w := s.storageWrite b.part b.key b.lrec true (piecesOf (b.lrec.recordAt b.b) 1088)
            (blockRecord b.lrec (c.startT.getD s.ptime) s.ptime (k.nrun + 1) c.rfilter c.wfilter)
          w.2 = none → Next (exec (.exitDrainComplete i) s) (fun t => OtherCtxs s t i ∧ (t.ctxAt i).status = .free
            ∧ (t.ctxAt i).block = none ∧ t.cores = s.cores ∧ (¬ others → ∀ a, memByte t.mem a = memByte w.1.mem a)))
      ∧ (∀ o code tval, c.heldOp = some o → o.held = some (code, tval) → c.te = true → c.tvec ≠ Config.monitorEntry →
          getB s.pkg.duty 1 = false → Next (exec (.exitDrainComplete i) s) (fun t => SameMemory s t ∧ OtherCtxs s t i
            ∧ (t.ctxAt i).status = .running ∧ (t.ctxAt i).tcause = BitVec.ofNat 10 (512 + code) ∧ (t.ctxAt i).tval = tval
            ∧ (t.ctxAt i).tpcw = c.pc ∧ (t.ctxAt i).slotres = 0 ∧ (t.ctxAt i).pc = c.tvec ∧ (t.ctxAt i).priv = true
            ∧ (t.ctxAt i).te = false ∧ (t.ctxAt i).regs = c.regs))

/-- 18 R299, R300, R302; 19 R317: once queues are in service (24 R374) the host's write of TAIL enters records, without
effect while the device owns the queue; the record at HEAD is refused with its REASON in a completion entry of STATUS 1, or
accepted with its blocks pending and its address space read for it; HEAD passes it. A refusal waits while a slot holds its
entry, and a record that cannot be read is passed without a launch (24 R381; log 62).
Where the spec leaves the point open this is the model's choice: log 28, 34 and 62. -/
def Obligations.QueuesTakeRecords : Prop :=
  ∀ (s : State) (p q : Nat) (v : Word), let u := (s.partAt p).queueAt q
    let ready := s.pkg.dev = .ready ∧ p < 16
    ((¬ ready ∨ (q < 64 ∧ u.own = true)) → exec (.qtailWrite p q v) s = .next s)
      ∧ (ready → q < 64 → u.own = false → Next (exec (.qtailWrite p q v) s) (fun t => OnlyPart s t p
          ∧ ((t.partAt p).queueAt q).tail = v.toNat % 4096 ∧ ((t.partAt p).queueAt q).head = u.head
          ∧ ((t.partAt p).queueAt q).entered.length = u.entered.length + (v.toNat % 4096 + 2 ^ u.log2n - u.tail) % 2 ^ u.log2n
          ∧ ((v.toNat % 4096 + 2 ^ u.log2n - u.tail) % 2 ^ u.log2n = 1 → memByte s.mem (u.slotPa u.tail) ≠ 2 →
              ((t.partAt p).queueAt q).entered = u.entered ++ [(s.partAt p).lidNext]
                ∧ (t.partAt p).lidNext = (if (s.partAt p).lidNext + 1 = 0 then 1 else (s.partAt p).lidNext + 1))))
      ∧ (ready → Next (exec (.qtailWrite p 64 v) s) (fun t => OnlyPart s t p
          ∧ (t.partAt p).xferq = { (s.partAt p).xferq with tail := v.toNat % 4096 } ∧ (t.partAt p).queues = (s.partAt p).queues))
      ∧ (∀ bs lid, s.headRecord p q = some (bs, lid) → (s.recordBad p q).isSome = true →
          (s.entryHeld u = true → exec (.launchRecord p q) s = .next s)
            ∧ (s.entryHeld u = false → Next (exec (.launchRecord p q) s) (fun t =>
              ((t.partAt p).queueAt q).head = (u.head + 1) % 2 ^ u.log2n ∧ (t.partAt p).launches = (s.partAt p).launches
                ∧ ((t.partAt p).queueAt q).ctail = (u.ctail + 1) % 2 ^ u.log2n ∧ t.ctxs = s.ctxs)))
      ∧ (∀ bs lid, s.headRecord p q = some (bs, lid) → Canonical s → s.recordBad p q = none →
          let r := lrecOf bs
          let passed (t : State) : Prop := ((t.partAt p).queueAt q).head = (u.head + 1) % 2 ^ u.log2n
            ∧ ((t.partAt p).queueAt q).entered = u.entered.drop 1
          (∀ n, r.cmd ≠ 2 → s.reasonOf p r = some n → s.entryHeld u = true → exec (.launchRecord p q) s = .next s)
            ∧ (∀ n, r.cmd ≠ 2 → s.reasonOf p r = some n → s.entryHeld u = false → (n = 10 → s.asidBad p r.asid = none) →
              Next (exec (.launchRecord p q) s) (fun t =>
              passed t ∧ Completed s t p q lid.toNat 1 n ∧ (t.partAt p).launches = (s.partAt p).launches ∧ t.ctxs = s.ctxs))
            ∧ (r.cmd ≠ 2 → s.reasonOf p r = none → r.trace = false → Next (exec (.launchRecord p q) s) (fun t =>
              passed t ∧ SameMemory s t ∧ t.ctxs = s.ctxs ∧ ∃ l, (t.partAt p).launches = (s.partAt p).launches ++ [l]
                ∧ l.lid = lid ∧ l.queue = q ∧ l.lrec = r ∧ l.decided = true ∧ l.stopped = false ∧ l.dev = u.own
                ∧ l.prev = u.prevKey ∧ ((t.partAt p).queueAt q).prevKey = some l.key
                ∧ (t.partAt p).asids = (s.partAt p).asids ++ [{ s.asidEntry p r.asid with key := some l.key }]
                ∧ l.blocks = List.replicate r.nblk .pending))
            ∧ (r.cmd ≠ 2 → s.reasonOf p r = none → r.trace = true → Next (exec (.launchRecord p q) s) (fun t =>
              passed t ∧ t.ctxs = s.ctxs ∧ ∃ l k, (t.partAt p).launches = (s.partAt p).launches ++ [l] ∧ l.lid = lid
                ∧ l.lrec = r ∧ l.blocks = List.replicate r.nblk .pending ∧ k ∈ (t.partAt p).traces ∧ k.lid = lid ∧ k.lrec = r
                ∧ k.nblk = r.nblk))
            ∧ (r.cmd = 2 → (2 ^ 32 ≤ r.kobj ∨ (s.partAt p).traceOf (BitVec.ofNat 32 r.kobj) = none) → s.entryHeld u = false →
              Next (exec (.relaunchRecord p q) s) (fun t => passed t ∧ Completed s t p q lid.toNat 1 9
                ∧ (t.partAt p).launches = (s.partAt p).launches))
            ∧ (∀ k, r.cmd = 2 → r.kobj < 2 ^ 32 → (s.partAt p).traceOf (BitVec.ofNat 32 r.kobj) = some k →
              s.asidBad p k.lrec.asid = none → Next (exec (.relaunchRecord p q) s) (fun t => passed t ∧ SameMemory s t
                ∧ ∃ l, (t.partAt p).launches = (s.partAt p).launches ++ [l] ∧ l.lid = k.lid ∧ l.lrec = k.lrec ∧ l.queue = q
                    ∧ l.relaunch = true ∧ l.decided = false ∧ l.blocks = [])))

/-- 16 R292, 18 R305, R306, 19 R325: a relaunch is decided once the earlier runs of its target have posted: a broken trace
reruns every block, and one that reruns none is complete, unless a slot holds its entry; a queue that has waited rises a level; a
context's extents are formed for the block that it is to hold, none under host walking, once no slot holds a walk (21 R352);
contexts that found no fitting candidate are tried again in the next slice.
Where the spec leaves the point open this is the model's choice: log 29, 31 and 40. -/
def Obligations.RelaunchesAndAging : Prop :=
  (∀ (s : State) (p q : Nat) (l : Launch), let before := (s.partAt p).launches.takeWhile (fun x => x.key != l.key)
    ((s.partAt p).recordsOf q).find? (fun l => !l.decided) = some l →
    before.any (fun x => x.lid == l.lid) = false →
    (l.ser = false ∨ ∀ k, l.prev = some k → ∀ x ∈ (s.partAt p).launches, x.key ≠ k) →
    let broken := match (s.partAt p).traceOf l.lid with | some k => k.broken | none => true
    let blocks := s.decideBlocks p l.key l.lid l.lrec broken
    (broken = true → ∀ x ∈ blocks, x = .pending)
      ∧ ((∃ x ∈ blocks, x = .pending) → Next (exec (.relaunchDecision p q) s) (fun t => t.ctxs = s.ctxs ∧ t.cores = s.cores
          ∧ ∃ k, (t.partAt p).launchOf l.key = some k ∧ k.decided = true ∧ k.blocks = blocks))
      ∧ ((∀ x ∈ blocks, x ≠ .pending) → Next (exec (.relaunchDecision p q) s) (fun t => t.ctxs = s.ctxs
          ∧ ((∀ x ∈ (t.partAt p).launches, x.key ≠ l.key)
            ∨ ∃ k, (t.partAt p).launchOf l.key = some k ∧ k.decided = true ∧ k.blocks = blocks
              ∧ t.entryHeld ((t.partAt p).queueAt k.queue) = true))))
    ∧ (∀ (s : State) (p q : Nat) (x : Nat), let u := (s.partAt p).queueAt q; let due := x + (s.partAt p).ageUs * 600
        u.waitT = some x → (s.partAt p).mode ≠ 0 → (s.partAt p).holdsWork q = true →
        (s.ptime < due → exec (.queueAging p q) s = .next s)
          ∧ (due ≤ s.ptime → Next (exec (.queueAging p q) s) (fun t => OnlyPart s t p
            ∧ ((t.partAt p).queueAt q).waitT = some due
            ∧ ((t.partAt p).queueAt q).level = if u.rank / 8 + u.level < 7 then u.level + 1 else u.level)))
    ∧ (∀ (s : State) (p q i : Nat) (o : Offer) (b : Nat) (l : List (Nat × Nat)) (k : Block),
        s.chosen p i = some (o, b, l) → o.queue = q → o.slot = none → (s.ctxAt i).pret ≠ some (p, o.launch.key, b) →
        s.blockFor i p o.launch b = some k →
        let held := getB s.pkg.duty 0 = false ∧ (s.pretranslateAll i k o.launch.lrec.pretranslated []).2.1 = .held
        (held → exec (.pretranslation p q i) s = .next s)
          ∧ (¬ held → Next (exec (.pretranslation p q i) s) (fun t => SameProgram s t i
          ∧ OtherCtxs s t i ∧ t.parts = s.parts ∧ t.cores = s.cores ∧ (t.ctxAt i).pret = some (p, o.launch.key, b)
          ∧ (t.ctxAt i).extents.length ≤ 16 ∧ (∀ e ∈ (t.ctxAt i).extents, e.entry < (t.ctxAt i).extents.length)
          ∧ (getB s.pkg.duty 0 = true → (t.ctxAt i).extents = [] ∧ SameMemory s t))))
    ∧ (∀ (s : State), Next (exec .nextSlice s) (fun t => { t with ctxs := s.ctxs } = s ∧ ∀ i, t.ctxAt i =
        { s.ctxAt i with sliceWait := match (s.ctxAt i).sliceWait with
            | some k => if k < s.ptime / 65536 then none else some k
            | none => none }))

/-! ### Blocks placed, saved and removed (01 R11, R13; 18 R305, R307, R313; 19 R336 to R339) -/

/-- 01 R11, R13, 07 R164, 09 R217, 18 R305: a block that the arbiter places enters its context with the registers of R13, the
system registers at their reset values, at its kernel's entry; a gang's members enter together; a context for which
nothing fits waits for the next slice. -/
def Sys2Proof.Parts.BlocksEnter : Prop :=
  ∀ (s : State) (p q g i : Nat) (o : Offer) (b : Nat) (l : List (Nat × Nat)) (L : Launch),
    let enters (t : State) (j : Nat) (k : Block) : Prop :=
      let c := t.ctxAt j; let r := k.lrec
      c.status = .running ∧ c.block = some k ∧ c.pc = k.kernel.entry ∧ c.priv = false ∧ c.te = true
        ∧ c.tvec = Config.monitorEntry ∧ c.loops = [] ∧ c.delay = none ∧ c.stores = [] ∧ c.mq = []
        ∧ c.regs.getS 1 = BitVec.ofNat 64 k.b ∧ c.regs.getS 2 = BitVec.ofNat 64 r.param
        ∧ c.regs.getS 9 = BitVec.ofNat 64 k.member ∧ c.regs.getS 16 = BitVec.ofNat 64 r.nblk
        ∧ (∀ n, n < 6 → c.regs.getS (BitVec.ofNat 5 (3 + n)) = BitVec.ofNat 64 ((nth (r.indices k.b) n).getD 0)
            ∧ c.regs.getS (BitVec.ofNat 5 (10 + n)) = BitVec.ofNat 64 (((nth r.lt n).map (fun e => e.count)).getD 0))
        ∧ c.fflags = 0
        ∧ c.regs.getS 17 = k.lid.setWidth 64 ∧ (∀ n : SReg, 18 ≤ n.toNat → c.regs.getS n = 0)
        ∧ (∀ n, c.regs.getP n = false) ∧ (∀ n, c.regs.getV n = 0) ∧ (∀ n, c.regs.getQ n = 0)
        ∧ c.shadow.pc = k.kernel.entry ∧ c.shadow.regs = c.regs
    s.waitsSlice i = false → s.ownerOf (coreOf i) = some p →
    (s.nothingFits i = true → Next (exec (.blockDispatch i) s) (fun t => OnlyCtx s t i
        ∧ t.ctxAt i = { s.ctxAt i with sliceWait := some (s.ptime / 65536) }))
      ∧ (s.chosen p i = some (o, b, l) → o.slot = none → (∀ e ∈ l, (s.ctxAt e.2).pret = some (p, o.launch.key, e.1)) →
          (l.map (fun e => e.2)).Nodup →
        (s.nothingFits i = false → o.launch.lrec.gangN = 0 → Next (exec (.blockDispatch i) s) (fun t => SameMemory s t
            ∧ ∀ e ∈ l, ∀ k, s.blockFor e.2 p o.launch e.1 = some k → enters t e.2 k))
          ∧ (o.launch.lrec.gangN ≠ 0 → ((s.partAt p).recordsOf q).find? (fun l => l.blocks.any (fun b => b == .pending)) = some L →
            ((L.lrec.unit_ (g * L.lrec.gangN)).flatMap ((s.partAt p).contextsOf L.lrec)).findSome? (fun i => (s.chosen p i).filter
                (fun x => x.1.queue == q && x.1.slot.isNone && x.1.launch.key == L.key && x.1.launch.lrec.gangOf x.2.1 == g))
              = some (o, b, l) →
            L.lrec.gangN ≠ 0 → Next (exec (.gangDispatch p q g) s) (fun t => SameMemory s t
              ∧ ∀ e ∈ l, ∀ k, s.blockFor e.2 p o.launch e.1 = some k → enters t e.2 k)))

/-- 18 R307, R312, R313, 19 R337 to R339, 10 R248: a block at its boundary with its queues empty is saved to a free slot of the
pool: the header, the registers and the scratchpad stand as bytes of the slot in the order and sizes of R338 (places within a
section are the model's, log 12), and the context is free; the arbiter restores a saved block from those bytes, or refuses an
image of another revision with a record (0x21), and one that ECC cannot read with one of 0x19 (24 R381); a change of shape that
breaks a check is refused, and one that passes gives every block on a cluster that changes owner its choice of R307. -/
def Sys2Proof.Parts.BlocksSaved : Prop :=
  (∀ (s : State) (i slot : Nat) (b : Block), let c := s.ctxAt i
    let base := (s.partAt b.part).ckBase.toNat / 2 ^ 21 * 2 ^ 21 + 2 ^ 21 * slot
    let sizes := c.sectionSizes b
    c.block = some b → c.saveable = true → Canonical s →
    (range 0 (s.partAt b.part).ckCount).find? (fun k => ((s.partAt b.part).imageAt k).isNone) = some slot →
    Next (exec (.checkpoint i) s) (fun t => (t.ctxAt i).status = .free ∧ (t.ctxAt i).block = none ∧ t.cores = s.cores
      ∧ (∃ m, (t.partAt b.part).imageAt slot = some m ∧ m.ptime = s.ptime ∧ m.ctx.block = some b)
      ∧ ((∀ d, (vget 0 s.pkg.wtroot d).toNat / 4096 = 0) →
          Holds t.mem base 8 0x4B435856 ∧ Holds t.mem (base + 8) 8 Config.featv.toNat ∧ Holds t.mem (base + 24) 8 b.lid.toNat
            ∧ Holds t.mem (base + 44) 4 (sectionAt sizes 14) ∧ Holds t.mem (base + 48) 8 s.ptime
            ∧ Holds t.mem (base + 256) 8 c.pc.toNat
            ∧ (∀ n : SReg, n ≠ 0 → Holds t.mem (base + 2304 + 8 * n.toNat) 8 (c.regs.getS n).toNat)
            ∧ (∀ n : VReg, Holds t.mem (base + 2752 + 512 * n.toNat) 512 (c.regs.getV n).toNat)
            ∧ (∀ a, a < b.kernel.scratch → memByte t.mem (base + sectionAt sizes 13 + a) =
                memByte (s.coreAt (coreOf i)).scratch (b.scratchBase + a))
            ∧ (c.loops.length ≤ 6 → c.probeSlots ≤ 256 → (∀ e ∈ c.extents, e.entry < 16) →
                (∀ k ∈ c.kpend, ∀ o n d, k.write = .load o n d → n ≤ 16384) →
                ∀ a, (a < base ∨ base + sectionAt sizes 14 ≤ a) → memByte t.mem a = memByte s.mem a))))
    ∧ (∀ (s : State) (p slot i : Nat) (o : Offer) (b t0 : Nat) (m : Image) (k : Block) (l : Launch),
        let base := (s.partAt p).ckBase.toNat / 2 ^ 21 * 2 ^ 21 + 2 ^ 21 * slot
        let word (a : Nat) : Word := BitVec.ofNat 64 (memNat s.mem (base + a) 8)
        let accepted := getF (word 8) 36 12 = getF Config.featv 36 12 ∧ word 16 &&& ~~~Config.featv = 0
        s.chosen p i = some (o, b, [(b, i)]) → o.slot.isSome = true → nth o.launch.blocks b = some (.saved slot t0) →
        (s.partAt p).imageAt slot = some m → s.blockFor i p o.launch b = some k →
        (s.partAt p).launchOf o.launch.key = some l → b < l.blocks.length →
        let bad := s.imageBad p slot (sectionAt (m.ctx.sectionSizes k) 14)
        (accepted → bad = none → Canonical s → Next (exec (.restore p slot i) s) (fun t =>
          SameMemory s t ∧ OtherCtxs s t i ∧ (t.ctxAt i).pc = word 256 ∧ (t.ctxAt i).status = .running
            ∧ (∀ n : SReg, (t.ctxAt i).regs.getS n = word (2304 + 8 * n.toNat))
            ∧ (∀ n : VReg, (t.ctxAt i).regs.getV n = BitVec.ofNat 4096 (memNat s.mem (base + 2752 + 512 * n.toNat) 512))
            ∧ (∃ x, (t.ctxAt i).block = some x ∧ x.b = k.b ∧ x.wid = k.wid ∧ x.kernel = k.kernel)
            ∧ (t.partAt p).imageAt slot = none
            ∧ (∃ x, (t.partAt p).launchOf o.launch.key = some x ∧ nth x.blocks b = some (.running i))
            ∧ ∀ a, memByte (t.coreAt (coreOf i)).scratch a =
                if k.scratchBase ≤ a ∧ a < k.scratchBase + k.kernel.scratch then
                  memByte s.mem (base + sectionAt (m.ctx.sectionSizes k) 13 + (a - k.scratchBase))
                else memByte (s.coreAt (coreOf i)).scratch a))
          ∧ (¬ accepted ∨ bad ≠ none → o.launch.lrec.trace = false → l.lrec.trace = false → s.fqOpen p = true → Canonical s →
              (∃ n j, n ≠ b ∧ nth l.blocks n = some (.running j)) → Next (exec (.restore p slot i) s) (fun t =>
            (match bad with
              | none => Posted s t p 0x21 3 9 0 0 0
              | some x => Posted s t p 0x19 3 9 0 (BitVec.ofNat 64 (64 * x)) 0)
            ∧ t.ctxs = s.ctxs ∧ (t.partAt p).imageAt slot = none)))
    ∧ (∀ (s : State), Tables s →
        (s.powered = false → exec .resize s = .next s)
        ∧ (s.powered = true → s.shadowsOk = false → Next (exec .resize s) (fun t => OnlyPkg s t ∧ t.pkg = { s.pkg with resizeErr := true }))
        ∧ (s.powered = true → s.shadowsOk = true → Next (exec .resize s) (fun t => { t with pkg := s.pkg, ctxs := s.ctxs } = s
          ∧ t.pkg = { s.pkg with resize := true, resizeErr := false } ∧ (∀ i, SameProgram s t i)
          ∧ ∀ i, (∀ j, i ∈ s.mates j → j = i) →
              let c := s.ctxAt i; let p := s.partAt c.part
              let moves := getB (p.cl ^^^ (tget PartShadow.reset s.pkg.rxPart c.part).cl) (coreOf i / 48)
              let takes (x : Preempt) : Prop := t.ctxAt i = { c with preempt := x }
              (c.block = none ∨ moves = false → t.ctxAt i = c)
                ∧ ∀ b, c.block = some b → moves = true → s.mates i = [i] →
                    let left := b.lrec.rest - (s.ptime - b.dispatchT)
                    (left ≤ p.drain → takes .drain)
                      ∧ (p.drain < left → b.lrec.idem = true → p.kill ≤ 2 ^ 32 - 1 → takes .kill)
                      ∧ (p.drain < left → (b.lrec.idem = false ∨ 2 ^ 32 - 1 < p.kill) → (∀ x ∈ b.lrec.lt, x.pre = false) → takes .drain))))

/-- 01 R13, 18 R305, R307, 19 R337 to R339: blocks enter a context, are saved and are restored.
Where the spec leaves the point open this is the model's choice: log 12, 28, 35, 40 and 55. -/
def Obligations.BlocksEnterAndAreSaved : Prop := Sys2Proof.Parts.BlocksEnter ∧ Sys2Proof.Parts.BlocksSaved

/-- 19 R336: the removal of a context passes its engines in turn, each once it has no request in flight, and frees the
context after the last; a suspended context of a stopped launch begins its removal; an engine that has not drained in
2^20 cycles has its core reset: scratchpad, tiles and scale buffers are zero, and recovery service is asked for. -/
def Sys2Proof.Parts.ContextsRemoved : Prop :=
  (∀ (s : State) (i k t0 : Nat), (s.ctxAt i).status = .removing k t0 → (s.squashEngine i k).inFlight i k = false →
      (k < 5 → Next (exec (.removalEngineDrained i) s) (fun t => SameMemory s t ∧ (t.ctxAt i).status = .removing (k + 1) s.ptime
          ∧ (t.ctxAt i).regs = (s.ctxAt i).regs ∧ (t.ctxAt i).block = (s.ctxAt i).block ∧ t.cores = s.cores
          ∧ (k = 1 → (t.ctxAt i).chans = [] ∧ (t.ctxAt i).xq = []) ∧ (k = 2 → (t.ctxAt i).mq = [])))
        ∧ (∀ b, 5 ≤ k → (s.ctxAt i).block = some b → Next (exec (.removalEngineDrained i) s) (fun t =>
          (t.ctxAt i).status = .free ∧ (t.ctxAt i).block = none ∧ OtherCtxs s t i ∧ t.cores = s.cores
            ∧ ∀ l ∈ (t.partAt b.part).launches, l.key = b.key → l.stopped = true)))
    ∧ (∀ (s : State) (i : Nat), (s.ctxAt i).status = .suspended → s.launchStopped i = true →
        Next (exec (.removalEngineDrained i) s) (fun t => OnlyCtx s t i ∧ SameProgram s t i
          ∧ (t.ctxAt i).status = .removing 1 s.ptime ∧ ∀ w ∈ (t.ctxAt i).stores, w.gated = false))
    ∧ (∀ (s : State) (core i : Nat), [2 * core, 2 * core + 1].find? s.removalStuck = some i → s.noRoom = false →
        ((s.ctxAt (partner i)).block = none ∧ (s.ctxAt (partner i)).status = .free) →
        Next (exec (.coreReset core) s) (fun t => (t.coreAt core).scratch = [] ∧ (∀ n, vget 0 (t.coreAt core).tiles n = 0)
          ∧ (∀ n, vget .zero (t.coreAt core).kbufs n = KBuf.zero) ∧ (∀ k, k ≠ core → t.coreAt k = s.coreAt k)
          ∧ (∀ b, (s.ctxAt i).block = some b → (t.ctxAt i).status = .free ∧ (t.ctxAt i).block = none)
          ∧ (t.partAt (s.ctxAt i).part).wantRecovery = true))

/-- 19 R335, R336, 10 R247: a command on a suspended context resumes it as `rett` does, starts its removal, or redirects
it to CTXARG with the privilege and TE that it had; one on a held copy resumes or discards it; a command that names no
such context or copy (no context of the partition, one that is not suspended, a channel without a held copy) sets ERR and
changes nothing else. -/
def Sys2Proof.Parts.ContextCommands : Prop :=
  ∀ (s : State) (p core n : Nat) (x : Bool),
    let done (t : State) (err : Bool) (ch : Nat) : Prop := (t.partAt p).ctxcmd =
      { busy := false, err := err, arg := BitVec.ofNat 64 (ch % 16 * 2 ^ 16 + (if x then 2 ^ 15 else 0) + core % 2048 * 2 ^ 4) }
    (∀ i, s.target p core x = some i → let c := s.ctxAt i
        (c.status = .suspended →
          Next (exec (.ctxcmdResume p core x) s) (fun t => done t false 0 ∧ SameMemory s t ∧ OtherCtxs s t i
              ∧ (t.ctxAt i).status = .running ∧ (t.ctxAt i).priv = c.ppriv ∧ (t.ctxAt i).te = c.pte ∧ (t.ctxAt i).pc = c.tpcw
              ∧ (t.ctxAt i).slot = c.slotres.toNat ∧ (t.ctxAt i).regs = c.regs ∧ (t.ctxAt i).loops = c.loops)
            ∧ Next (exec (.ctxcmdRemove p core x) s) (fun t => done t false 0 ∧ SameMemory s t ∧ OtherCtxs s t i
              ∧ (t.ctxAt i).status = .removing 1 s.ptime ∧ SameProgram s t i ∧ ∀ w ∈ (t.ctxAt i).stores, w.gated = false)
            ∧ Next (exec (.ctxcmdRedirect p core x) s) (fun t => done t false 0 ∧ SameMemory s t ∧ OtherCtxs s t i
              ∧ (t.ctxAt i).status = .running ∧ (t.ctxAt i).pc = (s.partAt p).ctxarg ∧ (t.ctxAt i).priv = c.ppriv
              ∧ (t.ctxAt i).te = c.pte ∧ (t.ctxAt i).slot = 0 ∧ (t.ctxAt i).delay = none ∧ (t.ctxAt i).regs = c.regs
              ∧ ∃ k, (t.ctxAt i).delivery = some k ∧ k.tpcw = c.tpcw ∧ k.tcause = c.tcause ∧ k.slotres = c.slotres))
        ∧ (∀ o rest, c.chan n = o :: rest → o.held = true → c.leaving = false →
          Next (exec (.ctxcmdResumeCopy p core x n) s) (fun t => done t false n ∧ SameMemory s t ∧ OtherCtxs s t i ∧ SameProgram s t i
              ∧ (t.ctxAt i).chan n = { o with held := false } :: rest ∧ (t.ctxAt i).wps = c.wps)
            ∧ (c.stores = [] → Next (exec (.ctxcmdDiscardCopy p core x n) s) (fun t => done t false n ∧ SameMemory s t
              ∧ OtherCtxs s t i ∧ SameProgram s t i ∧ (t.ctxAt i).chan n = rest ∧ (t.ctxAt i).handles = c.handles)))
        ∧ (c.status ≠ .suspended → c.leaving = false →
          ∀ e ∈ [Instr.ctxcmdResume p core x, .ctxcmdRemove p core x, .ctxcmdRedirect p core x],
            Next (exec e s) (fun t => done t true 0 ∧ OnlyPart s t p))
        ∧ ((∀ o rest, c.chan n = o :: rest → o.held = false) → ∀ e ∈ [Instr.ctxcmdResumeCopy p core x n, .ctxcmdDiscardCopy p core x n],
            Next (exec e s) (fun t => done t true n ∧ OnlyPart s t p)))
      ∧ (∀ e ∈ [(Instr.ctxcmdResume p core x, 0), (.ctxcmdRemove p core x, 0), (.ctxcmdRedirect p core x, 0),
            (.ctxcmdResumeCopy p core x n, n), (.ctxcmdDiscardCopy p core x n, n)],
          (s.serves p = false → exec e.1 s = .next s)
            ∧ (s.serves p = true → s.target p core x = none → Next (exec e.1 s) (fun t => done t true e.2 ∧ OnlyPart s t p)))

/-- 19 R335, R336: the removal of a context and the commands on one.
Where the spec leaves the point open this is the model's choice: log 39. -/
def Obligations.ContextsRemovedAndCommanded : Prop := Sys2Proof.Parts.ContextsRemoved ∧ Sys2Proof.Parts.ContextCommands

/-! ### Records and commands (18 R308, R315; 19 R317, R327, R335; 10 R247) -/

/-- 18 R308, 21 R352: the earliest waiting record of a partition is posted once its queue has room and no slot holds its write,
and its holder gives it up; the driver's write of HEAD makes room. -/
def Sys2Proof.Parts.RecordsPosted : Prop :=
  (∀ (s : State) (h : RecordHolder) (r : FaultRec), s.heldRec h = some r → Canonical s →
      ((s.partAt r.part).fqFull = false → s.fqHeld r.part = false → (∀ x ∈ s.waiting r.part, r.ptime ≤ x.ptime) →
        Next (exec (.faultRecordPost h) s) (fun t => Posted s t r.part (r.code % 256) (r.cls % 256) (r.src % 256) r.flags r.tval r.aux
          ∧ (match h with
            | .context i => (t.ctxAt i).fbuf = none
            | .engine i u => ∀ e ∈ (t.ctxAt i).ebuf, e.1 ≠ u
            | .controller p => (t.partAt p).fqWait = (s.partAt p).fqWait.drop 1)))
        ∧ ((s.partAt r.part).fqFull = true ∨ s.fqHeld r.part = true → exec (.faultRecordPost h) s = .next s))
    ∧ (∀ (s : State) (p : Nat) (v : Word),
        (s.serves p = false → exec (.fqHeadWrite p v) s = .next s)
          ∧ (s.serves p = true → Next (exec (.fqHeadWrite p v) s) (fun t => OnlyPart s t p
            ∧ t.partAt p = { s.partAt p with fqHead := v.toNat / 4096 % 4096 })))

/-- 18 R315, 19 R317, R327: under host walking an extent that passes its checks answers the waiting access, or a cause
does: that of the context's bundle, else the first of its engines; an ASTSYNC reads the address space's entry again and drops
its translations of the generation read, the L1 lines of the space in every core and the partition's remote lines. -/
def Sys2Proof.Parts.ExtentsAndReloads : Prop :=
  (∀ (s : State) (p core i : Nat) (x : Bool) (w : WalkReq) (b : Block), s.target p core x = some i →
      let c := s.ctxAt i
      (c.walkReq = some w ∨ (c.walkReq = none ∧ c.engReqs.head? = some w)) → c.block = some b →
      let e : Extent := { bits := (s.partAt p).extBits, level := freeLevel s.free, entry := 0 }
      let cause := (vget 0 (s.partAt p).extdata 0).toNat % 256
      let answered (t : State) : Prop := (t.ctxAt i).walkReq = none
        ∧ (t.ctxAt i).engReqs = if c.walkReq = none then c.engReqs.drop 1 else c.engReqs
      (({ s with free := s.free + 1 } : State).extentBad b e = false → Next (exec (.extcmdInstall p core x) s) (fun t => SameMemory s t
          ∧ OtherCtxs s t i ∧ SameProgram s t i ∧ answered t ∧ (∃ n, { e with entry := n } ∈ (t.ctxAt i).extents)
          ∧ (t.partAt p).extcmd.err = false))
        ∧ (({ s with free := s.free + 1 } : State).extentBad b e = true → Next (exec (.extcmdInstall p core x) s) (fun t =>
          t.ctxs = s.ctxs ∧ SameMemory s t ∧ (t.partAt p).extcmd.err = true))
        ∧ (0x0B ≤ cause → cause ≤ 0x0E → Next (exec (.extcmdFail p core x) s) (fun t => SameMemory s t ∧ OtherCtxs s t i
          ∧ SameProgram s t i ∧ answered t ∧ (t.partAt p).extcmd.err = false
          ∧ ∃ a : Walked, a.page = w.va / 4096 ∧ a.cause = cause
              ∧ (if c.walkReq = none then (t.ctxAt i).engAns = a :: c.engAns else (t.ctxAt i).walked = a :: c.walked)))
        ∧ ((cause < 0x0B ∨ 0x0E < cause) → Next (exec (.extcmdFail p core x) s) (fun t => t.ctxs = s.ctxs
          ∧ SameMemory s t ∧ (t.partAt p).extcmd.err = true)))
    ∧ (∀ (s : State) (p a : Nat), let d := memNat s.mem ((s.partAt p).astBase.toNat / 4096 * 4096 + 16 * a) 8
        (s.serves p = false → exec (.astsync p a) s = .next s) ∧ (s.serves p = true → s.asidBad p a = none →
        Next (exec (.astsync p a) s) (fun t => SameMemory s t ∧ t.pkg = s.pkg ∧ (t.partAt p).astBusy = some a
          ∧ (∃ k, (t.partAt p).asids.head? = some k ∧ k.asid = a ∧ k.valid = (d.testBit 0 && decide (a < (s.partAt p).nas))
              ∧ k.root = d / 2 ^ 12 % 2 ^ 40 * 2 ^ 12
              ∧ k.gen = BitVec.ofNat 16 (memNat s.mem ((s.partAt p).astBase.toNat / 4096 * 4096 + 16 * a + 8) 2)
              ∧ ∀ i b, (s.ctxAt i).block = some b → b.part = p → b.lrec.asid = a → (t.ctxAt i).ibuf = []
                  ∧ (t.ctxAt i).extents = (s.ctxAt i).extents.filter (fun e => k.valid && e.gen != k.gen))
          ∧ (∀ j, ∀ r ∈ (t.dieAt j).rdc, r.part ≠ p) ∧ (∀ j, ∀ r ∈ (t.coreAt j).l1, r.asid ≠ a)
          ∧ ∀ i, SameProgram s t i)))
    ∧ (∀ (s : State) (p : Nat), Next (exec (.astsyncComplete p) s) (fun t => OnlyPart s t p
        ∧ t.partAt p = { s.partAt p with astBusy := none }))

/-- 18 R308, R315, 19 R317: waiting records, host walking and ASTSYNC.
Where the spec leaves the point open this is the model's choice: log 19, 33, 50 and 58. -/
def Obligations.RecordsAndExtents : Prop := Sys2Proof.Parts.RecordsPosted ∧ Sys2Proof.Parts.ExtentsAndReloads

/-! ### Registers of the host, the debugger, the command engine (18 R309 to R315; 19 R340 to R343; 24 R378 to R380) -/

/-- 18 R309, R314, R315, 21 R358, 24 R376, R382: what the host asks of a major slot is taken down and changes nothing else until
then: link commands, a row repair, a service mode, a retirement, a split of duties; what may not be asked sets ERR, and a later
write takes nothing back that has been asked (log 34). A device that is off or in the safe state takes none. -/
def Sys2Proof.Parts.RequestsForTheMajorSlot : Prop :=
  ∀ (s : State) (l p : Nat) (v : Word),
    let k := s.pkg; let row := v.toNat % 2 ^ 32; let pch := v.toNat % 512; let mode := v.toNat % 4
    let link (i : Instr) (op : Nat) : Prop :=
      (getB k.duty 3 = true → k.link.busy = false → l < 12 → Next (exec i s) (fun t => OnlyPkg s t
          ∧ t.pkg = { k with link := { busy := true, err := false, arg := BitVec.ofNat 64 (op * 16 + l) } }))
        ∧ (getB k.duty 3 = true → k.link.busy = false → 12 ≤ l → Next (exec i s) (fun t => OnlyPkg s t
          ∧ t.pkg = { k with link := { k.link with err := true } }))
    (s.powered = false → ∀ i ∈ [Instr.linkcmdRetrain l, .linkcmdTakeDown l, .linkcmdBringUp l, .repcmd v, .retire v, .dutySplit v],
        exec i s = .next s)
      ∧ (s.powered = true → link (.linkcmdRetrain l) 1 ∧ link (.linkcmdTakeDown l) 2 ∧ link (.linkcmdBringUp l) 3
      ∧ (getB k.duty 4 = true → k.rep.busy = false → row ∈ k.candidates → k.sparesLeft (rowStack row) ≠ 0 →
          Next (exec (.repcmd v) s) (fun t => OnlyPkg s t
            ∧ t.pkg = { k with rep := { busy := true, err := false, arg := BitVec.ofNat 64 row } }))
      ∧ (getB k.duty 4 = true → k.rep.busy = false → (row ∉ k.candidates ∨ k.sparesLeft (rowStack row) = 0) →
          Next (exec (.repcmd v) s) (fun t => OnlyPkg s t ∧ t.pkg.rep.err = true ∧ t.pkg.rep.busy = false))
      ∧ (k.dev = .ready → p < 16 →
          (v.getLsbD 63 = true → mode ≠ 1 → Next (exec (.svcreq p v) s) (fun t => OnlyPart s t p
              ∧ t.partAt p = { s.partAt p with svcMode := mode, svcErr := false, svcReq := true, svcWant := mode }))
            ∧ (v.getLsbD 63 = true → mode = 1 → Next (exec (.svcreq p v) s) (fun t => OnlyPart s t p
              ∧ t.partAt p = { s.partAt p with svcMode := mode, svcErr := true }))
            ∧ (v.getLsbD 63 = false → Next (exec (.svcreq p v) s) (fun t => OnlyPart s t p
              ∧ t.partAt p = { s.partAt p with svcMode := mode })))
      ∧ (v.getLsbD 63 = true → pch ∉ k.retired → Next (exec (.retire v) s) (fun t => OnlyPkg s t
          ∧ t.pkg = { k with retirePch := pch, retireErr := false,
                             retireReq := if pch ∈ k.retireReq then k.retireReq else k.retireReq ++ [pch] }))
      ∧ (v.getLsbD 63 = true → pch ∈ k.retired → Next (exec (.retire v) s) (fun t => OnlyPkg s t
          ∧ t.pkg = { k with retirePch := pch, retireErr := true }))
      ∧ (v.getLsbD 63 = false → Next (exec (.retire v) s) (fun t => OnlyPkg s t ∧ t.pkg = { k with retirePch := pch }))
      ∧ Next (exec (.dutySplit v) s) (fun t => OnlyPkg s t ∧ t.pkg = { k with dutyNew := some (v.setWidth 6) }))

/-- 00 R5, 18 R299, R308, R311, 16 R285, 19 R340, R342, 24 R374, R376: registers that the host writes hold what is written,
without their reserved bits, and nothing else changes; those of virtual functions only once bring-up is complete. -/
def Sys2Proof.Parts.HostRegistersWritten : Prop :=
  ∀ (s : State) (p n : Nat) (v : Word),
    let vf (off : Nat) (d : Part) : Prop := Next (exec (.registerWrite (.vf p off) v) s) (fun t => OnlyPart s t p ∧ t.partAt p = d)
    let pf (off : Nat) (d : Package) : Prop := Next (exec (.registerWrite (.pf off) v) s) (fun t => OnlyPkg s t ∧ t.pkg = d)
    let u := (s.partAt p).queueAt n; let base (k : Nat) : Word := BitVec.ofNat 64 (v.toNat / 2 ^ k * 2 ^ k)
    let i := s.pkg.selected
    s.pkg.dev ≠ .off →
    (s.pkg.dev = .ready → p < 16 →
        vf 0x0010 { s.partAt p with kill := v.toNat / 2 ^ 32, drain := v.toNat % 2 ^ 32 }
          ∧ (v.toNat % 2 ^ 20 ≠ 0 → vf 0x0008 { s.partAt p with ageUs := v.toNat % 2 ^ 20 })
          ∧ vf 0x0020 { s.partAt p with fqBase := base 6 } ∧ vf 0x0040 { s.partAt p with astBase := base 12 }
          ∧ vf 0x0060 { s.partAt p with ctxarg := v } ∧ vf 0x0070 { s.partAt p with ckCount := v.toNat % 2 ^ 16 }
          ∧ (n < 64 → Next (exec (.registerWrite (.vf p (0x1000 + 64 * n)) v) s) (fun t => OnlyPart s t p
              ∧ (t.partAt p).queueAt n = if u.en then u else { u with base := base 6 }))
          ∧ (n < 64 → Next (exec (.registerWrite (.vf p (0x1008 + 64 * n)) v) s) (fun t => OnlyPart s t p
              ∧ ((t.partAt p).queueAt n).en = v.getLsbD 17 ∧ ((t.partAt p).queueAt n).own = v.getLsbD 16
              ∧ ((t.partAt p).queueAt n).rank = v.toNat % 64
              ∧ ((t.partAt p).queueAt n).log2n =
                  (if u.en = true ∨ v.toNat / 2 ^ 8 % 16 < 4 ∨ 12 < v.toNat / 2 ^ 8 % 16 then u.log2n else v.toNat / 2 ^ 8 % 16)))
          ∧ Next (exec (.registerWrite (.window 0x80) v) s) (fun t => OnlyCtx s t i ∧ t.ctxAt i = { s.ctxAt i with kaddr := v })
          ∧ (n < 8 → Next (exec (.registerWrite (.window (0x40 + 8 * n)) v) s) (fun t => OnlyCtx s t i ∧ SameProgram s t i
              ∧ ∀ k, k < 8 → vget 0 (t.ctxAt i).bps k = if k = n then v &&& 0x807FFFFFFFFFFFFF else vget 0 (s.ctxAt i).bps k)))
      ∧ (s.pkg.dev ≠ .ready → exec (.registerWrite (.vf p n) v) s = .next s ∧ exec (.registerWrite (.window n) v) s = .next s)
      ∧ (s.pkg.dev = .safe → exec (.registerWrite .numVFs v) s = .next s)
      ∧ (s.pkg.dev ≠ .safe → Next (exec (.registerWrite .numVFs v) s) (fun t => OnlyPkg s t
          ∧ t.pkg = { s.pkg with numVFs := v.toNat % 2 ^ 16 }))
      ∧ pf 0x3200 { s.pkg with dwsel := v &&& 0xFFF }
      ∧ (n < 5 → Next (exec (.registerWrite (.pf (0x3100 + 8 * n)) v) s) (fun t => OnlyPkg s t
          ∧ ∀ k, k < 5 → vget 0 t.pkg.wtroot k = if k = n then base 12 else vget 0 s.pkg.wtroot k))

/-- 00 R5, 18 R299 to R315: what the host writes.
Where the spec leaves the point open this is the model's choice: log 34. -/
def Obligations.HostRegisters : Prop := Sys2Proof.Parts.RequestsForTheMajorSlot ∧ Sys2Proof.Parts.HostRegistersWritten

/-- 19 R340, R341, R343: HALT, RUN and STEP act on the context that DWSEL selects; a read of the window gives the register
that its offset names (the PC after the tongs at 0x8000, a place of log 12), all ones for a page that does not translate with
TERR set, and all ones for the state of a context that runs. Under host walking no page translates (18 R315, log 58).
Where the spec leaves the point open this is the model's choice: log 12 and 58. -/
def Obligations.DebuggerControls : Prop :=
  ∀ (s : State) (sq : Bool) (off n : Nat),
    let i := s.pkg.selected; let c := s.ctxAt i
    let reads (off : Nat) (x : Word) : Prop := Next (exec (.debugKaddrRead off) s) (fun t => OnlyPkg s t
      ∧ t.pkg = { s.pkg with dwread := x })
    Next (exec .dctlHalt s) (fun t => OnlyCtx s t i ∧ SameProgram s t i ∧ (t.ctxAt i).halt = true
        ∧ (c.slot = 0 → c.stall = none → c.step = false → (t.ctxAt i).isHalted = true))
      ∧ Next (exec .dctlRun s) (fun t => OnlyCtx s t i
          ∧ t.ctxAt i = { c with halt := false, halted := false, step := false })
      ∧ (c.isHalted = true → c.status = .running → Next (exec (.dctlStep sq) s) (fun t => OnlyCtx s t i
          ∧ t.ctxAt i = { c with sq := sq, halted := false, step := true }))
      ∧ (c.isHalted = false → Next (exec (.dctlStep sq) s) (fun t => OnlyCtx s t i ∧ t.ctxAt i = { c with sq := sq }))
      ∧ reads 0x80 c.kaddr ∧ (n < 8 → reads (0x40 + 8 * n) (vget 0 c.bps n))
      ∧ (c.isHalted = true → c.block.isSome = true → n < 32 → reads (0x400 + 8 * n) (if n = 0 then 0 else vget 0 c.regs.s n))
      ∧ (c.isHalted = true → c.block.isSome = true → reads (0x8000 + 18176) c.pc)
      ∧ (c.isHalted = false → 0x100 ≤ off → off < 0x200000 → reads off (BitVec.allOnes 64))
      ∧ (∀ l u, c.block.isSome = true → off < 4096 → off % 8 = 0 → c.kaddr.toNat < 2 ^ 57 → getB s.pkg.duty 0 = false →
          s.walkVa (dieOf i) c.part c.asid c.lkey (c.kaddr.toNat / 4096 * 4096 + off) = (.ok l, u) →
          reads (0x300000 + off) (BitVec.ofNat 64 (memNat s.mem (l.pa + (c.kaddr.toNat / 4096 * 4096 + off - 4096 * l.page)) 8)))
      ∧ (∀ f u, c.block.isSome = true → off < 4096 → off % 8 = 0 → c.kaddr.toNat < 2 ^ 57 →
          (getB s.pkg.duty 0 = true ∨ s.walkVa (dieOf i) c.part c.asid c.lkey (c.kaddr.toNat / 4096 * 4096 + off) = (.error f, u)) →
          Next (exec (.debugKaddrRead (0x300000 + off)) s) (fun t => t.pkg = { s.pkg with dwread := BitVec.allOnes 64 }
            ∧ OtherCtxs s t i ∧ t.ctxAt i = { c with terr := true } ∧ SameMemory s t))

/-- 24 R376, R378 to R380: an operation of the command engine with an engine that is free answers STATUS 0 and its result in the
buffer; a second start in the same cycle answers STATUS 2, 2, 6 and 7 in the safe state STATUS 3 without their effect, and an
operation that there is not STATUS 1; the fused minimum never falls.
Where the spec leaves the point open this is the model's choice: log 1, 2, 14 and 37. -/
def Obligations.CommandEngine : Prop :=
  ∀ (s : State) (p : CmdPath),
    let k := s.pkg
    let ops : List (Instr × Nat) := [(.readFailureRecords p, 1), (.attest p, 2), (.readMeasurements p, 3), (.readTelemetry p, 4),
      (.resetTheDevice p, 5), (.readIdentityPublicKey p, 6), (.raiseFusedSvnMinimum p, 7)]
    let runs (i : Instr) (op : Nat) (d : Package → Package) : Prop := Next (exec i s) (fun t => OnlyPkg s t
      ∧ t.pkg = d { k with mbOp := some (p, s.ptime), mbOpcode := BitVec.ofNat 16 op, mbSts := 0 })
    let filled (n x : Nat) (q : Package) : Package := { q with buffer := setF k.buffer 0 n x }
    let pcrs := (List.range 8).foldl (fun x i => x + (vget 0 k.pcr i).toNat * 2 ^ (512 * i)) 0
    k.dev ≠ .off →
    (∀ v : Word, v.getLsbD 63 = true → (v.toNat % 2 ^ 16 = 0 ∨ 7 < v.toNat % 2 ^ 16) →
        Next (exec (.registerWrite (match p with | .mailbox => .pf 0x3800 | .i3c => .i3c) v) s) (fun t => OnlyPkg s t
          ∧ t.pkg = if s.engineBusy p then { k with mbSts := 2 }
              else { k with mbOp := some (p, s.ptime), mbOpcode := v.setWidth 16, mbSts := if k.dev = .safe then 3 else 1 }))
      ∧ (s.engineBusy p = true → ∀ i ∈ ops, Next (exec i.1 s) (fun t => OnlyPkg s t ∧ t.pkg = { k with mbSts := 2 }))
      ∧ (s.engineBusy p = false →
        runs (.readMeasurements p) 3 (filled 4096 pcrs)
          ∧ runs (.readTelemetry p) 4 (fun q => { q with buffer := Config.telemetryBlock k.telem })
          ∧ (∃ x, runs (.readFailureRecords p) 1 (filled (512 * (k.failures.take 64).length) x))
          ∧ Next (exec (.resetTheDevice p) s) (fun t => t.pkg.pcr = k.pcr ∧ t.pkg.svnMin = k.svnMin ∧ t.pkg.dev = .booting
              ∧ t.pkg.stage = 1 ∧ t.mem = [] ∧ t.parts = [] ∧ t.ctxs = [] ∧ t.ptime = 0)
          ∧ (k.dev ≠ .safe →
              (∃ x, runs (.attest p) 2 (filled 14848 x) ∧ x % 2 ^ 256 = k.buffer.toNat % 2 ^ 256
                  ∧ x / 2 ^ 256 % 2 ^ 64 = 0x00000110000000FF ∧ x / 2 ^ 320 % 2 ^ 64 = s.ptime % 2 ^ 64
                  ∧ x / 2 ^ 384 % 2 ^ 128 = 0 ∧ x / 2 ^ 512 % 2 ^ 4096 = pcrs)
                ∧ runs (.readIdentityPublicKey p) 6 (filled 14344 (Config.falconKey k.keySeed).toNat)
                ∧ runs (.raiseFusedSvnMinimum p) 7 (fun q => { q with svnMin := if k.svnMin.toNat ≤ k.svn.toNat then k.svn else k.svnMin }))
          ∧ (k.dev = .safe → ∀ i ∈ [(Instr.attest p, 2), (.readIdentityPublicKey p, 6), (.raiseFusedSvnMinimum p, 7)],
              Next (exec i.1 s) (fun t => OnlyPkg s t
                ∧ t.pkg = { k with mbOp := some (p, s.ptime), mbOpcode := BitVec.ofNat 16 i.2, mbSts := 3 })))

/-! ### Quench slots, links, bring-up (21; 23; 24 R374 to R377) -/

/-- 21 R350 to R358, 24 R381, R382: scrub in a bank-group slot counts what it corrects, and what it cannot correct is
poisoned with a record (0x19) to its owner; a line that stands in error is met by the last slot of each 24 hours' pass; a sweep
slot reads its stack's temperature; a request to a CXL address that meets a major slot or its drain lead starts when the slot
has ended; a forced refresh that has run restores its allowances. A refresh changes no line. -/
def Sys2Proof.Parts.QuenchSlots : Prop :=
  ∀ (s : State) (p g l temp q : Nat),
    let k := s.pkg; let c := k.cal; let x := (s.pchCal p)
    let here := isHbm (64 * l) = true ∧ pchOf (64 * l) = p ∧ bgOf (64 * l) = g
    let half := 2 ^ (c.swlog - 1); let n := (s.ptime - half) / 2 ^ c.swlog
    let clean := ∀ m ∈ k.poisoned, inGroup p g m = true → s.met m = true
    (s.powered = true → s.bgInSlot p g = true → clean → exec (.bankGroupSlot p g []) s = .next s
        ∧ (here → Next (exec (.bankGroupSlot p g [(l, true)]) s) (fun t => OnlyPkg s t
            ∧ vget 0 t.pkg.corrected (rowStack (rowNo (64 * l))) = vget 0 k.corrected (rowStack (rowNo (64 * l))) + 1
            ∧ t.pkg.poisoned = k.poisoned))
        ∧ (here → s.groupOwner (64 * l) = some q → s.fqOpen q = true → Canonical s →
            Next (exec (.bankGroupSlot p g [(l, false)]) s) (fun t => Posted s t q 0x19 3 5 0 (BitVec.ofNat 64 (64 * l)) 0
              ∧ l ∈ t.pkg.poisoned ∧ t.ctxs = s.ctxs)))
      ∧ (s.powered = true → s.bgInSlot p g = true → here → k.poisoned = [l] → s.met l = false → s.lastOfPass g = true →
          s.groupOwner (64 * l) = some q → s.fqOpen q = true → Canonical s →
          Next (exec (.bankGroupSlot p g []) s) (fun t => Posted s t q 0x19 3 5 0 (BitVec.ofNat 64 (64 * l)) 0
            ∧ t.met l = true ∧ t.pkg.poisoned = [l] ∧ t.ctxs = s.ctxs))
      ∧ ((s.bgInSlot p g = false ∨ s.powered = false) → ∀ bad, exec (.bankGroupSlot p g bad) s = .next s)
      ∧ (s.powered = true → half ≤ s.ptime → s.ptime < n * 2 ^ c.swlog + half + c.swlen → Next (exec (.sweepSlot temp) s) (fun t => OnlyPkg s t
          ∧ vget 0 t.pkg.temps (n % 8) = temp ∧ ∀ j, j ≠ n % 8 → vget 0 t.pkg.temps j = vget 0 k.temps j))
      ∧ ((s.ptime < half ∨ s.powered = false) → exec (.sweepSlot temp) s = .next s)
      ∧ (exec .drainLead s = .next s ∧ ∀ pa u, isHbm pa = false →
          (c.majorNext u ≤ u + c.lead → c.majorNext u + c.mjlen ≤ s.startAt pa u) ∧ (u + c.lead < c.majorNext u → s.startAt pa u = u))
      ∧ Next (exec (.forcedAllBankRefresh p) s) (fun t => OnlyPkg s t ∧ t.pchCal p = x
          ∧ ∀ f, (tget PchCal.reset k.pch p).forced = some f → f + c.ablen ≤ s.ptime → ∀ b, (t.pchCal p).allowance c b = c.defmax)

/-- 18 R309, R313 to R315, 21 R349, R351, R358, 24 R384: a major slot takes the split of duties, the link command and the
retirement that were asked for, and the readings that it brings; what it installs as calendar and modes comes into force at
its end. Memory and the registers of every context stay. -/
def Sys2Proof.Parts.MajorSlots : Prop :=
  (∀ (s : State) (m : MajorInput) (o : Nat), s.majorOpen = some o → s.pkg.majorT ≠ some o → s.pkg.dev = .ready →
      Next (exec (.majorSlot m) s) (fun t => SameMemory s t ∧ t.ptime = s.ptime ∧ (∀ i, SameProgram s t i)
        ∧ t.pkg.majorT = some o ∧ t.pkg.endT = some (o + s.pkg.cal.mjlen) ∧ t.pkg.cal = s.pkg.cal
        ∧ t.pkg.duty = s.pkg.dutyNew.getD s.pkg.duty ∧ t.pkg.dutyNew = none ∧ t.pkg.link.busy = false
        ∧ t.pkg.meanPower = m.meanPower ∧ t.pkg.hold = decide (3600 < m.meanPower) ∧ t.pkg.offsets = m.offsets
        ∧ t.pkg.retireReq = []
        ∧ (∀ q ∈ s.pkg.retireReq, q ∈ t.pkg.retired
            ∧ (∀ pa, isHbm pa = true → pchOf pa = q → t.backed pa = false)
            ∧ ∀ i, (∀ e ∈ (t.ctxAt i).extents, e.maps q = false) ∧ ∀ w ∈ (t.ctxAt i).walked, w.cause = 0 → w.ext.maps q = false)
        ∧ (getB t.pkg.duty 2 = false → t.pkg.calNext = some (calOfHot s.pkg.newHot))
        ∧ (getB t.pkg.duty 3 = false → ∀ i, i < 12 → (s.pkg.linkAt i).lost = false →
            (t.pkg.linkAt i).up = m.linksUp.getLsbD i)))
    ∧ (∀ (s : State), (s.majorOpen = none ∨ s.pkg.majorT = s.majorOpen ∨ s.pkg.dev ≠ .ready) → ∀ m, exec (.majorSlot m) s = .next s)
    ∧ (∀ (s : State) (x : Nat), s.pkg.endT = some x →
        (s.ptime < x → exec .slotEnd s = .next s)
          ∧ (x ≤ s.ptime → Next (exec .slotEnd s) (fun t => SameMemory s t ∧ t.ctxs = s.ctxs ∧ t.pkg.endT = none
            ∧ t.pkg.cal = s.pkg.calNext.getD s.pkg.cal ∧ t.pkg.modesNext = []
            ∧ ∀ p m, s.pkg.modesNext = [(p, m)] → (t.partAt p).mode = m)))

/-- 24 R381, R382, 19 R336: a soft error that cannot be corrected stands in its line of memory or in its part of a core's
SRAM and changes no value; in a context's control state it posts a record of SRC 5 with FATAL = 1, and the removal of the
context begins. A row of a tile with an error gives `mrd` uncorrectable-memory (0x19). -/
def Sys2Proof.Parts.SoftErrors : Prop :=
  (∀ (s : State) (u : Upset) (a : List Turn), s.agenda = .upset u :: a → s.noRoom = false →
    (∀ l, u = .memory l → Next (step s) (fun t => l ∈ t.pkg.poisoned ∧ t.mem = s.mem ∧ t.ctxs = s.ctxs ∧ t.cores = s.cores
        ∧ t.agenda = a))
      ∧ (∀ core x, u = .sram core x → Next (step s) (fun t => x ∈ (t.coreAt core).bad ∧ t.mem = s.mem ∧ t.ctxs = s.ctxs
        ∧ (∀ k, k ≠ core → t.coreAt k = s.coreAt k) ∧ { t.coreAt core with bad := (s.coreAt core).bad } = s.coreAt core))
      ∧ (∀ i b, u = .control i → (s.ctxAt i).block = some b → (s.ctxAt i).status = .running →
          s.fqOpen (s.ctxAt i).part = true → Canonical s →
        Next (step s) (fun t => Posted s t (s.ctxAt i).part 0x19 3 5 2 0 0 ∧ (t.ctxAt i).status = .removing 1 s.ptime
          ∧ OtherCtxs s t i)))
    ∧ ∀ (s : State) (t3 : BitVec 3) (v : VReg) (r : SReg), s.ctx.heldOp = none → s.ctx.mq.length < 8 →
        (∀ o ∈ s.ctx.mq, o.tile ≠ t3) → s.ctx.declTile t3 = true → (s.rS r).toNat < 64 →
        s.badRow s.cur t3 (s.rS r).toNat = true → OwnHandler s →
        Next (exec (.mrd t3 v r) s) (fun t => Entered s t 0x19 0 s.badTval s.issue.pc s.issue.slot)

/-- 21 R347 to R358, 24 R381 to R384: bank-group, sweep and major slots, forced refreshes, and soft errors.
Where the spec leaves the point open this is the model's choice: log 4, 14 and 19. -/
def Obligations.MaintenanceSlots : Prop := Sys2Proof.Parts.QuenchSlots ∧ Sys2Proof.Parts.MajorSlots ∧ Sys2Proof.Parts.SoftErrors

/-- 23 R363 to R366, R369, R371, R372: a flit with a wrong CRC or SEQ is discarded and answered with NAK; one in order is taken
down, its ACK, NAK and ON fields act on the sender's side, a heartbeat counts, a request waits in the skid buffer and a flit
for another device goes on; the sixteenth NAK of one SEQ takes the link down; in a slot of either end, and behind flits that
wait, a flit waits; eight
missing heartbeats (beside that of the latest slot, which may still come) lose the neighbour, and the partition whose traffic
the link carried has a record and asks for recovery service. The word of a heartbeat is the model's (log 36). -/
def Sys2Proof.Parts.FlitsReceived : Prop :=
  ∀ (s : State) (i : Nat) (f : BitVec 2048) (p : Nat), let l := s.pkg.linkAt i; let held := s.pkg.linkHeld s.ptime
    let goes := Next (exec (.flitReceive i f) s); let free := held i = false ∧ l.waits = []
    i < 12 → l.up = true →
    (free → (fCrcOk f = false ∨ fSeq f ≠ l.rxSeq + 1) → goes (fun t => OnlyPkg s t
        ∧ t.pkg = s.pkg.setLink i { l with nak := true, owed := true }))
      ∧ (free → fCrcOk f = true → fSeq f = l.rxSeq + 1 → (∀ v, vget [] l.skid v = []) →
          (fNak f = false ∨ l.nakRun < 15) →
          let took (t : State) : Prop := OnlyPkg s t ∧ (t.pkg.linkAt i).rxSeq = fSeq f ∧ (t.pkg.linkAt i).onSeen = fOn f
            ∧ (t.pkg.linkAt i).nak = false ∧ (t.pkg.linkAt i).owed = true ∧ (t.pkg.linkAt i).onSent = 0xF
            ∧ (t.pkg.linkAt i).up = true ∧ (t.pkg.linkAt i).replay = ackedTo (fAck f) l.replay
          (fLane f = 3 → goes (fun t => took t ∧ vget [] (t.pkg.linkAt i).skid 3 = []
              ∧ (t.pkg.linkAt i).missed = if fAddr f = Config.laneWord true then 0 else l.missed))
            ∧ ((fLane f = 0 ∧ fDev f = s.pkg.devNum) → goes (fun t => took t ∧ vget [] (t.pkg.linkAt i).skid 0 = [f]))
            ∧ (∀ a, fLane f ≠ 3 → fDev f ≠ s.pkg.devNum → s.pkg.route (fDev f) = .link a → a < 12 → a ≠ i →
                (s.pkg.linkAt a).takes (fLane f) 1 = true → held a = false → goes (fun t => took t
                  ∧ vget [] (t.pkg.linkAt i).skid (fLane f) = [] ∧ t.pkg.linkAt a = (s.pkg.linkAt a).send (fCargo f) none)))
      ∧ (free → fCrcOk f = true → fSeq f = l.rxSeq + 1 → fNak f = true → l.nakSeq = fAck f → 15 ≤ l.nakRun →
          goes (fun t => (t.pkg.linkAt i).up = false ∧ t.ctxs = s.ctxs))
      ∧ (¬ free → goes (fun t => OnlyPkg s t ∧ t.pkg = s.pkg.setLink i { l with waits := l.waits ++ [f] }))
      ∧ (8 < l.missed → l.lost = false → l.carried = [p] → s.fqOpen p = true → Canonical s →
          Next (exec (.heartbeatLoss i) s) (fun t => (t.pkg.linkAt i).lost = true ∧ (t.partAt p).wantRecovery = true
            ∧ t.ctxs = s.ctxs ∧ ∃ code, code < 256 ∧ Posted s t p code 3 4 0 0 0))
      ∧ (l.missed ≤ 8 → exec (.heartbeatLoss i) s = .next s)

/-- 23 R367 to R369, R371, 24 R381: the descriptor at HEAD of the link-transfer queue is taken; its lines go out in address
order, or are asked for, three in a flit; inside a major slot nothing of a transfer goes on, and source lines that a slot
holds wait (21 R352); a transfer that no link leads to ends with STATUS 4, one that meets a line in error, its descriptor's
too, with a record; a transfer that has ended posts its entry. A peer's request whose flits have arrived is performed and
answered within a receive window, a write with tag 0xFFF; another is refused with a record (0x0E). -/
def Sys2Proof.Parts.LinkTransfers : Prop :=
  (∀ (s : State) (p : Nat), let d := s.partAt p
      let desc := d.xferq.base.toNat + 64 * (d.xferq.head % 2 ^ d.xferq.log2n)
      let takes := d.xfer = none ∧ s.pkg.dev = .ready ∧ p < 16 ∧ d.xferq.en = true ∧ d.xferq.head ≠ d.xferq.tail
      let going (x : Transfer) : Prop := d.xfer = some x ∧ x.status = none ∧ x.done < x.lines ∧ s.majorOpen = none
      let ready (x : Transfer) (a : Nat) : Prop := going x ∧ x.sent < x.lines ∧ s.pkg.route x.dev = .link a
        ∧ (x.op = 1 → s.lateHeld (x.source p (s.nextCargo x).1) = false) ∧ (x.op = 1 ∨ s.pkg.readMixes x (s.nextCargo x).1 = false)
      (d.xfer = none → (s.pkg.dev ≠ .ready ∨ d.xferq.en = false ∨ d.xferq.head = d.xferq.tail) → exec (.linkTransfer p) s = .next s)
        ∧ (takes → desc / 64 ∉ s.pkg.poisoned →
          Next (exec (.linkTransfer p) s) (fun t => OnlyPart { s with free := t.free } t p
          ∧ (t.partAt p).xferq.head = (d.xferq.head + 1) % 2 ^ d.xferq.log2n
          ∧ ∃ x, (t.partAt p).xfer = some x ∧ x.sent = 0 ∧ x.done = 0 ∧ x.op = (memByte s.mem desc).toNat
              ∧ (s.ownsRange p x.loc (64 * x.lines) = false → x.status = some 1)))
        ∧ (takes → desc / 64 ∈ s.pkg.poisoned → s.fqOpen p = true → Canonical s → Next (exec (.linkTransfer p) s) (fun t =>
          Posted s t p 0x19 3 4 0 (BitVec.ofNat 64 (64 * (desc / 64))) 0 ∧ t.ctxs = s.ctxs
            ∧ ∃ x, (t.partAt p).xfer = some x ∧ ∃ st ∈ [1, 3, 4], x.status = some st))
        ∧ (∀ x, d.xfer = some x → s.majorOpen.isSome = true →
            exec (.linkTransfer p) s = .next s ∧ exec (.linkTransferComplete p) s = .next s)
        ∧ (∀ x, going x → s.pkg.route x.dev = .gone → Next (exec (.linkTransfer p) s) (fun t => SameMemory s t ∧ t.ctxs = s.ctxs
            ∧ (∀ q, q ≠ p → t.partAt q = s.partAt q) ∧ (t.partAt p).xfer = some { x with status := some 4 }
            ∧ t.pkg = { s.pkg with peerReads := s.pkg.peerReads.filter (fun r => r.dev != x.dev) }))
        ∧ (∀ x a, going x → x.sent < x.lines → s.pkg.route x.dev = .link a → x.op = 1 →
            s.lateHeld (x.source p (s.nextCargo x).1) = true →
            exec (.linkTransfer p) s = .next (s.lateWaits (x.source p (s.nextCargo x).1)))
        ∧ (∀ x a l, ready x a → s.badSource x (s.nextCargo x).1 = some l → s.fqOpen p = true → Canonical s →
            Next (exec (.linkTransfer p) s) (fun t =>
          Posted s t p 0x19 3 4 0 (BitVec.ofNat 64 (64 * l)) 0 ∧ t.ctxs = s.ctxs
            ∧ ∃ st ∈ [1, 3, 4], (t.partAt p).xfer = some { x with status := some st }))
        ∧ (∀ x a u, ready x a →
            s.badSource x (s.nextCargo x).1 = none → s.sendAll (some p) [(s.nextCargo x).2] = some u →
            Next (exec (.linkTransfer p) s) (fun t => SameMemory s t
          ∧ t.ctxs = s.ctxs ∧ t.pkg = { u.pkg with peerReads := t.pkg.peerReads }
          ∧ t.pkg.peerReads = s.pkg.peerReads ++ (if x.op = 1 then []
              else [⟨x.dev, x.rem + 64 * x.sent, Nat.min 3 (x.lines - x.sent), p, x.no⟩])
          ∧ (t.partAt p).xfer = some { x with sent := x.sent + Nat.min 3 (x.lines - x.sent) }
          ∧ (s.nextCargo x).2.dev = x.dev ∧ (s.nextCargo x).2.addr = BitVec.ofNat 64 (x.rem + 64 * x.sent)
          ∧ (x.op = 1 → ∀ n, n < Nat.min 3 (x.lines - x.sent) →
              (s.nextCargo x).2.lines[n]? = some (memLine s.mem (x.loc / 64 + x.sent + n)))))
        ∧ (∀ x st, d.xfer = some x → (x.status = some st ∨ (x.status = none ∧ x.lines ≤ x.done ∧ st = 0)) → s.majorOpen = none →
          s.entryHeld d.xferq = false → Canonical s →
          d.xferq.cbase.toNat % 16 = 0 → Next (exec (.linkTransferComplete p) s) (fun t => (t.partAt p).xfer = none ∧ t.ctxs = s.ctxs
            ∧ (t.partAt p).xferq.ctail = (d.xferq.ctail + 1) % 2 ^ d.xferq.log2n
            ∧ (let a := d.xferq.cbase.toNat + 16 * d.xferq.ctail
               ∃ m, Holds m a 4 x.index ∧ Holds m (a + 4) 2 st ∧ Holds m (a + 8) 8 s.ptime
                ∧ (∀ b, (b < a ∨ a + 16 ≤ b) → memByte m b = memByte s.mem b) ∧ Timed s m a t.mem)))
        ∧ (∀ x, d.xfer = some x → x.status = none → x.done < x.lines → exec (.linkTransferComplete p) s = .next s))
    ∧ (∀ (s u : State) (dev pa n i : Nat) (ls : List Line) (fs : List (BitVec 2048)),
        let answer : List Cargo := [{ lane := 1, dev := dev, addr := Config.freeWord s.free, lines := [] }]
        let write : PeerReq := .write dev pa ls; let read : PeerReq := .read dev pa n
        let drained (t : State) : Prop := ∀ f ∈ fs, f ∉ vget [] (t.pkg.linkAt i).skid 0
        (∀ p, s.pkg.requestAt write = some (i, fs) → s.accepter pa (64 * ls.length) true = some p → pa % 64 = 0 → Canonical s →
            s.lateHeld (.peer write) = false → s.sendAll (some p) answer = some u →
            (∀ d, d < 5 → (vget 0 s.pkg.wtroot d).toNat < 4096) → Next (exec (.peerRequest write) s) (fun t =>
          drained t ∧ t.ctxs = s.ctxs ∧ t.parts = s.parts ∧ ∀ a, memByte t.mem a = if pa ≤ a ∧ a < pa + 64 * ls.length then
            (ls.getD ((a - pa) / 64) 0).extractLsb' (8 * (a % 64)) 8 else memByte s.mem a))
          ∧ (∀ p, s.pkg.requestAt read = some (i, fs) → s.accepter pa (64 * n) false = some p → s.lateHeld (.peer read) = false →
            (∀ l ∈ linesOf pa (64 * n), l ∉ s.pkg.poisoned) →
            s.sendAll (some p) ((threes n (range 0 n)).map (fun js => (⟨1, dev, BitVec.ofNat 64 (pa + 64 * (js.head?).getD 0),
                js.map (fun j => memLine s.mem (pa / 64 + j))⟩ : Cargo))) = some u →
            Next (exec (.peerRequest read) s) (fun t => drained t ∧ SameMemory s t ∧ t.ctxs = s.ctxs ∧ t.parts = s.parts))
          ∧ (∀ q, s.pkg.requestAt write = some (i, fs) → s.accepter pa (64 * ls.length) true = none → s.groupOwner pa = some q →
            s.fqOpen q = true → Canonical s → s.sendAll none answer = some u → Next (exec (.peerRequest write) s) (fun t =>
              drained t ∧ Posted s t q 0x0E 3 4 0 0 (BitVec.ofNat 64 dev) ∧ t.ctxs = s.ctxs))
          ∧ (∀ r ∈ [write, read], ∀ p, s.pkg.requestAt r = some (i, fs) → s.accepter (peerPa r) (peerLen r) (peerWrites r) = some p →
            s.lateHeld (.peer r) = true → exec (.peerRequest r) s = .next (s.lateWaits (.peer r)))
          ∧ (s.pkg.requestAt write = none → exec (.peerRequest write) s = .next s))

/-- 23 R363 to R372: flits, link transfers and the requests of peers.
Where the spec leaves the point open this is the model's choice: log 10, 19 and 36. -/
def Obligations.Links : Prop := Sys2Proof.Parts.FlitsReceived ∧ Sys2Proof.Parts.LinkTransfers

/-- 24 R374 to R377: power and a conventional reset start bring-up with PTIME 0 and every PCR zero; a stage that passes is
followed by the next, and the last leaves the device ready; a stage that fails leaves it in the safe state with its code and
a failure record. An image of another key, signature or a lower version is not accepted.
Where the spec leaves the point open this is the model's choice: log 1, 2, 14 and 37. -/
def Obligations.BringUp : Prop :=
  ∀ (s : State) (x : StageInput) (f : Firmware) (fs : List Firmware),
    let k := s.pkg; let run := Next (exec (.bringUpStage x) s)
    let begun := k.dev ≠ .off ∧ k.dev ≠ .ready ∧ k.dev ≠ .safe
    let fails (n code : Nat) (t : State) : Prop := t.pkg.dev = .safe ∧ t.pkg.stage = n
      ∧ (k.fail = 0 → t.pkg.fail = code) ∧ t.pkg.failures.length = k.failures.length + 1 ∧ (∀ i, (t.pkg.linkAt i).up = false)
    let signed (f : Firmware) (kind : Nat) : Prop := Config.shake256 (natBytes 1793 f.key.toNat) 512 = Config.keyDigest kind
      ∧ Config.falconVerify f.key (Config.shake256 f.body 512) f.signature = true
    let accepted (f : Firmware) (kind : Nat) : Prop := signed f kind ∧ k.svnMin.toNat ≤ f.svn.toNat
    let fresh (t : State) (dev : DevState) : Prop := t.pkg.dev = dev ∧ t.ptime = 0 ∧ t.mem = [] ∧ t.ctxs = [] ∧ t.parts = []
      ∧ (∀ i, vget 0 t.pkg.pcr i = 0) ∧ t.pkg.svnMin = k.svnMin ∧ t.pkg.cal = Cal.reset
    ((k.dev = .off ∨ k.dev = .start) → Next (exec .powerOn s) (fun t => fresh t .booting ∧ t.pkg.stage = 1))
      ∧ (k.dev ≠ .off → Next (exec .conventionalReset s) (fun t => fresh t .booting ∧ t.pkg.stage = 1))
      ∧ Next (exec .moduleOff s) (fun t => fresh t .off)
      ∧ (begun → k.stage = 1 → x.selfCheckOk = false → run (fails 1 1))
      ∧ (begun → k.stage = 1 → x.selfCheckOk = true → x.images = f :: fs → ¬ signed f 0 → run (fails 1 2))
      ∧ (begun → k.stage = 1 → x.selfCheckOk = true → x.images = f :: fs → signed f 0 → f.svn.toNat < k.svnMin.toNat → run (fails 1 4))
      ∧ (begun → k.stage = 1 → x.selfCheckOk = true → x.images = f :: fs → accepted f 0 → run (fun t => OnlyPkg s t
          ∧ t.pkg.dev = .booting ∧ t.pkg.stage = 2 ∧ t.pkg.svn = f.svn
          ∧ vget 0 t.pkg.pcr 0 = Config.shake256 (natBytes 64 (vget 0 k.pcr 0).toNat ++ natBytes 64 (Config.shake256 f.body 512).toNat) 512))
      ∧ (begun → k.stage = 2 → 9 ≤ x.images.length → (∀ j g, j < 9 → x.images[j]? = some g → accepted g (if j = 0 then 1 else 2)) →
          run (fun t => OnlyPkg s t ∧ t.pkg.stage = 3 ∧ t.pkg.dev = .selfTest ∧ vget 0 t.pkg.pcr 0 = vget 0 k.pcr 0))
      ∧ (∀ n g, begun → k.stage = 2 → 9 ≤ x.images.length → n < 9 → x.images[n]? = some g →
          (∀ j h, j < n → x.images[j]? = some h → accepted h (if j = 0 then 1 else 2)) →
          (¬ signed g (if n = 0 then 1 else 2) → run (fails 2 3))
            ∧ (signed g (if n = 0 then 1 else 2) → g.svn.toNat < k.svnMin.toNat → run (fails 2 4)))
      ∧ (∀ n base units, begun → k.stage = n → (n, base, units) ∈ [(3, 0x10, 5), (4, 0x20, 4), (5, 0x30, 8)] →
          (x.failUnit = none → run (fun t => OnlyPkg s t ∧ t.pkg.stage = n + 1))
            ∧ (∀ u, x.failUnit = some u → u < units → run (fails n (base + u))))
      ∧ (begun → k.stage = 6 → run (fun t => t.pkg.stage = 7 ∧ t.pkg.devNum = x.devNum ∧ t.pkg.torus = x.torus
          ∧ t.ptime = x.peerTime.getD s.ptime % 2 ^ 64 ∧ (∀ i, i < 12 → (t.pkg.linkAt i).up = x.linksUp.getLsbD i) ∧ SameMemory s t))
      ∧ (begun → k.stage = 7 → run (fun t => OnlyPkg s t ∧ t.pkg.dev = .ready ∧ t.pkg.stage = 7))

/-! ### Reset, invariants, encodings -/

/-- 07 R151, R152, R165 to R167, 08 R174, R177 to R180, 10 R235 to R238: where these forms complete, each with an effect of its
own and no trap: transfers; `rdsr`, `wrsr` and `rdtime` with the privilege for it; fences, of which an acquire waits for the
context's stores to engine registers; `l1inv` and `l1inva`; `probe` and `rdwp`; floating arithmetic of the V slot. What they
give besides is said by the statements of their families.
Where the spec leaves the point open this is the model's choice: log 15 and 53. -/
def Obligations.ControlAndFloatFormsComplete : Prop :=
  ∀ (s : State) (p : PReg) (n : Bool) (off : BitVec 22) (d a b : SReg) (r imm : BitVec 16) (ch : BitVec 4) (sc : Scope)
    (f : Fmt) (v x y : VReg) (q : QReg),
    let quiet (t : State) : Prop := t.issue.stop = s.issue.stop ∧ t.ctx.pc = s.ctx.pc
    let jumps (i : Instr) : Prop := Next (exec i s) (fun t => OnlyCtx s t s.cur ∧ quiet t ∧ ∃ k, t.ctx.delay = some k ∧ k.left = 2)
    let keeps (i : Instr) : Prop := Next (exec i s) (fun t => quiet t ∧ SameMemory s t ∧ t.ctx.regs = s.ctx.regs)
    let writes (i : Instr) : Prop := Next (exec i s) (fun t => ∃ z fl lat, WroteV s t lat v z fl)
    (∀ i ∈ [Instr.br p n off, .call p n off, .jr a, .callr a], jumps i)
      ∧ Next (exec (.rdtime d) s) (fun t => WroteS s t 1 d (BitVec.ofNat 64 s.ptime))
      ∧ Next (exec (.rdwp d ch) s) (fun t => ∃ z, WroteS s t 1 d z)
      ∧ (s.issue.user = false → (r ≠ 0x8 ∨ s.flagsPending = false) → Next (exec (.rdsr d r) s) (fun t => ∃ z, WroteS s t 1 d z))
      ∧ (s.issue.user = false → keeps (.wrsr a r))
      ∧ keeps (.fence sc .rel) ∧ keeps (.fence sc .full) ∧ (s.ctx.engineWaits = false → keeps (.fence sc .acq))
      ∧ keeps (.l1inv a b) ∧ keeps .l1inva
      ∧ (s.ctx.probeSlots ≠ 0 → s.ctx.chanLoad 15 < 16 → Next (exec (.probe d a imm) s) (fun t => quiet t ∧ SameMemory s t
          ∧ ∃ z k, OnlyS s t d z ∧ t.ctx.delay = some k ∧ k.left = 2))
      ∧ (f.isFL = true → ∀ i ∈ [Instr.vfma f v x y q, .vfms f v x y q, .vfnma f v x y q], writes i)
      ∧ (f = .f32 ∨ f = .bf16 → ∀ i ∈ [Instr.vexp2 f v x q, .vlog2 f v x q, .vrcp f v x q, .vrsqrt f v x q, .vsqrt f v x q,
          .vdiv f v x y q], writes i)

/-- What the register maps give as reset values: PTIME and the PCRs are 0 (24 R374, R378, R379), SLOTA and SLOTB
0xAAAA_AAAA_AAAA_AAAA (18 R303), SVC.MODE 1 (R309), AGE.US 1000 (R306), PRE.KILL 0xFFFF_FFFF and PRE.DRAIN 65,536 (R311), the queues'
LOG2N 4 and their other registers 0 (R299), the fault queue's 0 (R308), DUTY 0 (R314), MSCALH0 and MSCALH1 the calendar's (R315),
ASTBASE 0 (19 R317), CKBASE 0 (R337), the calendar that of 21 R347, RETIRE 0 (R358), receive windows 0 (23 R368). Every line of
HBM is sealed with tag 0 (04 R97). -/
def Obligations.ResetValues : Prop :=
  let s := State.reset
  s.ptime = 0 ∧ (∀ i, i < 8 → vget 0 s.pkg.pcr i = 0) ∧ s.pkg.mbSts = 0 ∧ s.pkg.duty = 0
    ∧ (∀ k, (s.coreAt k).slotA = 0xAAAAAAAAAAAAAAAA ∧ (s.coreAt k).slotB = 0xAAAAAAAAAAAAAAAA)
    ∧ (∀ p, let d := s.partAt p
        d.mode = 1 ∧ d.ageUs = 1000 ∧ d.kill = 0xFFFFFFFF ∧ d.drain = 65536 ∧ d.grp = 0 ∧ d.fqBase = 0 ∧ d.fqHead = 0 ∧ d.fqTail = 0
          ∧ d.svcMode = 0 ∧ d.svcReq = false ∧ d.svcErr = false ∧ d.astBase = 0 ∧ d.nas = 0 ∧ d.ckBase = 0 ∧ d.ckCount = 0 ∧ d.cl = 0 ∧ d.pcg = 0
          ∧ (∀ w, let x := tget { base := 0, w := false, r := false, pages := 0 } d.rx w; x.base = 0 ∧ x.pages = 0 ∧ x.w = false ∧ x.r = false)
          ∧ ∀ q, let u := d.queueAt q
              u.base = 0 ∧ u.en = false ∧ u.own = false ∧ u.log2n = 4 ∧ u.rank = 0 ∧ u.tail = 0 ∧ u.head = 0 ∧ u.cbase = 0
                ∧ u.ctail = 0 ∧ u.chead = 0)
    ∧ (let c := s.pkg.cal
       c.bgper = 2340 ∧ c.bglen = 144 ∧ c.bgstep = 288 ∧ c.bgph = 12 ∧ c.hot = false ∧ c.mjlog = 20 ∧ c.mjlen = 1536 ∧ c.swlog = 16
        ∧ c.swlen = 64 ∧ c.ablen = 420 ∧ c.defmax = 8 ∧ c.lead = 48)
    ∧ s.pkg.retirePch = 0 ∧ s.pkg.retireReq = [] ∧ s.pkg.retireErr = false ∧ s.pkg.mscalh0 = s.pkg.cal.word0 ∧ s.pkg.mscalh1 = s.pkg.cal.word1
    ∧ ∀ l, tget 0x1000 s.tags l = 0x1000

/-- The machine right after reset meets the invariants that every step keeps.
Where the spec leaves the point open this is the model's choice: log 1 and 2. -/
def Obligations.ResetInvariants : Prop := Canonical State.reset ∧ Tables State.reset

/-- Words written out from the encodings of 06 R123 to R126, 07 R144, R150, 08 R175, R198, 09 R214, R219, 10 R223, R231, R253
are the instructions that they stand for, each in its slot. -/
def Obligations.WordsDecode : Prop :=
  decodeSlot .sa 0b000000_00011_00001_00010_00000_000_000#32 = .ok (.add 3 1 2 false)
    ∧ decodeSlot .sb 0b000000_00011_00001_00010_00000_000_000#32 = .ok (.add 3 1 2 false)
    ∧ decodeSlot .sa 0b010000_001_1_0000000000000000000101#32 = .ok (.br 1 true 5)
    ∧ decodeSlot .sb 0b010000_001_1_0000000000000000000101#32 = .error .wrongSlot
    ∧ decodeSlot .sb 0b101010_00100_00101_0000000000001000#32 = .ok (.ldW 4 5 8)
    ∧ decodeSlot .v 0b000000_101_00001_00010_00011_000_00001#32 = .ok (.vadd .i32 1 2 3 0 true)
    ∧ decodeSlot .v 0b000000_000_00001_00010_00011_000_00001#32 = .error .reserved
    ∧ decodeSlot .x 0b000100_00000_00000_0000000000000001#32 = .ok (.xwid .w16)
    ∧ decodeSlot .k 0b000000_01_00010_00000011_00000100_000#32 = .ok (.kld 1 2 3 4)
    ∧ decodeSlot .m 0b000000_000_001_010_00011_00100_01_1_00_00#32 = .ok (.mma .bf16 .f16 2 3 4 1 true 0 0)
    ∧ decodeSlot .l 0b000000_00001_00010_011_1111111111111#32 = .ok (.vld 1 2 3 0x1FFF)
    ∧ decodeSlot .e 0b000001_00011_00000_0000000000000010#32 = .ok (.cbfree 3 2)
    ∧ decodeSlot .e 0b001001_00011_00000_0000000000000010#32 = .error .unassigned

/-- 06 R123 to R127: every well-formed instruction is read back from its word in each slot that may hold it, with every
operand at every value; and a word that is read as an instruction is that instruction's word, which is well formed. -/
def Obligations.DecodingAndEncodingAgree : Prop :=
  (∀ (i : Instr) (sl : Slot), i.inSlot sl = true → i.wellFormed = true → decodeSlot sl (encode i) = .ok i)
    ∧ ∀ (sl : Slot) (w : SlotWord) (i : Instr), decodeSlot sl w = .ok i → i.inSlot sl = true ∧ i.wellFormed = true ∧ encode i = w

/-- Every step keeps memory and every scratchpad in the one form in which equal memories are equal data, and every context
once in the table of contexts, in states that a run reaches and in all others.
Where the spec leaves the point open this is the model's choice: log 1 and 5. -/
def Obligations.StepsKeepInvariants : Prop :=
  (∀ s t : State, Canonical s → step s = .next t → Canonical t) ∧ ∀ s t : State, Tables s → step s = .next t → Tables t
end

