-- ==== Sys2Proof/Laws/Memory.lean ====
section
/-! SUPPORT. Memory: a byte read after a write, and the canonical form, which every memory operation keeps. -/

namespace Sys2Proof.Machine

/-! ### The canonical form -/

/-- Every listed address lies above `k`. -/
def above (k : Nat) (m : List Host.Cell) : Prop := ∀ e ∈ m, k < e.1

/-- The form, cell by cell: no listed byte is zero, and every later address lies above. -/
theorem wf_cons (a : Nat) (b : Byte) (m : List Host.Cell) :
    Memory.wf ((a, b) :: m) = true ↔ b ≠ 0 ∧ above a m ∧ Memory.wf m = true := by
  induction m generalizing a b with
  | nil => simp [Memory.wf, above]
  | cons e m ih =>
    obtain ⟨a', b'⟩ := e
    simp only [Memory.wf, Bool.and_eq_true, decide_eq_true_eq, bne_iff_ne]
    constructor
    · rintro ⟨⟨hb, ha⟩, hm⟩
      refine ⟨hb, ?_, hm⟩
      intro e he
      rcases List.mem_cons.1 he with rfl | he
      · exact ha
      · exact Nat.lt_trans ha (((ih a' b').1 hm).2.1 e he)
    · rintro ⟨hb, ha, hm⟩
      exact ⟨⟨hb, ha _ (List.mem_cons_self ..)⟩, hm⟩

theorem wf_nil : Memory.wf [] = true := rfl

/-- A write lists no address but its own and those that stood. -/
theorem above_memSet {k a : Nat} {v : Byte} {m : List Host.Cell} (h : above k m) (ha : k < a) : above k (memSet m a v) := by
  induction m with
  | nil => unfold memSet; split <;> simp [above, ha]
  | cons e m ih =>
    obtain ⟨a', b'⟩ := e
    have h1 : k < a' := h _ (List.mem_cons_self ..)
    have h2 : above k m := fun e he => h e (List.mem_cons_of_mem _ he)
    unfold memSet
    split <;> (try split) <;> (try split) <;> simp only [above, List.mem_cons, forall_eq_or_imp] <;> (try exact ⟨ha, h1, h2⟩)
      <;> (try exact ⟨h1, h2⟩) <;> (try exact ⟨ha, h2⟩) <;> (try exact h2)
    exact ⟨h1, ih h2⟩

theorem wf_memSet {m : List Host.Cell} (h : Memory.wf m = true) (a : Nat) (v : Byte) : Memory.wf (memSet m a v) = true := by
  induction m with
  | nil => unfold memSet; split <;> simp_all [Memory.wf]
  | cons e m ih =>
    obtain ⟨a', b'⟩ := e
    obtain ⟨h1, h2, h3⟩ := (wf_cons a' b' m).1 h
    unfold memSet
    split
    · split
      · exact h
      · exact (wf_cons ..).2 ⟨‹_›, fun e he => (List.mem_cons.1 he).elim (fun e' => e' ▸ ‹a < a'›)
          (fun he => Nat.lt_trans ‹a < a'› (h2 e he)), h⟩
    · split
      · subst_vars
        split
        · exact h3
        · exact (wf_cons ..).2 ⟨‹_›, h2, h3⟩
      · exact (wf_cons ..).2 ⟨h1, above_memSet h2 (by omega), ih h3⟩

theorem wf_memWrite {m : List Host.Cell} (h : Memory.wf m = true) (a : Nat) (bs : List Byte) :
    Memory.wf (memWrite m a bs) = true := by
  induction bs generalizing m a with
  | nil => exact h
  | cons b bs ih => exact ih (wf_memSet h a b) (a + 1)

theorem wf_memMask {m : List Host.Cell} (h : Memory.wf m = true) (l : Nat) (d : Line) (k : BitVec 64) (n : Nat) :
    Memory.wf (memMask m l d k n) = true := by
  induction n generalizing m with
  | zero => exact h
  | succ n ih =>
    unfold memMask
    apply ih
    split
    · exact wf_memSet h _ _
    · exact h

theorem wf_memWriteLine {m : List Host.Cell} (h : Memory.wf m = true) (l : Nat) (d : Line) (k : BitVec 64) :
    Memory.wf (memWriteLine m l d k) = true := wf_memMask h l d k 64

/-! ### A byte read after a write -/

theorem memByte_above {k : Nat} {m : List Host.Cell} (h : above k m) {a : Nat} (ha : a ≤ k) : memByte m a = 0 := by
  induction m with
  | nil => rfl
  | cons e m ih =>
    obtain ⟨a', b'⟩ := e
    have h1 : k < a' := h _ (List.mem_cons_self ..)
    unfold memByte
    rw [if_neg (by omega)]
    exact ih (fun e he => h e (List.mem_cons_of_mem _ he))

theorem ite_self_zero (p : Prop) [Decidable p] (j : Nat) : memByte [] j = if p then (0 : Byte) else memByte [] j := by
  split <;> rfl

theorem ite_eq_comm (a j : Nat) (x y : Byte) : (if a = j then x else y) = if j = a then x else y := by
  by_cases h : a = j
  · rw [if_pos h, if_pos h.symm]
  · rw [if_neg h, if_neg (fun q => h q.symm)]

theorem memByte_cons (a : Nat) (b : Byte) (m : List Host.Cell) (j : Nat) :
    memByte ((a, b) :: m) j = if a = j then b else memByte m j := rfl

/-- The byte at `j` after a write of `v` at `a`. -/
theorem memByte_memSet {m : List Host.Cell} (h : Memory.wf m = true) (a : Nat) (v : Byte) (j : Nat) :
    memByte (memSet m a v) j = if j = a then v else memByte m j := by
  induction m with
  | nil =>
    unfold memSet
    by_cases hv : v = 0
    · rw [if_pos hv, hv]; exact ite_self_zero ..
    · rw [if_neg hv, memByte_cons, ite_eq_comm]
  | cons e m ih =>
    obtain ⟨a', b'⟩ := e
    obtain ⟨h1, h2, h3⟩ := (wf_cons a' b' m).1 h
    unfold memSet
    by_cases hlt : a < a'
    · rw [if_pos hlt]
      by_cases hv : v = 0
      · rw [if_pos hv]
        by_cases hj : j = a
        · rw [if_pos hj, memByte_cons, if_neg (by omega), memByte_above h2 (by omega), hv]
        · rw [if_neg hj]
      · rw [if_neg hv, memByte_cons, ite_eq_comm]
    · rw [if_neg hlt]
      by_cases he : a = a'
      · rw [if_pos he]
        by_cases hv : v = 0
        · rw [if_pos hv, memByte_cons]
          by_cases hj : j = a
          · rw [if_pos hj, memByte_above h2 (by omega), hv]
          · rw [if_neg hj, if_neg (by omega)]
        · rw [if_neg hv, memByte_cons, memByte_cons]
          by_cases hj : j = a
          · rw [if_pos hj, if_pos hj.symm]
          · rw [if_neg hj, if_neg (by omega), if_neg (by omega)]
      · rw [if_neg he, memByte_cons, memByte_cons, ih h3]
        by_cases hj : a' = j
        · rw [if_pos hj, if_neg (by omega), if_pos hj]
        · rw [if_neg hj, if_neg hj]

/-- Two memories in canonical form that read alike are equal. -/
theorem wf_ext {m n : List Host.Cell} (hm : Memory.wf m = true) (hn : Memory.wf n = true)
    (h : ∀ a, memByte m a = memByte n a) : m = n := by
  induction m generalizing n with
  | nil =>
    cases n with
    | nil => rfl
    | cons e n =>
      obtain ⟨a, b⟩ := e
      have := h a
      simp only [memByte, if_true] at this
      exact absurd this.symm ((wf_cons a b n).1 hn).1
  | cons e m ih =>
    obtain ⟨a, b⟩ := e
    obtain ⟨h1, h2, h3⟩ := (wf_cons a b m).1 hm
    cases n with
    | nil =>
      have := h a
      simp only [memByte, if_true] at this
      exact absurd this h1
    | cons e n =>
      obtain ⟨a', b'⟩ := e
      obtain ⟨g1, g2, g3⟩ := (wf_cons a' b' n).1 hn
      have ha : a = a' := by
        rcases Nat.lt_trichotomy a a' with lt | eq | gt
        · have := h a
          simp only [memByte, if_true] at this
          rw [if_neg (by omega), memByte_above g2 (by omega)] at this
          exact absurd this h1
        · exact eq
        · have := h a'
          simp only [memByte, if_true] at this
          rw [if_neg (by omega), memByte_above h2 (by omega)] at this
          exact absurd this.symm g1
      subst ha
      have hb : b = b' := by have := h a; simpa [memByte] using this
      subst hb
      congr 1
      refine ih h3 g3 (fun j => ?_)
      by_cases hj : j ≤ a
      · rw [memByte_above h2 hj, memByte_above g2 hj]
      · have := h j
        simp only [memByte] at this
        rwa [if_neg (by omega), if_neg (by omega)] at this

/-- The byte at `j` after a write of bytes from `a` on. -/
theorem memByte_memWrite {m : List Host.Cell} (h : Memory.wf m = true) (a : Nat) (bs : List Byte) (j : Nat) :
    memByte (memWrite m a bs) j = if a ≤ j ∧ j < a + bs.length then bs.getD (j - a) 0 else memByte m j := by
  induction bs generalizing m a with
  | nil => rw [if_neg (by simp only [List.length_nil]; omega)]; rfl
  | cons b bs ih =>
    rw [memWrite, ih (wf_memSet h a b), memByte_memSet h]
    simp only [List.length_cons]
    by_cases h1 : j = a
    · subst h1
      rw [if_neg (by omega), if_pos rfl, if_pos (by omega)]
      simp
    · by_cases h2 : a + 1 ≤ j ∧ j < a + 1 + bs.length
      · rw [if_pos h2, if_pos (by omega)]
        rw [show j - a = (j - (a + 1)) + 1 by omega]
        simp
      · rw [if_neg h2, if_neg h1, if_neg (by omega)]

/-- Bytes outside a write stay. -/
theorem memByte_memWrite_of_not {m : List Host.Cell} (h : Memory.wf m = true) (a : Nat) (bs : List Byte) (j : Nat)
    (hj : j < a ∨ a + bs.length ≤ j) : memByte (memWrite m a bs) j = memByte m j := by
  rw [memByte_memWrite h, if_neg (by omega)]

/-- The byte at `j` after a masked write of a line. -/
theorem memByte_memMask {m : List Host.Cell} (h : Memory.wf m = true) (l : Nat) (d : Line) (k : BitVec 64) (n : Nat)
    (hn : n ≤ 64) (j : Nat) :
    memByte (memMask m l d k n) j =
      if 64 * l + (64 - n) ≤ j ∧ j < 64 * l + 64 ∧ getB k (j - 64 * l) = true then d.extractLsb' (8 * (j - 64 * l)) 8 else memByte m j := by
  induction n generalizing m with
  | zero => rw [memMask, if_neg (by omega)]
  | succ n ih =>
    unfold memMask
    dsimp only
    by_cases hk : getB k (63 - n) = true
    · rw [if_pos hk, ih (wf_memSet h _ _) (by omega), memByte_memSet h]
      by_cases hj : j = 64 * l + (63 - n)
      · subst hj
        rw [if_neg (by omega), if_pos rfl, if_pos ⟨by omega, by omega, by simpa using hk⟩]
        simp
      · rw [if_neg hj]
        by_cases hc : 64 * l + (64 - n) ≤ j ∧ j < 64 * l + 64 ∧ getB k (j - 64 * l) = true
        · rw [if_pos hc, if_pos ⟨by omega, hc.2⟩]
        · rw [if_neg hc, if_neg (fun q => hc ⟨by omega, q.2⟩)]
    · rw [if_neg hk, ih h (by omega)]
      by_cases hc : 64 * l + (64 - n) ≤ j ∧ j < 64 * l + 64 ∧ getB k (j - 64 * l) = true
      · rw [if_pos hc, if_pos ⟨by omega, hc.2⟩]
      · rw [if_neg hc, if_neg]
        rintro ⟨q1, q2, q3⟩
        by_cases hj : j = 64 * l + (63 - n)
        · subst hj
          simp at q3
          exact hk q3
        · exact hc ⟨by omega, q2, q3⟩

/-- The byte at `j` after a masked write of line `l`. -/
theorem memByte_memWriteLine {m : List Host.Cell} (h : Memory.wf m = true) (l : Nat) (d : Line) (k : BitVec 64) (j : Nat) :
    memByte (memWriteLine m l d k) j =
      if 64 * l ≤ j ∧ j < 64 * l + 64 ∧ getB k (j - 64 * l) = true then d.extractLsb' (8 * (j - 64 * l)) 8 else memByte m j := by
  rw [memWriteLine, memByte_memMask h l d k 64 (Nat.le_refl _)]
  simp

/-! ### A store to a scratchpad (02 R40, 04 R97) -/

/-- A store that a bank serves keeps the scratchpad's form. -/
theorem wf_serve {k : Core} (h : Memory.wf k.scratch = true) (now cx order l : Nat) (d : Line) (m : BitVec 64) :
    Memory.wf (k.serve now cx order l d m).scratch = true := wf_memWriteLine h l d _

/-- A byte of the scratchpad after a store: one of the line that the store names, and that no later place of the bank order
has written in this cycle, is the store's, and every other one stays. -/
theorem memByte_serve {k : Core} (h : Memory.wf k.scratch = true) (now cx order l : Nat) (d : Line) (m : BitVec 64) (j : Nat) :
    memByte (k.serve now cx order l d m).scratch j =
      if 64 * l ≤ j ∧ j < 64 * l + 64 ∧ getB (m &&& ~~~k.later now cx order l) (j - 64 * l) = true then
        d.extractLsb' (8 * (j - 64 * l)) 8 else memByte k.scratch j := memByte_memWriteLine h l d _ j

/-- With no store to the scratchpad before it in this cycle, none comes later in the bank order. -/
theorem later_of_first {k : Core} {now : Nat} (h : k.servedT ≠ now) (cx order l : Nat) : k.later now cx order l = 0 := by
  simp [Core.later, h]

end Sys2Proof.Machine
end

