-- ==== Sys2Proof/Laws/State.lean ====
section
/-! SUPPORT. What each update of the state leaves of each of its parts. -/

namespace Sys2Proof.Machine

/-! ### Tables -/

theorem tget_tset {α : Type} (d : α) (t : Tbl α) (k j : Nat) (a : α) :
    tget d (tset t k a) j = if j = k then a else tget d t j := by
  induction t with
  | nil => simp only [tset, tget, eq_comm]
  | cons e t ih =>
    obtain ⟨i, b⟩ := e
    simp only [tset]
    by_cases h : i = k
    · subst h
      simp only [if_pos, tget]
      by_cases hj : i = j
      · simp [hj]
      · simp [hj, Ne.symm hj]
    · rw [if_neg h]
      simp only [tget, ih]
      by_cases hj : i = j
      · subst hj; simp [h]
      · simp [hj]

@[simp] theorem tget_tset_same {α : Type} (d : α) (t : Tbl α) (k : Nat) (a : α) : tget d (tset t k a) k = a := by
  rw [tget_tset, if_pos rfl]

theorem tget_tset_other {α : Type} (d : α) (t : Tbl α) {k j : Nat} (a : α) (h : j ≠ k) :
    tget d (tset t k a) j = tget d t j := by
  rw [tget_tset, if_neg h]

/-! ### The parts that an update names -/

namespace State

@[simp] theorem ctxAt_setCtxAt (s : State) (i : Nat) (c : Ctx) : (s.setCtxAt i c).ctxAt i = c := tget_tset_same ..
@[simp] theorem ctxAt_modCtxAt (s : State) (i : Nat) (f : Ctx → Ctx) : (s.modCtxAt i f).ctxAt i = f (s.ctxAt i) :=
  tget_tset_same ..
theorem ctxAt_modCtxAt_other (s : State) {i j : Nat} (f : Ctx → Ctx) (h : j ≠ i) : (s.modCtxAt i f).ctxAt j = s.ctxAt j :=
  tget_tset_other _ _ _ h
@[simp] theorem ctx_modCtx (s : State) (f : Ctx → Ctx) : (s.modCtx f).ctx = f s.ctx := tget_tset_same ..
@[simp] theorem ctxAt_cur_modCtx (s : State) (f : Ctx → Ctx) : (s.modCtx f).ctxAt s.cur = f s.ctx := tget_tset_same ..
theorem ctxAt_modCtx_other (s : State) {j : Nat} (f : Ctx → Ctx) (h : j ≠ s.cur) : (s.modCtx f).ctxAt j = s.ctxAt j :=
  tget_tset_other _ _ _ h
@[simp] theorem coreAt_modCoreAt (s : State) (k : Nat) (f : Core → Core) : (s.modCoreAt k f).coreAt k = f (s.coreAt k) :=
  tget_tset_same ..
@[simp] theorem dieAt_modDieAt (s : State) (d : Nat) (f : Die → Die) : (s.modDieAt d f).dieAt d = f (s.dieAt d) :=
  tget_tset_same ..
@[simp] theorem partAt_modPartAt (s : State) (p : Nat) (f : Part → Part) : (s.modPartAt p f).partAt p = f (s.partAt p) :=
  tget_tset_same ..
@[simp] theorem pkg_modPkg (s : State) (f : Package → Package) : (s.modPkg f).pkg = f s.pkg := rfl
@[simp] theorem issue_modIssue (s : State) (f : Issue → Issue) : (s.modIssue f).issue = f s.issue := rfl
theorem ctx_eq (s : State) : s.ctx = s.ctxAt s.cur := rfl

/-! ### Every other part -/

@[simp] theorem setCtxAt_ptime (s : State) (i : Nat) (c : Ctx) : (s.setCtxAt i c).ptime = s.ptime := rfl
@[simp] theorem setCtxAt_cur (s : State) (i : Nat) (c : Ctx) : (s.setCtxAt i c).cur = s.cur := rfl
@[simp] theorem setCtxAt_issue (s : State) (i : Nat) (c : Ctx) : (s.setCtxAt i c).issue = s.issue := rfl
@[simp] theorem setCtxAt_cores (s : State) (i : Nat) (c : Ctx) : (s.setCtxAt i c).cores = s.cores := rfl
@[simp] theorem setCtxAt_dies (s : State) (i : Nat) (c : Ctx) : (s.setCtxAt i c).dies = s.dies := rfl
@[simp] theorem setCtxAt_mem (s : State) (i : Nat) (c : Ctx) : (s.setCtxAt i c).mem = s.mem := rfl
@[simp] theorem setCtxAt_tags (s : State) (i : Nat) (c : Ctx) : (s.setCtxAt i c).tags = s.tags := rfl
@[simp] theorem setCtxAt_parts (s : State) (i : Nat) (c : Ctx) : (s.setCtxAt i c).parts = s.parts := rfl
@[simp] theorem setCtxAt_colls (s : State) (i : Nat) (c : Ctx) : (s.setCtxAt i c).colls = s.colls := rfl
@[simp] theorem setCtxAt_pkg (s : State) (i : Nat) (c : Ctx) : (s.setCtxAt i c).pkg = s.pkg := rfl
@[simp] theorem setCtxAt_agenda (s : State) (i : Nat) (c : Ctx) : (s.setCtxAt i c).agenda = s.agenda := rfl
@[simp] theorem setCtxAt_issueQ (s : State) (i : Nat) (c : Ctx) : (s.setCtxAt i c).issueQ = s.issueQ := rfl
@[simp] theorem setCtxAt_late (s : State) (i : Nat) (c : Ctx) : (s.setCtxAt i c).late = s.late := rfl
@[simp] theorem setCtxAt_free (s : State) (i : Nat) (c : Ctx) : (s.setCtxAt i c).free = s.free := rfl
@[simp] theorem setCtxAt_noRoom (s : State) (i : Nat) (c : Ctx) : (s.setCtxAt i c).noRoom = s.noRoom := rfl

@[simp] theorem modCtxAt_ptime (s : State) (i : Nat) (f : Ctx → Ctx) : (s.modCtxAt i f).ptime = s.ptime := rfl
@[simp] theorem modCtxAt_cur (s : State) (i : Nat) (f : Ctx → Ctx) : (s.modCtxAt i f).cur = s.cur := rfl
@[simp] theorem modCtxAt_issue (s : State) (i : Nat) (f : Ctx → Ctx) : (s.modCtxAt i f).issue = s.issue := rfl
@[simp] theorem modCtxAt_cores (s : State) (i : Nat) (f : Ctx → Ctx) : (s.modCtxAt i f).cores = s.cores := rfl
@[simp] theorem modCtxAt_dies (s : State) (i : Nat) (f : Ctx → Ctx) : (s.modCtxAt i f).dies = s.dies := rfl
@[simp] theorem modCtxAt_mem (s : State) (i : Nat) (f : Ctx → Ctx) : (s.modCtxAt i f).mem = s.mem := rfl
@[simp] theorem modCtxAt_tags (s : State) (i : Nat) (f : Ctx → Ctx) : (s.modCtxAt i f).tags = s.tags := rfl
@[simp] theorem modCtxAt_parts (s : State) (i : Nat) (f : Ctx → Ctx) : (s.modCtxAt i f).parts = s.parts := rfl
@[simp] theorem modCtxAt_colls (s : State) (i : Nat) (f : Ctx → Ctx) : (s.modCtxAt i f).colls = s.colls := rfl
@[simp] theorem modCtxAt_pkg (s : State) (i : Nat) (f : Ctx → Ctx) : (s.modCtxAt i f).pkg = s.pkg := rfl
@[simp] theorem modCtxAt_agenda (s : State) (i : Nat) (f : Ctx → Ctx) : (s.modCtxAt i f).agenda = s.agenda := rfl
@[simp] theorem modCtxAt_issueQ (s : State) (i : Nat) (f : Ctx → Ctx) : (s.modCtxAt i f).issueQ = s.issueQ := rfl
@[simp] theorem modCtxAt_late (s : State) (i : Nat) (f : Ctx → Ctx) : (s.modCtxAt i f).late = s.late := rfl
@[simp] theorem modCtxAt_free (s : State) (i : Nat) (f : Ctx → Ctx) : (s.modCtxAt i f).free = s.free := rfl
@[simp] theorem modCtxAt_noRoom (s : State) (i : Nat) (f : Ctx → Ctx) : (s.modCtxAt i f).noRoom = s.noRoom := rfl

@[simp] theorem modCtx_ptime (s : State) (f : Ctx → Ctx) : (s.modCtx f).ptime = s.ptime := rfl
@[simp] theorem modCtx_cur (s : State) (f : Ctx → Ctx) : (s.modCtx f).cur = s.cur := rfl
@[simp] theorem modCtx_issue (s : State) (f : Ctx → Ctx) : (s.modCtx f).issue = s.issue := rfl
@[simp] theorem modCtx_cores (s : State) (f : Ctx → Ctx) : (s.modCtx f).cores = s.cores := rfl
@[simp] theorem modCtx_dies (s : State) (f : Ctx → Ctx) : (s.modCtx f).dies = s.dies := rfl
@[simp] theorem modCtx_mem (s : State) (f : Ctx → Ctx) : (s.modCtx f).mem = s.mem := rfl
@[simp] theorem modCtx_tags (s : State) (f : Ctx → Ctx) : (s.modCtx f).tags = s.tags := rfl
@[simp] theorem modCtx_parts (s : State) (f : Ctx → Ctx) : (s.modCtx f).parts = s.parts := rfl
@[simp] theorem modCtx_colls (s : State) (f : Ctx → Ctx) : (s.modCtx f).colls = s.colls := rfl
@[simp] theorem modCtx_pkg (s : State) (f : Ctx → Ctx) : (s.modCtx f).pkg = s.pkg := rfl
@[simp] theorem modCtx_agenda (s : State) (f : Ctx → Ctx) : (s.modCtx f).agenda = s.agenda := rfl
@[simp] theorem modCtx_issueQ (s : State) (f : Ctx → Ctx) : (s.modCtx f).issueQ = s.issueQ := rfl
@[simp] theorem modCtx_late (s : State) (f : Ctx → Ctx) : (s.modCtx f).late = s.late := rfl
@[simp] theorem modCtx_free (s : State) (f : Ctx → Ctx) : (s.modCtx f).free = s.free := rfl
@[simp] theorem modCtx_noRoom (s : State) (f : Ctx → Ctx) : (s.modCtx f).noRoom = s.noRoom := rfl

@[simp] theorem modCoreAt_ptime (s : State) (k : Nat) (f : Core → Core) : (s.modCoreAt k f).ptime = s.ptime := rfl
@[simp] theorem modCoreAt_cur (s : State) (k : Nat) (f : Core → Core) : (s.modCoreAt k f).cur = s.cur := rfl
@[simp] theorem modCoreAt_issue (s : State) (k : Nat) (f : Core → Core) : (s.modCoreAt k f).issue = s.issue := rfl
@[simp] theorem modCoreAt_ctxs (s : State) (k : Nat) (f : Core → Core) : (s.modCoreAt k f).ctxs = s.ctxs := rfl
@[simp] theorem modCoreAt_dies (s : State) (k : Nat) (f : Core → Core) : (s.modCoreAt k f).dies = s.dies := rfl
@[simp] theorem modCoreAt_mem (s : State) (k : Nat) (f : Core → Core) : (s.modCoreAt k f).mem = s.mem := rfl
@[simp] theorem modCoreAt_tags (s : State) (k : Nat) (f : Core → Core) : (s.modCoreAt k f).tags = s.tags := rfl
@[simp] theorem modCoreAt_parts (s : State) (k : Nat) (f : Core → Core) : (s.modCoreAt k f).parts = s.parts := rfl
@[simp] theorem modCoreAt_colls (s : State) (k : Nat) (f : Core → Core) : (s.modCoreAt k f).colls = s.colls := rfl
@[simp] theorem modCoreAt_pkg (s : State) (k : Nat) (f : Core → Core) : (s.modCoreAt k f).pkg = s.pkg := rfl
@[simp] theorem modCoreAt_agenda (s : State) (k : Nat) (f : Core → Core) : (s.modCoreAt k f).agenda = s.agenda := rfl
@[simp] theorem modCoreAt_issueQ (s : State) (k : Nat) (f : Core → Core) : (s.modCoreAt k f).issueQ = s.issueQ := rfl
@[simp] theorem modCoreAt_late (s : State) (k : Nat) (f : Core → Core) : (s.modCoreAt k f).late = s.late := rfl
@[simp] theorem modCoreAt_free (s : State) (k : Nat) (f : Core → Core) : (s.modCoreAt k f).free = s.free := rfl
@[simp] theorem modCoreAt_noRoom (s : State) (k : Nat) (f : Core → Core) : (s.modCoreAt k f).noRoom = s.noRoom := rfl

@[simp] theorem modDieAt_ptime (s : State) (d : Nat) (f : Die → Die) : (s.modDieAt d f).ptime = s.ptime := rfl
@[simp] theorem modDieAt_cur (s : State) (d : Nat) (f : Die → Die) : (s.modDieAt d f).cur = s.cur := rfl
@[simp] theorem modDieAt_issue (s : State) (d : Nat) (f : Die → Die) : (s.modDieAt d f).issue = s.issue := rfl
@[simp] theorem modDieAt_ctxs (s : State) (d : Nat) (f : Die → Die) : (s.modDieAt d f).ctxs = s.ctxs := rfl
@[simp] theorem modDieAt_cores (s : State) (d : Nat) (f : Die → Die) : (s.modDieAt d f).cores = s.cores := rfl
@[simp] theorem modDieAt_mem (s : State) (d : Nat) (f : Die → Die) : (s.modDieAt d f).mem = s.mem := rfl
@[simp] theorem modDieAt_tags (s : State) (d : Nat) (f : Die → Die) : (s.modDieAt d f).tags = s.tags := rfl
@[simp] theorem modDieAt_parts (s : State) (d : Nat) (f : Die → Die) : (s.modDieAt d f).parts = s.parts := rfl
@[simp] theorem modDieAt_colls (s : State) (d : Nat) (f : Die → Die) : (s.modDieAt d f).colls = s.colls := rfl
@[simp] theorem modDieAt_pkg (s : State) (d : Nat) (f : Die → Die) : (s.modDieAt d f).pkg = s.pkg := rfl
@[simp] theorem modDieAt_agenda (s : State) (d : Nat) (f : Die → Die) : (s.modDieAt d f).agenda = s.agenda := rfl
@[simp] theorem modDieAt_issueQ (s : State) (d : Nat) (f : Die → Die) : (s.modDieAt d f).issueQ = s.issueQ := rfl
@[simp] theorem modDieAt_late (s : State) (d : Nat) (f : Die → Die) : (s.modDieAt d f).late = s.late := rfl
@[simp] theorem modDieAt_free (s : State) (d : Nat) (f : Die → Die) : (s.modDieAt d f).free = s.free := rfl
@[simp] theorem modDieAt_noRoom (s : State) (d : Nat) (f : Die → Die) : (s.modDieAt d f).noRoom = s.noRoom := rfl

@[simp] theorem modPartAt_ptime (s : State) (p : Nat) (f : Part → Part) : (s.modPartAt p f).ptime = s.ptime := rfl
@[simp] theorem modPartAt_cur (s : State) (p : Nat) (f : Part → Part) : (s.modPartAt p f).cur = s.cur := rfl
@[simp] theorem modPartAt_issue (s : State) (p : Nat) (f : Part → Part) : (s.modPartAt p f).issue = s.issue := rfl
@[simp] theorem modPartAt_ctxs (s : State) (p : Nat) (f : Part → Part) : (s.modPartAt p f).ctxs = s.ctxs := rfl
@[simp] theorem modPartAt_cores (s : State) (p : Nat) (f : Part → Part) : (s.modPartAt p f).cores = s.cores := rfl
@[simp] theorem modPartAt_dies (s : State) (p : Nat) (f : Part → Part) : (s.modPartAt p f).dies = s.dies := rfl
@[simp] theorem modPartAt_mem (s : State) (p : Nat) (f : Part → Part) : (s.modPartAt p f).mem = s.mem := rfl
@[simp] theorem modPartAt_tags (s : State) (p : Nat) (f : Part → Part) : (s.modPartAt p f).tags = s.tags := rfl
@[simp] theorem modPartAt_colls (s : State) (p : Nat) (f : Part → Part) : (s.modPartAt p f).colls = s.colls := rfl
@[simp] theorem modPartAt_pkg (s : State) (p : Nat) (f : Part → Part) : (s.modPartAt p f).pkg = s.pkg := rfl
@[simp] theorem modPartAt_agenda (s : State) (p : Nat) (f : Part → Part) : (s.modPartAt p f).agenda = s.agenda := rfl
@[simp] theorem modPartAt_issueQ (s : State) (p : Nat) (f : Part → Part) : (s.modPartAt p f).issueQ = s.issueQ := rfl
@[simp] theorem modPartAt_late (s : State) (p : Nat) (f : Part → Part) : (s.modPartAt p f).late = s.late := rfl
@[simp] theorem modPartAt_free (s : State) (p : Nat) (f : Part → Part) : (s.modPartAt p f).free = s.free := rfl
@[simp] theorem modPartAt_noRoom (s : State) (p : Nat) (f : Part → Part) : (s.modPartAt p f).noRoom = s.noRoom := rfl

@[simp] theorem modPkg_ptime (s : State) (f : Package → Package) : (s.modPkg f).ptime = s.ptime := rfl
@[simp] theorem modPkg_cur (s : State) (f : Package → Package) : (s.modPkg f).cur = s.cur := rfl
@[simp] theorem modPkg_issue (s : State) (f : Package → Package) : (s.modPkg f).issue = s.issue := rfl
@[simp] theorem modPkg_ctxs (s : State) (f : Package → Package) : (s.modPkg f).ctxs = s.ctxs := rfl
@[simp] theorem modPkg_cores (s : State) (f : Package → Package) : (s.modPkg f).cores = s.cores := rfl
@[simp] theorem modPkg_dies (s : State) (f : Package → Package) : (s.modPkg f).dies = s.dies := rfl
@[simp] theorem modPkg_mem (s : State) (f : Package → Package) : (s.modPkg f).mem = s.mem := rfl
@[simp] theorem modPkg_tags (s : State) (f : Package → Package) : (s.modPkg f).tags = s.tags := rfl
@[simp] theorem modPkg_parts (s : State) (f : Package → Package) : (s.modPkg f).parts = s.parts := rfl
@[simp] theorem modPkg_colls (s : State) (f : Package → Package) : (s.modPkg f).colls = s.colls := rfl
@[simp] theorem modPkg_agenda (s : State) (f : Package → Package) : (s.modPkg f).agenda = s.agenda := rfl
@[simp] theorem modPkg_issueQ (s : State) (f : Package → Package) : (s.modPkg f).issueQ = s.issueQ := rfl
@[simp] theorem modPkg_late (s : State) (f : Package → Package) : (s.modPkg f).late = s.late := rfl
@[simp] theorem modPkg_free (s : State) (f : Package → Package) : (s.modPkg f).free = s.free := rfl
@[simp] theorem modPkg_noRoom (s : State) (f : Package → Package) : (s.modPkg f).noRoom = s.noRoom := rfl

@[simp] theorem modIssue_ptime (s : State) (f : Issue → Issue) : (s.modIssue f).ptime = s.ptime := rfl
@[simp] theorem modIssue_cur (s : State) (f : Issue → Issue) : (s.modIssue f).cur = s.cur := rfl
@[simp] theorem modIssue_ctxs (s : State) (f : Issue → Issue) : (s.modIssue f).ctxs = s.ctxs := rfl
@[simp] theorem modIssue_cores (s : State) (f : Issue → Issue) : (s.modIssue f).cores = s.cores := rfl
@[simp] theorem modIssue_dies (s : State) (f : Issue → Issue) : (s.modIssue f).dies = s.dies := rfl
@[simp] theorem modIssue_mem (s : State) (f : Issue → Issue) : (s.modIssue f).mem = s.mem := rfl
@[simp] theorem modIssue_tags (s : State) (f : Issue → Issue) : (s.modIssue f).tags = s.tags := rfl
@[simp] theorem modIssue_parts (s : State) (f : Issue → Issue) : (s.modIssue f).parts = s.parts := rfl
@[simp] theorem modIssue_colls (s : State) (f : Issue → Issue) : (s.modIssue f).colls = s.colls := rfl
@[simp] theorem modIssue_pkg (s : State) (f : Issue → Issue) : (s.modIssue f).pkg = s.pkg := rfl
@[simp] theorem modIssue_agenda (s : State) (f : Issue → Issue) : (s.modIssue f).agenda = s.agenda := rfl
@[simp] theorem modIssue_issueQ (s : State) (f : Issue → Issue) : (s.modIssue f).issueQ = s.issueQ := rfl
@[simp] theorem modIssue_late (s : State) (f : Issue → Issue) : (s.modIssue f).late = s.late := rfl
@[simp] theorem modIssue_free (s : State) (f : Issue → Issue) : (s.modIssue f).free = s.free := rfl
@[simp] theorem modIssue_noRoom (s : State) (f : Issue → Issue) : (s.modIssue f).noRoom = s.noRoom := rfl

@[simp] theorem setCtxAt_coreAt (s : State) (i : Nat) (c : Ctx) (j : Nat) : (s.setCtxAt i c).coreAt j = s.coreAt j := rfl
@[simp] theorem setCtxAt_dieAt (s : State) (i : Nat) (c : Ctx) (j : Nat) : (s.setCtxAt i c).dieAt j = s.dieAt j := rfl
@[simp] theorem setCtxAt_partAt (s : State) (i : Nat) (c : Ctx) (j : Nat) : (s.setCtxAt i c).partAt j = s.partAt j := rfl
@[simp] theorem modCtxAt_coreAt (s : State) (i : Nat) (f : Ctx → Ctx) (j : Nat) : (s.modCtxAt i f).coreAt j = s.coreAt j := rfl
@[simp] theorem modCtxAt_dieAt (s : State) (i : Nat) (f : Ctx → Ctx) (j : Nat) : (s.modCtxAt i f).dieAt j = s.dieAt j := rfl
@[simp] theorem modCtxAt_partAt (s : State) (i : Nat) (f : Ctx → Ctx) (j : Nat) : (s.modCtxAt i f).partAt j = s.partAt j := rfl
@[simp] theorem modCtx_coreAt (s : State) (f : Ctx → Ctx) (j : Nat) : (s.modCtx f).coreAt j = s.coreAt j := rfl
@[simp] theorem modCtx_dieAt (s : State) (f : Ctx → Ctx) (j : Nat) : (s.modCtx f).dieAt j = s.dieAt j := rfl
@[simp] theorem modCtx_partAt (s : State) (f : Ctx → Ctx) (j : Nat) : (s.modCtx f).partAt j = s.partAt j := rfl
@[simp] theorem modCoreAt_ctxAt (s : State) (k : Nat) (f : Core → Core) (j : Nat) : (s.modCoreAt k f).ctxAt j = s.ctxAt j := rfl
@[simp] theorem modCoreAt_dieAt (s : State) (k : Nat) (f : Core → Core) (j : Nat) : (s.modCoreAt k f).dieAt j = s.dieAt j := rfl
@[simp] theorem modCoreAt_partAt (s : State) (k : Nat) (f : Core → Core) (j : Nat) : (s.modCoreAt k f).partAt j = s.partAt j := rfl
@[simp] theorem modCoreAt_ctx (s : State) (k : Nat) (f : Core → Core) : (s.modCoreAt k f).ctx = s.ctx := rfl
@[simp] theorem modDieAt_ctxAt (s : State) (d : Nat) (f : Die → Die) (j : Nat) : (s.modDieAt d f).ctxAt j = s.ctxAt j := rfl
@[simp] theorem modDieAt_coreAt (s : State) (d : Nat) (f : Die → Die) (j : Nat) : (s.modDieAt d f).coreAt j = s.coreAt j := rfl
@[simp] theorem modDieAt_partAt (s : State) (d : Nat) (f : Die → Die) (j : Nat) : (s.modDieAt d f).partAt j = s.partAt j := rfl
@[simp] theorem modDieAt_ctx (s : State) (d : Nat) (f : Die → Die) : (s.modDieAt d f).ctx = s.ctx := rfl
@[simp] theorem modPartAt_ctxAt (s : State) (p : Nat) (f : Part → Part) (j : Nat) : (s.modPartAt p f).ctxAt j = s.ctxAt j := rfl
@[simp] theorem modPartAt_coreAt (s : State) (p : Nat) (f : Part → Part) (j : Nat) : (s.modPartAt p f).coreAt j = s.coreAt j := rfl
@[simp] theorem modPartAt_dieAt (s : State) (p : Nat) (f : Part → Part) (j : Nat) : (s.modPartAt p f).dieAt j = s.dieAt j := rfl
@[simp] theorem modPartAt_ctx (s : State) (p : Nat) (f : Part → Part) : (s.modPartAt p f).ctx = s.ctx := rfl
@[simp] theorem modPkg_ctxAt (s : State) (f : Package → Package) (j : Nat) : (s.modPkg f).ctxAt j = s.ctxAt j := rfl
@[simp] theorem modPkg_coreAt (s : State) (f : Package → Package) (j : Nat) : (s.modPkg f).coreAt j = s.coreAt j := rfl
@[simp] theorem modPkg_dieAt (s : State) (f : Package → Package) (j : Nat) : (s.modPkg f).dieAt j = s.dieAt j := rfl
@[simp] theorem modPkg_partAt (s : State) (f : Package → Package) (j : Nat) : (s.modPkg f).partAt j = s.partAt j := rfl
@[simp] theorem modPkg_ctx (s : State) (f : Package → Package) : (s.modPkg f).ctx = s.ctx := rfl
@[simp] theorem modIssue_ctxAt (s : State) (f : Issue → Issue) (j : Nat) : (s.modIssue f).ctxAt j = s.ctxAt j := rfl
@[simp] theorem modIssue_coreAt (s : State) (f : Issue → Issue) (j : Nat) : (s.modIssue f).coreAt j = s.coreAt j := rfl
@[simp] theorem modIssue_dieAt (s : State) (f : Issue → Issue) (j : Nat) : (s.modIssue f).dieAt j = s.dieAt j := rfl
@[simp] theorem modIssue_partAt (s : State) (f : Issue → Issue) (j : Nat) : (s.modIssue f).partAt j = s.partAt j := rfl
@[simp] theorem modIssue_ctx (s : State) (f : Issue → Issue) : (s.modIssue f).ctx = s.ctx := rfl

end State

/-! ### Register files -/

namespace RegFile

theorem getS_setS (r : RegFile) (n m : SReg) (x : Word) : (r.setS n x).getS m = if m = n then x else r.getS m := by
  unfold getS setS
  by_cases h : m = n
  · subst h; simp
  · have : n.toNat ≠ m.toNat := fun e => h (BitVec.eq_of_toNat_eq e).symm
    simp [h, this]

theorem getP_setP (r : RegFile) (n m : PReg) (x : Bool) : (r.setP n x).getP m = if m = n then x else r.getP m := by
  unfold getP setP
  by_cases h : m = n
  · subst h; simp
  · have : n.toNat ≠ m.toNat := fun e => h (BitVec.eq_of_toNat_eq e).symm
    simp [h, this]

theorem getV_setV (r : RegFile) (n m : VReg) (x : VWord) : (r.setV n x).getV m = if m = n then x else r.getV m := by
  unfold getV setV
  by_cases h : m = n
  · subst h; simp
  · have : n.toNat ≠ m.toNat := fun e => h (BitVec.eq_of_toNat_eq e).symm
    simp [h, this]

theorem getQ_setQ (r : RegFile) (n m : QReg) (x : QMask) : (r.setQ n x).getQ m = if m = n then x else r.getQ m := by
  unfold getQ setQ
  by_cases h : m = n
  · subst h; simp
  · have : n.toNat ≠ m.toNat := fun e => h (BitVec.eq_of_toNat_eq e).symm
    simp [h, this]

@[simp] theorem getP_setS (r : RegFile) (n : SReg) (m : PReg) (x : Word) : (r.setS n x).getP m = r.getP m := rfl
@[simp] theorem getV_setS (r : RegFile) (n : SReg) (m : VReg) (x : Word) : (r.setS n x).getV m = r.getV m := rfl
@[simp] theorem getQ_setS (r : RegFile) (n : SReg) (m : QReg) (x : Word) : (r.setS n x).getQ m = r.getQ m := rfl
@[simp] theorem getS_setP (r : RegFile) (n : PReg) (m : SReg) (x : Bool) : (r.setP n x).getS m = r.getS m := rfl
@[simp] theorem getV_setP (r : RegFile) (n : PReg) (m : VReg) (x : Bool) : (r.setP n x).getV m = r.getV m := rfl
@[simp] theorem getQ_setP (r : RegFile) (n : PReg) (m : QReg) (x : Bool) : (r.setP n x).getQ m = r.getQ m := rfl
@[simp] theorem getS_setV (r : RegFile) (n : VReg) (m : SReg) (x : VWord) : (r.setV n x).getS m = r.getS m := rfl
@[simp] theorem getP_setV (r : RegFile) (n : VReg) (m : PReg) (x : VWord) : (r.setV n x).getP m = r.getP m := rfl
@[simp] theorem getQ_setV (r : RegFile) (n : VReg) (m : QReg) (x : VWord) : (r.setV n x).getQ m = r.getQ m := rfl
@[simp] theorem getS_setQ (r : RegFile) (n : QReg) (m : SReg) (x : QMask) : (r.setQ n x).getS m = r.getS m := rfl
@[simp] theorem getP_setQ (r : RegFile) (n : QReg) (m : PReg) (x : QMask) : (r.setQ n x).getP m = r.getP m := rfl
@[simp] theorem getV_setQ (r : RegFile) (n : QReg) (m : VReg) (x : QMask) : (r.setQ n x).getV m = r.getV m := rfl

end RegFile

end Sys2Proof.Machine
end

