-- ==== Sys2Proof/Laws/Results.lean ====
section
/-! SUPPORT. What the register writes of the named operations do, once for each. -/

namespace Sys2Proof.Machine

open Sys2Proof.Safety

/-! ### Saved values -/

theorem savedOf_saveFirst {n : Nat} {α : Type} (l : List (BitVec n × α)) (r k : BitVec n) (a : α) :
    savedOf (saveFirst l r a) k = match savedOf l k with | some x => some x | none => if r = k then some a else none := by
  unfold saveFirst
  cases h : savedOf l r with
  | some x =>
    simp only
    cases hk : savedOf l k with
    | some y => rfl
    | none =>
      by_cases e : r = k
      · rw [e, hk] at h; cases h
      · simp [e]
  | none =>
    simp only [savedOf]
    by_cases e : r = k
    · rw [← e, h]
    · simp only [e, if_false]; cases savedOf l k <;> rfl

/-! ### Ready times -/

theorem readyAt_noteReady (c : Ctx) (r k : RegId) (t : Nat) :
    (c.noteReady r t).readyAt k = if k = r then t else c.readyAt k := by
  unfold Ctx.readyAt Ctx.noteReady
  by_cases e : k = r
  · subst e; simp [List.find?]
  · have h1 : (r == k) = false := by simpa using Ne.symm e
    simp only [List.find?, h1, e, if_false]
    have : ∀ l : List (RegId × Nat), (l.filter (fun x => x.1 != r)).find? (fun x => x.1 == k) = l.find? (fun x => x.1 == k) := by
      intro l
      induction l with
      | nil => rfl
      | cons x l ih =>
        by_cases hx : x.1 = r
        · have hk : (x.1 == k) = false := by rw [hx]; exact h1
          simp [List.filter, hx, List.find?, h1, ih]
        · have hb : (x.1 != r) = true := by simpa using hx
          simp only [List.filter, hb, List.find?, ih]
    rw [this]

theorem noteReady_regs (c : Ctx) (r : RegId) (t : Nat) : (c.noteReady r t).regs = c.regs := rfl
theorem noteReady_resume (c : Ctx) (r : RegId) (t : Nat) : (c.noteReady r t).resume = c.resume := rfl

/-! ### One write of a context -/

theorem writeS_result (c : Ctx) (t : Nat) (d : SReg) (x : Word) : ResultS c (c.writeS t d x) t d x := by
  unfold Ctx.writeS
  by_cases h : d = 0
  · subst h; refine ⟨?_, ?_, ?_⟩ <;> simp
  rw [if_neg h]
  refine ⟨fun r => ?_, fun r => ?_, ⟨rfl, rfl, rfl⟩⟩
  · simp only [noteReady_regs, RegFile.getS_setS, ne_eq, h, not_false_eq_true, and_true]
  · rw [readyAt_noteReady]
    by_cases e : r = .s d
    · rw [if_pos e, if_pos ⟨e, h⟩]
    · rw [if_neg e, if_neg (fun k => e k.1)]; rfl

theorem readS_writeS (c : Ctx) (t : Nat) (d r : SReg) (x : Word) : (c.writeS t d x).readS r = c.readS r := by
  unfold Ctx.writeS
  by_cases h : d = 0
  · rw [if_pos h]
  rw [if_neg h]
  unfold Ctx.readS
  simp only [noteReady_regs, noteReady_resume, savedOf_saveFirst, RegFile.getS_setS]
  cases savedOf c.resume.s r with
  | some y => rfl
  | none =>
    by_cases e : d = r
    · subst e; simp
    · simp [e, Ne.symm e]

theorem writeS_frame (c : Ctx) (t : Nat) (d : SReg) (x : Word) :
    SameBesideRegs c (c.writeS t d x) ∧ SameEnds c (c.writeS t d x) ∧ (∀ r, (c.writeS t d x).readP r = c.readP r)
      ∧ (∀ r, (c.writeS t d x).readV r = c.readV r) ∧ (∀ r, (c.writeS t d x).readQ r = c.readQ r) := by
  unfold Ctx.writeS
  split
  · exact ⟨rfl, ⟨rfl, rfl, rfl⟩, fun _ => rfl, fun _ => rfl, fun _ => rfl⟩
  · exact ⟨rfl, ⟨rfl, rfl, rfl⟩, fun _ => rfl, fun _ => rfl, fun _ => rfl⟩

theorem writeP_result (c : Ctx) (t : Nat) (d : PReg) (x : Bool) : ResultP c (c.writeP t d x) t d x := by
  unfold Ctx.writeP
  by_cases h : d = 0
  · subst h; refine ⟨?_, ?_, ?_⟩ <;> simp
  rw [if_neg h]
  refine ⟨fun r => ?_, fun r => ?_, ⟨rfl, rfl, rfl⟩⟩
  · simp only [noteReady_regs, RegFile.getP_setP, ne_eq, h, not_false_eq_true, and_true]
  · rw [readyAt_noteReady]
    by_cases e : r = .p d
    · rw [if_pos e, if_pos ⟨e, h⟩]
    · rw [if_neg e, if_neg (fun k => e k.1)]; rfl

theorem readP_writeP (c : Ctx) (t : Nat) (d r : PReg) (x : Bool) : (c.writeP t d x).readP r = c.readP r := by
  unfold Ctx.writeP
  by_cases h : d = 0
  · rw [if_pos h]
  rw [if_neg h]
  unfold Ctx.readP
  simp only [noteReady_regs, noteReady_resume, savedOf_saveFirst, RegFile.getP_setP]
  cases savedOf c.resume.p r with
  | some y => rfl
  | none =>
    by_cases e : d = r
    · subst e; simp
    · simp [e, Ne.symm e]

theorem writeP_frame (c : Ctx) (t : Nat) (d : PReg) (x : Bool) :
    SameBesideRegs c (c.writeP t d x) ∧ SameEnds c (c.writeP t d x) ∧ (∀ r, (c.writeP t d x).readS r = c.readS r)
      ∧ (∀ r, (c.writeP t d x).readV r = c.readV r) ∧ (∀ r, (c.writeP t d x).readQ r = c.readQ r) := by
  unfold Ctx.writeP
  split
  · exact ⟨rfl, ⟨rfl, rfl, rfl⟩, fun _ => rfl, fun _ => rfl, fun _ => rfl⟩
  · exact ⟨rfl, ⟨rfl, rfl, rfl⟩, fun _ => rfl, fun _ => rfl, fun _ => rfl⟩

theorem writeV_result (c : Ctx) (t : Nat) (d : VReg) (x : VWord) : ResultV c (c.writeV t d x) t d x := by
  unfold Ctx.writeV
  refine ⟨fun r => ?_, fun r => ?_, ⟨rfl, rfl, rfl⟩⟩
  · simp only [noteReady_regs, RegFile.getV_setV]
  · rw [readyAt_noteReady]
    by_cases e : r = .v d
    · rw [if_pos e, if_pos e]
    · rw [if_neg e, if_neg e]; rfl

theorem readV_writeV (c : Ctx) (t : Nat) (d r : VReg) (x : VWord) : (c.writeV t d x).readV r = c.readV r := by
  unfold Ctx.writeV
  unfold Ctx.readV
  simp only [noteReady_regs, noteReady_resume, savedOf_saveFirst, RegFile.getV_setV]
  cases savedOf c.resume.v r with
  | some y => rfl
  | none =>
    by_cases e : d = r
    · subst e; simp
    · simp [e, Ne.symm e]

theorem writeV_frame (c : Ctx) (t : Nat) (d : VReg) (x : VWord) :
    SameBesideRegs c (c.writeV t d x) ∧ SameEnds c (c.writeV t d x) ∧ (∀ r, (c.writeV t d x).readS r = c.readS r)
      ∧ (∀ r, (c.writeV t d x).readP r = c.readP r) ∧ (∀ r, (c.writeV t d x).readQ r = c.readQ r) := by
  unfold Ctx.writeV
  exact ⟨rfl, ⟨rfl, rfl, rfl⟩, fun _ => rfl, fun _ => rfl, fun _ => rfl⟩

theorem writeQ_result (c : Ctx) (t : Nat) (d : QReg) (x : QMask) : ResultQ c (c.writeQ t d x) t d x := by
  unfold Ctx.writeQ
  by_cases h : d = 0
  · subst h; refine ⟨?_, ?_, ?_⟩ <;> simp
  rw [if_neg h]
  refine ⟨fun r => ?_, fun r => ?_, ⟨rfl, rfl, rfl⟩⟩
  · simp only [noteReady_regs, RegFile.getQ_setQ, ne_eq, h, not_false_eq_true, and_true]
  · rw [readyAt_noteReady]
    by_cases e : r = .q d
    · rw [if_pos e, if_pos ⟨e, h⟩]
    · rw [if_neg e, if_neg (fun k => e k.1)]; rfl

theorem readQ_writeQ (c : Ctx) (t : Nat) (d r : QReg) (x : QMask) : (c.writeQ t d x).readQ r = c.readQ r := by
  unfold Ctx.writeQ
  by_cases h : d = 0
  · rw [if_pos h]
  rw [if_neg h]
  unfold Ctx.readQ
  simp only [noteReady_regs, noteReady_resume, savedOf_saveFirst, RegFile.getQ_setQ]
  cases savedOf c.resume.q r with
  | some y => rfl
  | none =>
    by_cases e : d = r
    · subst e; simp
    · simp [e, Ne.symm e]

theorem writeQ_frame (c : Ctx) (t : Nat) (d : QReg) (x : QMask) :
    SameBesideRegs c (c.writeQ t d x) ∧ SameEnds c (c.writeQ t d x) ∧ (∀ r, (c.writeQ t d x).readS r = c.readS r)
      ∧ (∀ r, (c.writeQ t d x).readP r = c.readP r) ∧ (∀ r, (c.writeQ t d x).readV r = c.readV r) := by
  unfold Ctx.writeQ
  split
  · exact ⟨rfl, ⟨rfl, rfl, rfl⟩, fun _ => rfl, fun _ => rfl, fun _ => rfl⟩
  · exact ⟨rfl, ⟨rfl, rfl, rfl⟩, fun _ => rfl, fun _ => rfl, fun _ => rfl⟩

/-! ### One write of the state -/

theorem onlyCtx_modCtx (s : State) (f : Ctx → Ctx) : OnlyCtx s (s.modCtx f) s.cur :=
  ⟨fun _ h => State.ctxAt_modCtx_other s f h, rfl, fun _ => rfl⟩

theorem wroteS_wS (s : State) (lat : Nat) (d : SReg) (x : Word) : WroteS s (s.wS lat d x) lat d x := by
  have w := writeS_frame s.ctx (s.ptime + lat) d x
  refine ⟨onlyCtx_modCtx s _, ?_, ⟨fun r => ?_, fun r => ?_, fun r => ?_, fun r => ?_⟩, ?_⟩ <;>
    simp only [State.wS, State.rS, State.rP, State.rV, State.rQ, State.ctx_modCtx]
  · exact writeS_result ..
  · exact readS_writeS ..
  · exact w.2.2.1 r
  · exact w.2.2.2.1 r
  · exact w.2.2.2.2 r
  · exact ⟨w.1, w.2.1⟩

theorem wroteP_wP (s : State) (lat : Nat) (d : PReg) (x : Bool) : WroteP s (s.wP lat d x) lat d x := by
  have w := writeP_frame s.ctx (s.ptime + lat) d x
  refine ⟨onlyCtx_modCtx s _, ?_, ⟨fun r => ?_, fun r => ?_, fun r => ?_, fun r => ?_⟩, ?_⟩ <;>
    simp only [State.wP, State.rS, State.rP, State.rV, State.rQ, State.ctx_modCtx]
  · exact writeP_result ..
  · exact w.2.2.1 r
  · exact readP_writeP ..
  · exact w.2.2.2.1 r
  · exact w.2.2.2.2 r
  · exact ⟨w.1, w.2.1⟩

/-! ### Flags and results of the V slot -/

theorem foldl_flags (l : List (Nat × BitVec 5)) (p : Nat × BitVec 5 → Bool) (f g : BitVec 5) :
    l.foldl (fun a e => if p e then a ||| e.2 else a) (f ||| g)
      = f ||| l.foldl (fun a e => if p e then a ||| e.2 else a) g := by
  induction l generalizing g with
  | nil => rfl
  | cons e l ih =>
    simp only [List.foldl]
    by_cases h : p e
    · simp only [h, if_true]; rw [BitVec.or_assoc, ih]
    · simp only [h]; exact ih g

/-- Merging the flags of the past changes no later reading of FFLAGS. -/
theorem fflagsAt_mergeFlags (c : Ctx) (now u : Nat) (h : now ≤ u) : (c.mergeFlags now).fflagsAt u = c.fflagsAt u := by
  unfold Ctx.mergeFlags Ctx.fflagsAt
  generalize c.fflags = f
  induction c.fpend generalizing f with
  | nil => rfl
  | cons e l ih =>
    by_cases hn : e.1 < now
    · have hu : e.1 ≤ u := by omega
      have hf : decide (now ≤ e.1) = false := by simpa using hn
      simp only [List.foldl, hn, hu, if_true, List.filter, hf]
      exact ih _
    · have hf : decide (now ≤ e.1) = true := by simpa using hn
      simp only [List.foldl, hn, if_false, List.filter, hf]
      by_cases hu : e.1 ≤ u
      · simp only [hu, if_true]
        have key := ih (f ||| e.2)
        rw [BitVec.or_comm f e.2] at key ⊢
        have a := foldl_flags l (fun x => decide (x.1 < now)) e.2 f
        simp only [decide_eq_true_eq] at a
        rw [a] at key
        rw [BitVec.or_comm] at key
        exact key
      · simp only [hu, if_false]; exact ih f

theorem fflagsAt_vDone (c : Ctx) (now t u : Nat) (f : BitVec 5) (h : now ≤ u) :
    (c.vDone now t f).fflagsAt u = c.fflagsAt u ||| (if t ≤ u then f else 0) := by
  rw [← fflagsAt_mergeFlags c now u h]
  unfold Ctx.vDone Ctx.addFlags Ctx.fflagsAt
  simp only [List.foldl_append, List.foldl]
  split <;> simp

theorem writeV_fflagsAt (c : Ctx) (t : Nat) (d : VReg) (x : VWord) (u : Nat) :
    (c.writeV t d x).fflagsAt u = c.fflagsAt u := rfl
theorem writeQ_fflagsAt (c : Ctx) (t : Nat) (d : QReg) (x : QMask) (u : Nat) :
    (c.writeQ t d x).fflagsAt u = c.fflagsAt u := by unfold Ctx.writeQ; split <;> rfl
theorem writeS_fflagsAt (c : Ctx) (t : Nat) (d : SReg) (x : Word) (u : Nat) :
    (c.writeS t d x).fflagsAt u = c.fflagsAt u := by unfold Ctx.writeS; split <;> rfl

theorem modCtx_modCtx (s : State) (f g : Ctx → Ctx) : ((s.modCtx f).modCtx g).ctx = g (f s.ctx) := by simp

theorem onlyCtx_modCtx2 (s : State) (f g : Ctx → Ctx) : OnlyCtx s ((s.modCtx f).modCtx g) s.cur :=
  ⟨fun j h => by
    rw [State.ctxAt_modCtx_other _ _ (by simpa using h), State.ctxAt_modCtx_other _ _ h], rfl, fun _ => rfl⟩

theorem besideFlags_vDone {c d : Ctx} (h : SameBesideRegs c d) (now t : Nat) (f : BitVec 5) :
    SameBesideFlags c (d.vDone now t f) := by
  unfold SameBesideRegs at h
  unfold SameBesideFlags
  rw [← h]; rfl

theorem wroteV_vRes (s : State) (lat : Nat) (d : VReg) (y : VWord × BitVec 5) : WroteV s (s.vRes lat d y) lat d y.1 y.2 := by
  have w := writeV_frame s.ctx (s.ptime + lat) d y.1
  have v := writeV_result s.ctx (s.ptime + lat) d y.1
  refine ⟨onlyCtx_modCtx2 s _ _, ?_, ?_, ⟨fun r => ?_, fun r => ?_, fun r => ?_, fun r => ?_⟩, ?_⟩ <;>
    simp only [State.vRes, State.wV, FlagsAfter, State.rS, State.rP, State.rV, State.rQ, State.ctx_modCtx]
  · exact ⟨v.value, v.ready, v.others⟩
  · intro u h; rw [fflagsAt_vDone _ _ _ _ _ h, writeV_fflagsAt]
  · exact w.2.2.1 r
  · exact w.2.2.2.1 r
  · exact readV_writeV s.ctx (s.ptime + lat) d r y.1
  · exact w.2.2.2.2 r
  · exact ⟨besideFlags_vDone w.1 _ _ _, w.2.1⟩

theorem wroteQ_qRes (s : State) (lat : Nat) (d : QReg) (y : QMask × BitVec 5) : WroteQ s (s.qRes lat d y) lat d y.1 y.2 := by
  have w := writeQ_frame s.ctx (s.ptime + lat) d y.1
  have v := writeQ_result s.ctx (s.ptime + lat) d y.1
  refine ⟨onlyCtx_modCtx2 s _ _, ?_, ?_, ⟨fun r => ?_, fun r => ?_, fun r => ?_, fun r => ?_⟩, ?_⟩ <;>
    simp only [State.qRes, State.wQ, FlagsAfter, State.rS, State.rP, State.rV, State.rQ, State.ctx_modCtx]
  · exact ⟨v.value, v.ready, v.others⟩
  · intro u h; rw [fflagsAt_vDone _ _ _ _ _ h, writeQ_fflagsAt]
  · exact w.2.2.1 r
  · exact w.2.2.2.1 r
  · exact w.2.2.2.2 r
  · exact readQ_writeQ s.ctx (s.ptime + lat) d r y.1
  · exact ⟨besideFlags_vDone w.1 _ _ _, w.2.1⟩

theorem wroteSV_sRes (s : State) (lat : Nat) (d : SReg) (x : Word) : WroteSV s (s.sRes lat d x) lat d x := by
  have w := writeS_frame s.ctx (s.ptime + lat) d x
  have v := writeS_result s.ctx (s.ptime + lat) d x
  refine ⟨onlyCtx_modCtx2 s _ _, ?_, ?_, ⟨fun r => ?_, fun r => ?_, fun r => ?_, fun r => ?_⟩, ?_⟩ <;>
    simp only [State.sRes, State.wS, FlagsAfter, State.rS, State.rP, State.rV, State.rQ, State.ctx_modCtx]
  · exact ⟨v.value, v.ready, v.others⟩
  · intro u h; rw [fflagsAt_vDone _ _ _ _ _ h, writeS_fflagsAt]
  · exact readS_writeS ..
  · exact w.2.2.1 r
  · exact w.2.2.2.1 r
  · exact w.2.2.2.2 r
  · exact ⟨besideFlags_vDone w.1 _ _ _, w.2.1⟩

/-! ### Elements -/

theorem eltFrom_lt (w : Nat) (q : QMask) (d : VWord) (g : Nat → Nat × BitVec 5) (n : Nat) :
    (eltFrom w q d g n).1 < 2 ^ (w * n) := by
  induction n with
  | zero => simp [eltFrom]
  | succ n ih =>
    have key : ∀ y, y < 2 ^ w → (eltFrom w q d g n).1 + y * 2 ^ (w * n) < 2 ^ (w * (n + 1)) := by
      intro y hy
      rw [Nat.mul_succ, Nat.pow_add]
      calc (eltFrom w q d g n).1 + y * 2 ^ (w * n) < 2 ^ (w * n) + y * 2 ^ (w * n) := by omega
        _ = (y + 1) * 2 ^ (w * n) := by rw [Nat.add_mul]; omega
        _ ≤ 2 ^ w * 2 ^ (w * n) := Nat.mul_le_mul_right _ hy
        _ = 2 ^ (w * n) * 2 ^ w := Nat.mul_comm _ _
    simp only [eltFrom]
    split
    · exact key _ (Nat.mod_lt _ (Nat.two_pow_pos w))
    · exact key _ (by unfold elem getF; exact BitVec.isLt _)

/-- Field `i` of a number built of `n` fields. -/
theorem eltFrom_field (w : Nat) (q : QMask) (d : VWord) (g : Nat → Nat × BitVec 5) (n i : Nat) (h : i < n) :
    (eltFrom w q d g n).1 / 2 ^ (w * i) % 2 ^ w = if maskBit q w i then (g i).1 % 2 ^ w else elem d w i := by
  induction n with
  | zero => omega
  | succ n ih =>
    have lt := eltFrom_lt w q d g n
    by_cases e : i = n
    · subst e
      have top : ∀ y, y < 2 ^ w → ((eltFrom w q d g i).1 + y * 2 ^ (w * i)) / 2 ^ (w * i) % 2 ^ w = y := by
        intro y hy
        rw [Nat.add_mul_div_right _ _ (Nat.two_pow_pos _), Nat.div_eq_of_lt lt, Nat.zero_add, Nat.mod_eq_of_lt hy]
      simp only [eltFrom]
      split
      · simp only [top _ (Nat.mod_lt _ (Nat.two_pow_pos w))]
      · have : elem d w i < 2 ^ w := by unfold elem getF; exact BitVec.isLt _
        simp only [top _ this]
    · have hi : i < n := by omega
      have low : ∀ y, ((eltFrom w q d g n).1 + y * 2 ^ (w * n)) / 2 ^ (w * i) % 2 ^ w
          = (eltFrom w q d g n).1 / 2 ^ (w * i) % 2 ^ w := by
        intro y
        obtain ⟨k, hk⟩ : ∃ k, n = i + 1 + k := ⟨n - (i + 1), by omega⟩
        have : y * 2 ^ (w * n) = y * 2 ^ (w * k) * 2 ^ w * 2 ^ (w * i) := by
          rw [hk, Nat.mul_add, Nat.mul_add, Nat.mul_one, Nat.pow_add, Nat.pow_add]; ac_rfl
        rw [this, Nat.add_mul_div_right _ _ (Nat.two_pow_pos _), Nat.add_mul_mod_self_right]
      simp only [eltFrom]
      split
      · simp only [low, ih hi]
      · simp only [low, ih hi]

theorem eltFrom_flags (w : Nat) (q : QMask) (d : VWord) (g : Nat → Nat × BitVec 5) (n k : Nat) :
    (eltFrom w q d g n).2.getLsbD k = true
      ↔ ∃ i, i < n ∧ maskBit q w i = true ∧ (g i).2.getLsbD k = true := by
  induction n with
  | zero => simp [eltFrom]
  | succ n ih =>
    have step : (∃ i, i < n + 1 ∧ maskBit q w i = true ∧ (g i).2.getLsbD k = true)
        ↔ (∃ i, i < n ∧ maskBit q w i = true ∧ (g i).2.getLsbD k = true) ∨ (maskBit q w n = true ∧ (g n).2.getLsbD k = true) := by
      constructor
      · rintro ⟨i, hi, h⟩
        rcases Nat.lt_succ_iff_lt_or_eq.mp hi with h' | h'
        · exact .inl ⟨i, h', h⟩
        · exact .inr (h' ▸ h)
      · rintro (⟨i, hi, h⟩ | h)
        · exact ⟨i, by omega, h⟩
        · exact ⟨n, by omega, h⟩
    rw [step]
    simp only [eltFrom]
    split
    · rename_i hm
      simp only [BitVec.getLsbD_or, Bool.or_eq_true, ih, hm, true_and]
    · rename_i hm
      simp [ih, hm]

theorem elem_ofNat (x w i : Nat) (hx : x < 2 ^ 4096) :
    elem (BitVec.ofNat 4096 x) w i = x / 2 ^ (w * i) % 2 ^ w := by
  unfold elem getF
  rw [BitVec.extractLsb'_toNat, BitVec.toNat_ofNat, Nat.mod_eq_of_lt hx, Nat.shiftRight_eq_div_pow]

theorem elementwise_eltwise (w : Nat) (q : QMask) (d : VWord) (g : Nat → Nat × BitVec 5) (hw : w ∣ 4096) :
    Elementwise w q d (eltwise w q d g).1 (eltwise w q d g).2 g := by
  have hm : w * (4096 / w) = 4096 := Nat.mul_div_cancel' hw
  refine ⟨fun i hi => ?_, fun k => eltFrom_flags ..⟩
  unfold eltwise
  rw [elem_ofNat, eltFrom_field _ _ _ _ _ _ hi]
  · have := eltFrom_lt w q d g (4096 / w); rwa [hm] at this

theorem width_dvd (f : Fmt) : f.width ∣ 4096 := by cases f <;> decide

/-- The answer of an element-wise V-slot instruction. -/
theorem vectorResult (s : State) (lat : Nat) (f : Fmt) (d : VReg) (q : QReg) (g : Nat → Nat × BitVec 5) :
    VectorResult s (.next (s.vRes lat d (eltwise f.width (s.rQ q) (s.rV d) g))) lat f d q g :=
  ⟨_, rfl, _, _, wroteV_vRes .., elementwise_eltwise _ _ _ _ (width_dvd f)⟩

end Sys2Proof.Machine
end

