-- ==== Sys2Proof/Tests/Slice0.lean ====
section
/-! SUPPORT. Small checks: terms that WellFormed refuses, words written out from the encodings of the spec, single steps on a
small state, and states that meet the hypotheses of the statements. -/

namespace Sys2Proof.Tests

open Sys2Proof Sys2Proof.Machine Sys2Proof.Safety

set_option Elab.async false

/-! ### States -/

/-- A data range of 16 MiB from 2^32 on, readable and writable. -/
def lrec : LRec := { LRec.plain 0x1000 with rng := [⟨0x100000000, 0x1000000, 0x83, 0⟩] }
/-- Two templates, one geometry set, one probe slot at the top of 128 KiB of scratchpad. -/
def kernel : Kernel := { Kernel.plain with scratch := 0x20000, tiles := 4, kbufs := 4, tmpl := [0, 0], gset := [0], pbase := 0x1F000, pslots := 1 }
def block : Block := { Block.plain with lrec := lrec, kernel := kernel }

/-- 256 pages from 2^32 on, mapped to 0x10000 on: R, W, U; ordering kind and kept bit as given. -/
def extent (ord k : Nat) : Extent := mkExtent 0 ⟨0, false, false⟩ false (BitVec.ofNat 64 (0x2C + ord * 64 + k * 0x800)) true 0x100000 0x10 256 3

/-- s1: the range; s2: the window; s3 = 64; s4 = 1; s5: the engine window; s6: the transfer aperture; s7: the dictionary
aperture; s8: nowhere; s9: probe slot 0; s10: one byte past the range's base; s11: below the range. -/
def regs : RegFile := { RegFile.zero with s := #v[0, 0x100000000, 0xF000000000000000, 64, 1, 0xF100000000000000, 0xF200000000000000,
  0xF300000000000000, 0xE000000000000000, 0xF00000000001F000, 0x100000001, 0x1000, 0, 0, 0, 0, 0, 0, 0, 0, 0, 0, 0, 0, 0, 0, 0, 0, 0, 0, 0, 0] }

/-- A handle of two slots of 512 bytes, enabled, with pointers and slot states. -/
def handle (pp cp s0 s1 : Nat) : Line :=
  BitVec.ofNat 512 (512 * 2 ^ 20 + 1 * 2 ^ 40 + 2 ^ 44 + pp * 2 ^ 64 + cp * 2 ^ 68 + s0 * 2 ^ 80 + s1 * 2 ^ 82)

def ctx0 : Ctx := { Ctx.reset with status := .running, block := some block, tvec := 0x100, extents := [extent 0 0], regs := regs }

/-- A device in service whose context 0 runs the block. -/
def dev (f : Ctx → Ctx) : State :=
  { State.reset with ptime := 5000, ctxs := [(0, f ctx0)], pkg := { Package.reset with dev := .ready } }

/-- A store of the context to line 1. -/
def pendingStore : Store := { seq := 0, gated := true, kind := .line 1 false, va := 64, data := 0, mask := 1, page := .rc, scalar := true, rel := none,
                              grp := 0, entry := 0, fwd := false, user := true, time := 0, arr := 0 }

/-- The answer's state, or the state before. -/
def after (s : State) (i : Instr) : State := match exec i s with | .next t => t | _ => s

theorem own : OwnHandler (dev id) := by unfold OwnHandler; decide +kernel
theorem canonical (f : Ctx → Ctx) : Canonical (dev f) := ⟨by rfl, fun k => by rfl⟩
theorem quiet : Quiet (dev id) := by unfold Quiet; decide +kernel
theorem tables (f : Ctx → Ctx) : Tables (dev f) := by simp [Tables, dev]

/-- What shows an allowed access. -/
theorem allowedOf {s : State} {ea : Word} {n : Nat} {k : AccKind} {kept : Bool} {e : Extent} {pa : Nat}
    (h : (regionOf ea = .virt ea.toNat ∧ ea.toNat % n = 0) ∧ s.translate s.cur ea.toNat n k s.issue.user = .ok e pa ∧ e.k = kept) :
    Allowed s ea n k kept e pa := ⟨h.1.1, h.1.2, h.2.1, h.2.2⟩

/-- What shows an access of the window. -/
theorem windowOf {s : State} {ea : Word} {n core off : Nat} (m byte : Nat)
    (h : (regionOf ea = .window m byte ∧ byte % n = 0) ∧ s.windowAt s.cur m byte n = some (core, off) ∧ s.ctx.windowBusy core off n (core == coreOf s.cur) = false) :
    InWindow s ea n core off := ⟨⟨m, byte, h.1.1, h.1.2, h.2.1⟩, h.2.2⟩

def isOk (x : Fetch Nat) (n : Nat) : Bool := match x with | .ok k => k == n | _ => false
theorem isOk_eq (x : Fetch Nat) (n : Nat) (h : isOk x n = true) : x = .ok n := by
  cases x <;> simp_all [isOk]

/-! ### Witnesses: scalar, control, system -/

theorem witness_ScalarDivide : ((dev id).rS 4 ≠ 0 ∧ ((dev id).rS 4).setWidth 32 ≠ (0 : BitVec 32))
    ∧ ((dev id).rS 0 = 0 ∧ ((dev id).rS 1).setWidth 32 = (0 : BitVec 32)) ∧ OwnHandler (dev id) := ⟨by decide +kernel, by decide +kernel, own⟩

theorem witness_ScalarBitFields : (63 : BitVec 6).toNat + ((0 : BitVec 6).toNat + 1) ≤ 64 ∧ (0 : BitVec 6).toNat + ((63 : BitVec 6).toNat + 1) ≤ 64 := by
  decide

def level (stop : Word) : LoopLevel := { start := 2, stop := stop, count := 3, index := 1, kind := false, brk := false }
/-- A bundle in issue at word 8, the next at 10; its code line holds empty headers. -/
def atWord8 (f : Ctx → Ctx) : State :=
  { dev (fun c => f { c with pc := 8, ibuf := [{ vline := 0, pline := 0, data := 0, user := true }] }) with
    issue := { Issue.idle with pc := 8, next := 10, after2 := 12 } }
def loops6 : State := atWord8 (fun c => { c with loops := [level 20, level 21, level 22, level 23, level 24, level 25] })
def loops1 : State := atWord8 (fun c => { c with loops := [level 12] })
def meets (s : State) : Bool := s.ctx.loops.any (fun k => k.stop == s.issue.next + (2 : BitVec 18).setWidth 64 || k.stop == s.issue.pc)

theorem witness_LoopPush_open : (atWord8 id).ctx.loops.length ≠ 6 ∧ (0 : BitVec 3).toNat = (atWord8 id).ctx.loops.length
    ∧ meets (atWord8 id) = false ∧ (atWord8 id).rS 4 ≠ 0 ∧ (atWord8 id).rS 0 = 0 := by decide +kernel
theorem witness_LoopPush_skip : (atWord8 id).after (atWord8 id).cur ((atWord8 id).issue.next + (2 : BitVec 18).setWidth 64).toNat = .ok 13 :=
  isOk_eq _ _ (by decide +kernel)
theorem witness_LoopPush_full : loops6.ctx.loops.length = 6 ∧ OwnHandler loops6 := by unfold OwnHandler; decide +kernel
theorem witness_LoopPush_misuse : loops1.ctx.loops.length ≠ 6 ∧ (0 : BitVec 3).toNat ≠ loops1.ctx.loops.length
    ∧ meets loops1 = true ∧ OwnHandler loops1 := by unfold OwnHandler; decide +kernel

def loops2 : State := dev (fun c => { c with loops := [level 20, level 30] })
theorem witness_LoopBreakAndIndex : (loops2.ctx.loops = level 20 :: [level 30] ∧ (1 : BitVec 3).toNat = [level 30].length)
    ∧ (0 : BitVec 3).toNat + 1 ≠ loops2.ctx.loops.length ∧ loops2.ctx.loops.reverse[(0 : BitVec 3).toNat]? = some (level 30)
    ∧ loops2.ctx.loops.length ≤ (2 : BitVec 3).toNat ∧ OwnHandler loops2 := by unfold OwnHandler; decide +kernel

def mop (k : MKind) (tile : BitVec 3) (held : Option (Nat × Word)) : MOp :=
  { kind := k, tile := tile, af := .bf16, bf := .bf16, tf := .f32, z := true, addrA := 3, addrB := 0, gset := 0, bufA := .zero, bufB := .zero,
    data := 7, row := 0, seq := 1, time := 0, flags := 0, held := held, user := true, snap := [], badA := false, badB := false, plainA := false, word := 0, frames := [] }
def held : State := dev (fun c => { c with mq := [mop .mst 1 (some (0x0C, 5))], mval := true, priv := true })

theorem witness_ExitAndPause : (dev id).ctx.heldOp = none
    ∧ held.ctx.mq = mop .mst 1 (some (0x0C, 5)) :: [] ∧ (mop .mst 1 (some (0x0C, 5))).held = some (0x0C, 5) ∧ OwnHandler held := by
  unfold OwnHandler; decide +kernel

theorem witness_TrapAndBreak : OwnHandler (dev id) := own

def noTraps : State := dev (fun c => { c with te := false })
theorem witness_TrapWithTrapsDisabled : Canonical noTraps ∧ noTraps.ctx.te = false ∧ noTraps.fqOpen noTraps.ctx.part = true :=
  ⟨canonical _, by decide +kernel, by decide +kernel⟩

def monitored (h : Word) : State := dev (fun c => { c with tvec := Config.monitorEntry, uhvec := h })
def delivers (s : State) (h : Word) : Prop := s.ctx.te = true ∧ s.ctx.tvec = Config.monitorEntry ∧ getB s.pkg.duty 1 = false ∧ s.ctx.priv = false
    ∧ s.ctx.delivery = none ∧ s.ctx.stores = [] ∧ s.ctx.uhvec = h ∧ s.fqOpen s.ctx.part = true
theorem witness_MonitorDelivers_none : delivers (monitored 0) 0 := by unfold delivers; exact ⟨rfl, rfl, by decide +kernel, rfl, rfl, rfl, rfl, by decide +kernel⟩
theorem witness_MonitorDelivers_own : delivers (monitored 0x200) 0x200 := by
  unfold delivers; exact ⟨rfl, rfl, by decide +kernel, rfl, rfl, rfl, rfl, by decide +kernel⟩

/-- A bundle in issue at supervisor privilege. -/
def super (f : Ctx → Ctx) : State := { dev f with issue := { Issue.idle with user := false } }
def heldSuper : State := { held with issue := { Issue.idle with user := false } }
theorem witness_ReturnFromTrap : (heldSuper.issue.user = false ∧ heldSuper.ctx.mq = mop .mst 1 (some (0x0C, 5)) :: []
      ∧ (mop .mst 1 (some (0x0C, 5))).held.isSome = true ∧ heldSuper.ctx.mval = true ∧ heldSuper.ctx.dly = 0)
    ∧ (super (fun c => { c with dly := 1 })).ctx.dly = 1 ∧ (super (fun c => { c with dly := 2 })).ctx.dly = 2
    ∧ (dev id).issue.user = true ∧ OwnHandler (dev id) := by unfold OwnHandler; decide +kernel

theorem witness_SystemRegisterReads : (super id).issue.user = false ∧ (super id).ctx.block = some block
    ∧ (super id).ctx.stall = none ∧ (super id).ctx.walkReq = none ∧ (super id).ctx.hold = none ∧ (super id).ctx.msdef = 0
    ∧ (∀ e ∈ (super id).ctx.fpend, e.1 ≤ (super id).ptime)
    ∧ (let s := super (fun c => { c with msdef := 512 })
       s.ctx.msdef = BitVec.ofNat 64 (511 + 1) ∧ ∀ g, g < 8 → vget 0 (s.pchCal 511).used g ≤ 8) := by decide +kernel
theorem witness_SystemRegisterWrites : (super id).issue.user = false ∧ (super id).ctx.heldOp = none ∧ (super id).ctx.stores = []
    ∧ heldSuper.issue.user = false ∧ heldSuper.ctx.mq = mop .mst 1 (some (0x0C, 5)) :: [] ∧ heldSuper.ctx.stores = []
    ∧ (heldSuper.rS 3).getLsbD 11 = false := by decide +kernel
theorem witness_SystemFieldsReserved : fldN 0x70000013#32 26 6 = 0x1C ∧ 0x12 < fldN 0x70000013#32 0 16 := by decide +kernel
theorem witness_SystemRegisterPrivilege : (dev id).issue.user = true ∧ (0x0 : BitVec 16).toNat ≤ 0x12 ∧ (0x12 : BitVec 16).toNat ≤ 0x12
    ∧ (0x0 : BitVec 16) ∉ [(0x7 : BitVec 16), 0x8, 0x9, 0xD, 0xE, 0xF] ∧ (0xF : BitVec 16) ∈ [(0x7 : BitVec 16), 0x9, 0xE, 0xF]
    ∧ OwnHandler (dev id) := by unfold OwnHandler; decide +kernel

theorem witness_Calendar : regionOf ((dev id).rS 1) = .virt 0x100000000
    ∧ (dev id).translate (dev id).cur 0x100000000 1 .read (dev id).issue.user = .ok (extent 0 0) 0x10000
    ∧ isHbm 0x10000 = true ∧ 0 < (dev id).pkg.cal.bgper ∧ 0 < (dev id).pkg.cal.ablen ∧ ((dev id).pchCal (pchOf 0x10000)).deferred = []
    ∧ ((dev id).pchCal (pchOf 0x10000)).forced = none ∧ 0 < ((dev id).pchCal (pchOf 0x10000)).allowance (dev id).pkg.cal (bgOf 0x10000) := by
  decide +kernel

/-- The range's pages on a CXL port, or with the allowance of their bank group used up. -/
def onCxl : State := dev (fun c => { c with extents := [mkExtent 0 ⟨0, false, false⟩ false 0x2C true 0x100000 0x10000000 256 3] })
def usedUp : State := { dev id with pkg := { (dev id).pkg with pch := [(pchOf 0x10000, { PchCal.reset with used := Vector.replicate 8 8 })] } }
theorem witness_Calendar_others : onCxl.translate onCxl.cur 0x100000000 1 .read onCxl.issue.user = .ok (onCxl.ctx.extents.head?.getD (extent 0 0)) 0x10000000000
    ∧ isHbm 0x10000000000 = false ∧ (usedUp.pchCal (pchOf 0x10000)).allowance usedUp.pkg.cal (bgOf 0x10000) = 0 := by decide +kernel

def syncing : State := dev (fun c => { c with ddsync := true })
theorem witness_DictionarySync : (syncing.ctxAt 0).ddsync = true ∧ (∀ k ∈ (syncing.ctxAt 0).stores, ∀ off n, k.kind ≠ .dict off n) :=
  ⟨by decide +kernel, by simp [syncing, dev, State.ctxAt, tget, ctx0, Ctx.reset]⟩

/-! ### Witnesses: scalar memory -/

/-- A core with the range's first line in its L1; pages of another die, in its remote-data cache or not. -/
def cached : State := { dev id with cores := [(0, { (dev id).coreAt 0 with l1 := [⟨0, 0x4000000, 0x400, 5⟩] })] }
def far : State := dev (fun c => { c with extents := [mkExtent 0 ⟨0, false, false⟩ false 0x2C true 0x100000 (dieBytes / 4096) 256 3] })
def farHeld : State := { far with dies := [(0, { Die.reset with rdc := [⟨far.ctx.part, dieBytes / 64, 6⟩] })] }
def onSo : State := dev (fun c => { c with extents := [extent 1 0] })
def onUn : State := dev (fun c => { c with extents := [extent 2 0] })
def farExtent : Extent := far.ctx.extents.head?.getD (extent 0 0)

theorem noStore (s : State) (h : s.ctx.stores = []) (l : Nat) : NoStoreTo s l := by
  intro t ht; rw [h] at ht; exact absurd ht (List.not_mem_nil)
theorem matrixClear (s : State) (ea : Word) (n core : Nat) (h : s.ctx.mq = []) : MatrixClear s ea n core := by
  intro _ o ho; rw [h] at ho; exact absurd ho (List.not_mem_nil)
theorem lineClear (s : State) (f : MOp → Prop) (ea : Word) (pa n : Nat) (h : s.ctx.mq = []) : LineClear s f ea pa n := by
  intro _ o ho; rw [h] at ho; exact absurd ho (List.not_mem_nil)
/-- What shows that a load waits for nothing. -/
theorem loadFree {s : State} {k : PageKind} (ea : Word) (pa n : Nat) (h : s.ctx.loadWaits k = false ∧ s.ctx.mq = []) : LoadFree s k ea pa n :=
  ⟨h.1, lineClear _ _ _ _ _ h.2⟩
theorem windowFree {s : State} (ea : Word) (n : Nat) (h : s.ctx.loadWaits .rc = false ∧ s.ctx.mq = []) : WindowFree s ea n :=
  ⟨h.1, matrixClear _ _ _ _ h.2⟩

theorem witness_LoadsFromWindow : InWindow (dev id) ((dev id).addr 2 (0 : BitVec 16)) 8 0 0 ∧ InWindow (dev id) ((dev id).addr 2 (0x7FFF : BitVec 16)) 1 0 0x7FFF
    ∧ InWindow (dev id) ((dev id).addr 9 (0xFFF : BitVec 16)) 1 0 0x1FFFF ∧ WindowFree (dev id) ((dev id).addr 2 (0x7FFF : BitVec 16)) 1 :=
  ⟨windowOf 0 0 (by decide +kernel), windowOf 0 0x7FFF (by decide +kernel), windowOf 0 0x1FFFF (by decide +kernel), windowFree _ _ (by decide +kernel)⟩

/-- An error that stands in the first doubleword of the scratchpad, in row 5 of a tile, and in the L1's line. -/
def struck : State := { dev id with cores := [(0, { Core.reset with bad := [.dword 0, .row 0 5] })] }
theorem witness_LoadsFromWindow_error : ((dev id).coreAt 0).badBytes 0x7FFF 1 = false ∧ InWindow struck (struck.addr 2 (7 : BitVec 16)) 1 0 7
    ∧ (struck.coreAt 0).badBytes 7 1 = true ∧ (struck.coreAt 0).badBytes 8 8 = false ∧ OwnHandler struck ∧ WindowFree struck (struck.addr 2 (7 : BitVec 16)) 1 :=
  ⟨by decide +kernel, windowOf 0 7 (by decide +kernel), by decide +kernel, by decide +kernel, by unfold OwnHandler; decide +kernel, windowFree _ _ (by decide +kernel)⟩
theorem witness_SoftErrors : { dev id with agenda := [.upset (.control 0)] }.fqOpen ((dev id).ctxAt 0).part = true
    ∧ ((dev id).ctxAt 0).block = some block ∧ ((dev id).ctxAt 0).status = .running ∧ (dev id).noRoom = false ∧ Canonical (dev id) :=
  ⟨by decide +kernel, by rfl, by rfl, by rfl, canonical id⟩
theorem witness_SoftErrors_row : struck.ctx.heldOp = none ∧ struck.ctx.mq.length < 8 ∧ struck.ctx.mq = [] ∧ struck.ctx.declTile 0 = true
    ∧ { struck with ctxs := [(0, { ctx0 with regs := { regs with s := regs.s.set 4 5 } })] }.badRow 0 0 5 = true := by decide +kernel

def cachedBad : State := { dev id with cores := [(0, { (dev id).coreAt 0 with l1 := [⟨0, 0x4000000, 0x400, 5⟩], bad := [.line 0 0x4000000] })] }
def forwarding : State := dev (fun c => { c with stores := [{ pendingStore with kind := .line 0x400 false, mask := BitVec.allOnes 64, data := 9 }] })
/-- In a major slot, in which no request starts; with a line that ECC cannot correct. -/
def inSlot : State := { dev id with ptime := 100 }
def poisoned : State := { dev id with pkg := { (dev id).pkg with poisoned := [0x400] } }
theorem witness_LoadsFromMemory_cached : (∀ s ∈ [cached, cachedBad], s.l1Serves (s.addr 1 (0 : BitVec 16)).toNat 0x400 false = some ⟨0, 0x4000000, 0x400, 5⟩)
    ∧ Allowed cached (cached.addr 1 (0 : BitVec 16)) 8 .read false (extent 0 0) 0x10000 ∧ Allowed cachedBad (cachedBad.addr 1 (0 : BitVec 16)) 8 .read false (extent 0 0) 0x10000
    ∧ .line 0 0x4000000 ∉ (cached.coreAt 0).bad ∧ .line 0 0x4000000 ∈ (cachedBad.coreAt 0).bad
    ∧ (∀ s ∈ [cached, cachedBad], LoadFree s .rc (s.addr 1 (0 : BitVec 16)) 0x10000 8) ∧ NoStoreTo cached 0x400 ∧ OwnHandler cachedBad ∧ cachedBad.ctx.resume.marked = false :=
  ⟨by decide +kernel, allowedOf (by decide +kernel), allowedOf (by decide +kernel), by decide +kernel, by decide +kernel,
    by intro s h; simp only [List.mem_cons, List.not_mem_nil, or_false] at h; rcases h with rfl | rfl <;> exact loadFree _ _ _ (by decide +kernel), noStore _ rfl _,
    by unfold OwnHandler; decide +kernel, by decide +kernel⟩
theorem witness_LoadsFromMemory_own : Allowed forwarding (forwarding.addr 1 (0 : BitVec 16)) 8 .read false (extent 0 0) 0x10000
    ∧ LoadFree forwarding .rc (forwarding.addr 1 (0 : BitVec 16)) 0x10000 8 ∧ ∀ j, j < 8 → (forwarding.ctx.forwarded 0x400).getLsbD (0x10000 % 64 + j) = true :=
  ⟨allowedOf (by decide +kernel), loadFree _ _ _ (by decide +kernel), by decide +kernel⟩
theorem witness_LoadsFromMemory_remote : Allowed farHeld (farHeld.addr 1 (0 : BitVec 16)) 2 .read false farExtent dieBytes
    ∧ farHeld.l1Serves (farHeld.addr 1 (0 : BitVec 16)).toNat (dieBytes / 64) false = none ∧ (farExtent.kind == .so) = false
    ∧ farHeld.rdcServes 0 (dieBytes / 64) false = some ⟨farHeld.ctx.part, dieBytes / 64, 6⟩ ∧ LoadFree farHeld .rc (farHeld.addr 1 (0 : BitVec 16)) dieBytes 2 :=
  ⟨allowedOf (by decide +kernel), by decide +kernel, by decide +kernel, by decide +kernel, loadFree _ _ _ (by decide +kernel)⟩
theorem witness_LoadsFromMemory_home : (∀ s ∈ [dev id, inSlot, poisoned], s.l1Serves (s.addr 1 (0 : BitVec 16)).toNat 0x400 false = none ∧ s.rdcServes 0 0x400 false = none
      ∧ s.ctx.loadWaits .rc = false ∧ s.ctx.mq = [] ∧ s.ctx.stores = [])
    ∧ (Allowed (dev id) ((dev id).addr 1 (0 : BitVec 16)) 4 .read false (extent 0 0) 0x10000 ∧ (dev id).readHeld 0 0x400 false = false)
    ∧ (Allowed inSlot (inSlot.addr 1 (0 : BitVec 16)) 4 .read false (extent 0 0) 0x10000 ∧ inSlot.readHeld 0 0x400 false = true)
    ∧ (Allowed poisoned (poisoned.addr 1 (0 : BitVec 16)) 4 .read false (extent 0 0) 0x10000 ∧ poisoned.readHeld 0 0x400 false = false)
    ∧ (Allowed onSo (onSo.addr 1 (0 : BitVec 16)) 4 .read false (extent 1 0) 0x10000 ∧ (extent 1 0).kind = .so ∧ LoadFree onSo .so (onSo.addr 1 (0 : BitVec 16)) 0x10000 4)
    ∧ 0x400 ∉ (dev id).pkg.poisoned ∧ 0x400 ∈ poisoned.pkg.poisoned :=
  ⟨by decide +kernel, ⟨allowedOf (by decide +kernel), by decide +kernel⟩, ⟨allowedOf (by decide +kernel), by decide +kernel⟩,
    ⟨allowedOf (by decide +kernel), by decide +kernel⟩, ⟨allowedOf (by decide +kernel), by decide +kernel, loadFree _ _ _ (by decide +kernel)⟩, by decide +kernel, by decide +kernel⟩

theorem witness_StoresToMemory : Allowed (dev id) ((dev id).addr 1 (0 : BitVec 16)) 8 .write false (extent 0 0) 0x10000
    ∧ Allowed (dev id) ((dev id).addr 1 (0x7FFF : BitVec 16)) 1 .write false (extent 0 0) 0x17FFF :=
  ⟨allowedOf (by decide +kernel), allowedOf (by decide +kernel)⟩

theorem witness_StoresToWindow : InWindow (dev id) ((dev id).addr 2 (8 : BitVec 16)) 8 0 8 ∧ MatrixClear (dev id) ((dev id).addr 2 (8 : BitVec 16)) 8 0 ∧ (dev id).ctx.windowStoreWaits = false ∧ Canonical (dev id) :=
  ⟨windowOf 0 8 (by decide +kernel), matrixClear _ _ _ _ rfl, by decide +kernel, canonical id⟩

theorem witness_StoresToRegisters : (regionOf ((dev id).addr 6 (0 : BitVec 16)) = .transfer 0 ∧ (dev id).ctx.engineDeclared (64 * (((dev id).rS 4).toNat % 256)) = true)
    ∧ (regionOf ((dev id).addr 5 (0 : BitVec 16)) = .engine 0 ∧ (dev id).ctx.engineDeclared 0 = true ∧ (dev id).ctx.engineCheck 0 ((dev id).rS 0) = none)
    ∧ regionOf ((dev id).addr 7 (4 : BitVec 16)) = .dict 4 ∧ regionOf ((dev id).addr 7 (0 : BitVec 16)) = .dict 0 := by decide +kernel

/-- The range without the right to write; no extent. -/
def readOnly : State := dev (fun c => { c with block := some { block with lrec := { lrec with rng := [⟨0x100000000, 0x1000000, 0x81, 0⟩] } } })
def isFault (x : Xlat) : Bool := match x with | .fault _ => true | _ => false
theorem witness_AccessFaults : OwnHandler (dev id) ∧ (regionOf ((dev id).addr 1 (1 : BitVec 16)) = .virt ((dev id).addr 1 (1 : BitVec 16)).toNat ∧ ((dev id).addr 1 (1 : BitVec 16)).toNat % 2 ≠ 0)
    ∧ (regionOf ((dev id).addr 2 (1 : BitVec 16)) = .window 0 1 ∧ 1 % 8 ≠ 0) ∧ regionOf ((dev id).addr 8 (0 : BitVec 16)) = .undeclared
    ∧ (regionOf ((dev id).addr 11 (0 : BitVec 16)) = .virt ((dev id).addr 11 (0 : BitVec 16)).toNat ∧ ((dev id).addr 11 (0 : BitVec 16)).toNat % 8 = 0 ∧ (dev id).ctx.resume.marked = false
      ∧ isFault ((dev id).translate (dev id).cur ((dev id).addr 11 (0 : BitVec 16)).toNat 8 .read (dev id).issue.user) = true)
    ∧ isFault (readOnly.translate readOnly.cur (readOnly.addr 1 (0 : BitVec 16)).toNat 8 .write readOnly.issue.user) = true
    ∧ (regionOf ((dev id).addr 9 (0x1000 : BitVec 16)) = .window 0 0x20000 ∧ 0x20000 % 8 = 0 ∧ (dev id).windowAt (dev id).cur 0 0x20000 8 = none) :=
  ⟨own, by decide +kernel, by decide +kernel, by decide +kernel, by decide +kernel, by decide +kernel, by decide +kernel⟩

theorem witness_AcquireLoads : (Allowed (dev id) ((dev id).addr 1 (0 : BitVec 11)) Size.d.bytes .read false (extent 0 0) 0x10000 ∧ (extent 0 0).kind ≠ .un
      ∧ LoadFree (dev id) .rc ((dev id).addr 1 (0 : BitVec 11)) 0x10000 8 ∧ NoStoreTo (dev id) 0x400 ∧ 0x400 ∉ (dev id).pkg.poisoned)
    ∧ (∀ sc ∈ [Scope.ctx, .die, .sys], let u := (dev id).acquire (dev id).cur sc
        u.l1Serves ((dev id).addr 1 (0 : BitVec 11)).toNat 0x400 false = none ∧ u.rdcServes 0 0x400 false = none ∧ u.readHeld 0 0x400 false = false)
    ∧ (Allowed onUn (onUn.addr 1 (0 : BitVec 11)) Size.d.bytes .read false (extent 2 0) 0x10000 ∧ LoadFree onUn .un (onUn.addr 1 (0 : BitVec 11)) 0x10000 8)
    ∧ InWindow (dev id) ((dev id).addr 2 (0 : BitVec 11)) Size.b.bytes 0 0 ∧ WindowFree (dev id) ((dev id).addr 2 (0 : BitVec 11)) Size.b.bytes ∧ ((dev id).coreAt 0).badBytes 0 Size.b.bytes = false
    ∧ (regionOf ((dev id).addr 10 (0 : BitVec 11)) = .virt ((dev id).addr 10 (0 : BitVec 11)).toNat ∧ ((dev id).addr 10 (0 : BitVec 11)).toNat % Size.d.bytes ≠ 0) :=
  ⟨⟨allowedOf (by decide +kernel), by decide +kernel, loadFree _ _ _ (by decide +kernel), noStore _ rfl _, by decide +kernel⟩, by decide +kernel,
    ⟨allowedOf (by decide +kernel), loadFree _ _ _ (by decide +kernel)⟩, windowOf 0 0 (by decide +kernel), windowFree _ _ (by decide +kernel), by decide +kernel, by decide +kernel⟩

theorem witness_ReleaseStores : (Allowed (dev id) ((dev id).addr 1 (0 : BitVec 11)) 8 .write false (extent 0 0) 0x10000 ∧ (extent 0 0).kind ≠ .un)
    ∧ (Allowed onUn (onUn.addr 1 (0 : BitVec 11)) 8 .write false (extent 2 0) 0x10000 ∧ (extent 2 0).kind = .un ∧ OwnHandler onUn
      ∧ onUn.ctx.resume.marked = false) :=
  ⟨⟨allowedOf (by decide +kernel), by decide +kernel⟩, allowedOf (by decide +kernel), by decide +kernel, by unfold OwnHandler; decide +kernel,
    by decide +kernel⟩

theorem witness_ReleaseStores_window : InWindow (dev id) ((dev id).addr 2 (0 : BitVec 11)) 8 0 0 ∧ MatrixClear (dev id) ((dev id).addr 2 (0 : BitVec 11)) 8 0
    ∧ Canonical (dev id) ∧ Quiet (dev id) ∧ (dev id).ctx.barHold = false := ⟨windowOf 0 0 (by decide +kernel), matrixClear _ _ _ _ rfl, canonical id, quiet, rfl⟩

theorem witness_Atomics : Allowed (dev id) ((dev id).rS 1) 8 .readWrite false (extent 0 0) 0x10000 ∧ (extent 0 0).kind ≠ .un ∧ Canonical (dev id)
    ∧ Quiet (dev id) ∧ (dev id).ctx.barHold = false ∧ LineClear (dev id) (fun _ => True) ((dev id).rS 1) 0x10000 8
    ∧ (dev id).atomicHeld 0x400 = false ∧ 0x400 ∉ (dev id).pkg.poisoned
    ∧ memNat (dev id).mem 0x10000 8 = ((dev id).rS 0).toNat % 2 ^ 64 ∧ memNat (dev id).mem 0x10000 8 ≠ ((dev id).rS 4).toNat % 2 ^ 64 :=
  ⟨allowedOf (by decide +kernel), by decide +kernel, canonical id, quiet, rfl, lineClear _ _ _ _ _ rfl, by decide +kernel, by decide +kernel, by decide +kernel,
    by decide +kernel⟩
theorem witness_Atomics_window : InWindow (dev id) ((dev id).rS 2) 8 0 0 ∧ MatrixClear (dev id) ((dev id).rS 2) 8 0
    ∧ ((dev id).coreAt 0).badBytes 0 8 = false := ⟨windowOf 0 0 (by decide +kernel), matrixClear _ _ _ _ rfl, by decide +kernel⟩

def fenceStore (full : Bool) : Store := { pendingStore with seq := 1, kind := .fence full, rel := some .die, gated := false }
/-- A fence between two stores; a line that a store before it was directed to. -/
def fencedStores (full : Bool) : List Store := [{ pendingStore with gated := false }, fenceStore full, { pendingStore with gated := false, seq := 2 }]
def fenced (full : Bool) : State := dev (fun c => { c with seq := 3, directed := [⟨0x400, 0, 0, false, 0⟩], stores := fencedStores full })
theorem witness_Fences : (dev id).ctx.engineWaits = false ∧ Quiet (dev id) ∧ (dev id).ctx.barHold = false
    ∧ (∀ f ∈ [true, false], fenceStore f ∈ (fenced f).ctx.stores ∧ pendingStore.isAccess = true ∧ pendingStore.page ≠ .un ∧ (fenceStore f).rel = some .die
      ∧ scopeWide .die = true ∧ ⟨0x400, 0, 0, false, 0⟩ ∈ ((fenced f).ctxAt 0).directed ∧ 0 < (fenceStore f).seq ∧ isHbm (64 * 0x400) = true) :=
  ⟨by decide +kernel, quiet, rfl, by decide +kernel⟩

theorem witness_Invalidation : (cached.rS 0 = 0 ∧ (cached.rS 0).toNat ≤ 64 * 255) ∧ (cached.rS 3).toNat ≤ 64 * 255
    ∧ (cached.rS 1).toNat ≤ 64 * 0x4000000 ∧ (cached.coreAt 0).l1.length = 1 := by decide +kernel

/-- Probe tags: slot 0 holds a page in a state. -/
def tagged (page st : Nat) : State := dev (fun c => { c with tags := [(0, BitVec.ofNat 512 (page + st * 2 ^ 45))] })
theorem witness_ProbeLookup : (dev id).ctx.probeSlots ≠ 0 ∧ (dev id).ctx.probeHit 0x100000 = none ∧ (dev id).probeVictim (dev id).cur = some 0
    ∧ (dev id).ctx.chanLoad 15 < 16 ∧ ((dev id).rS 1).toNat / 4096 % 2 ^ 45 = 0x100000 := by decide +kernel

theorem witness_ProbeLookup_hit : (tagged 0x100000 1).ctx.probeHit 0x100000 = some 0 ∧ (tagged 0x100000 2).ctx.probeHit 0x100000 = some 0
    ∧ (tagged 0x200000 1).ctx.probeHit 0x100000 = none ∧ (tagged 0x200000 1).probeVictim (tagged 0x200000 1).cur = none := by decide +kernel

/-- Queue 0 enabled and owned by the device; full; a trace of launch 9. -/
def queued (n tail head : Nat) (traces : List Trace) : State :=
  { dev id with parts := [(0, { Part.reset with queues := [(0, { Queue.reset with base := 0x200000, en := true, own := true, log2n := n, tail := tail, head := head })],
                                                traces := traces })] }
theorem witness_DeviceAppends : ((queued 4 0 0 []).partAt 0).queueAt 0 = { Queue.reset with base := 0x200000, en := true, own := true, log2n := 4, tail := 0, head := 0 }
    ∧ (queued 4 0 0 []).ctx.part = 0 ∧ (((queued 4 0 0 []).partAt 0).queueAt 0).full = false ∧ (((queued 4 15 0 []).partAt 0).queueAt 0).full = true
    ∧ memByte (queued 4 0 0 []).mem 0x10000 ≠ 2 ∧ ((queued 4 0 0 []).rS 1).toNat % 64 = 0 ∧ ((queued 4 0 0 []).rS 4).toNat < 2 ^ 32 := by decide +kernel
theorem witness_DeviceAppends_trace : ((queued 4 0 0 [⟨64, lrec, 1, false, 0⟩]).partAt 0).traces.any (fun t => t.lid == ((queued 4 0 0 []).rS 3).extractLsb' 0 32) = true
    ∧ ((queued 4 0 0 []).partAt 0).traces = [] := by decide +kernel
theorem witness_DeviceAppends_quiet : Canonical (queued 4 0 0 []) ∧ Quiet (queued 4 0 0 []) := ⟨⟨rfl, fun _ => rfl⟩, rfl, rfl⟩
theorem witness_DeviceAppends_readable : ∀ k, k < 8 → Allowed (queued 4 0 0 []) ((queued 4 0 0 []).rS 1 + BitVec.ofNat 64 (64 * k)) 64 .read false (extent 0 0) (0x10000 + 64 * k)
    ∧ LoadFree (queued 4 0 0 []) .rc ((queued 4 0 0 []).rS 1 + BitVec.ofNat 64 (64 * k)) (0x10000 + 64 * k) 64
    ∧ viaRdc 0 (0x10000 + 64 * k) = false ∧ ((0x10000 + 64 * k) / 64) ∉ (queued 4 0 0 []).pkg.poisoned
    ∧ Sent (queued 4 0 0 []) ((0x10000 + 64 * k) / 64) false := by
  intro k hk
  rcases (by omega : k = 0 ∨ k = 1 ∨ k = 2 ∨ k = 3 ∨ k = 4 ∨ k = 5 ∨ k = 6 ∨ k = 7) with rfl | rfl | rfl | rfl | rfl | rfl | rfl | rfl <;>
    exact ⟨allowedOf (by decide +kernel), loadFree _ _ _ (by decide +kernel), by decide +kernel, by decide +kernel, by unfold Sent; decide +kernel⟩

def fills (n : Nat) : State := dev (fun c => { c with stores := List.replicate n { pendingStore with kind := .start 15 } })
theorem witness_ProbeLookup_full : (fills 16).ctx.probeHit 0x100000 = none ∧ (fills 16).probeVictim (fills 16).cur = some 0 ∧ 16 ≤ (fills 16).ctx.chanLoad 15
    ∧ (fills 15).ctx.chanLoad 15 < 16
    ∧ (dev (fun c => { c with block := some { block with kernel := { kernel with pslots := 0 } } })).ctx.probeSlots = 0 := by decide +kernel

/-! ### Witnesses: vectors, tongs, matrix, lines, kept tiles, engines -/

theorem witness_VectorIntegers : Fmt.i32.isFL = false ∧ Fmt.i8.isFL = false := by decide
theorem witness_VectorFloats : Fmt.f32.isFL = true ∧ Fmt.bf16.isFL = true := by decide
theorem witness_VectorGradients : (0 < toInt 1 Fmt.i32.width ∧ ¬ 0 < toInt 0 Fmt.i32.width)
    ∧ ((fmtSpec .f32).isNan 0x3F800000 = false ∧ 0 < (fmtSpec .f32).key 0x3F800000) ∧ (fmtSpec .f32).isNan 0x7FC00001 = true := by decide +kernel
theorem witness_VectorConvert : Fmt.bf16.width ≤ Fmt.f32.width ∧ Fmt.bf16.width < Fmt.f32.width := by decide

def untrapped : State := { dev id with issue := { Issue.idle with te := false } }
theorem witness_TongsOperations : (dev id).issue.te = true ∧ untrapped.issue.te = false ∧ OwnHandler untrapped := by unfold OwnHandler; decide +kernel
def tongs (n : Nat) : Tongs := { Tongs.zero with hist := [(0, .push 3 7), (n, .clear)] }
theorem witness_TongsView : ((tongs 2).hist = (0, .push 3 7) :: [(2, .clear)] ∧ 0 + 4 ≤ 4 ∧ ∀ e ∈ [(2, XOp.clear)], 4 < e.1 + 4)
    ∧ (∀ e ∈ (tongs 1).hist, 3 < e.1 + 4) ∧ ({ tongs 0 with hist := [(0, .width .w32)] } : Tongs).hist = (0, .width .w32) :: [] := by decide +kernel

def gset64 : Line := BitVec.ofNat 512 (2 + 2 * 2 ^ 8 + 16 * 2 ^ 16)
def withSet : State := dev (fun c => { c with gset := [(0, gset64)] })
theorem witness_MatrixIssue : (withSet.ctx.heldOp = none ∧ withSet.ctx.mq.length < 8 ∧ (∀ o ∈ withSet.ctx.mq, o.tile ≠ 3)
      ∧ withSet.ctx.declTile 3 = true) ∧ (withSet.ctx.declSet 0 = true ∧ gsetUsable (tget gsetUndefined withSet.ctx.gset 0) true = true)
    ∧ (regionOf (withSet.rS 1) = .virt 0x100000000 ∧ (withSet.rS 1).toNat % 64 = 0) ∧ (regionOf (withSet.rS 2) = .window 0 0
      ∧ (withSet.rS 2).toNat % 64 = 0) ∧ (withSet.ctx.declKbuf 3 = true ∧ (withSet.rS 4).toNat < 64 ∧ withSet.badRow withSet.cur 3 1 = false)
    ∧ withSet.ctx.clearsNow 3 withSet.ptime = false ∧ (dev (fun c => { c with tileT := [(3, 5000)] })).ctx.clearsNow 3 5000 = true := by decide +kernel
theorem witness_MatrixIssue_quiet : Quiet withSet := by unfold Quiet; decide +kernel
theorem witness_MatrixFaultDelivery : held.ctx.mq = mop .mst 1 (some (0x0C, 5)) :: [] ∧ (mop .mst 1 (some (0x0C, 5))).held = some (0x0C, 5)
    ∧ OwnHandler held := by unfold OwnHandler; decide +kernel

def working (k : MKind) : State := dev (fun c => { c with gset := [(0, gset64)], mq := [{ mop k 1 none with addrA := 0x1000, gset := gset64 }] })
def writing (k : MKind) : State := dev (fun c => { c with mq := [mop k 1 none] })
theorem witness_MatrixTileWrites : ∀ k ∈ [MKind.mzero, .mwr, .mrd], ((writing k).ctxAt 0).mHead = some (mop k 1 none)
    ∧ ((writing k).ctxAt 0).stores = [] ∧ ((writing k).ctxAt 0).tileNo 1 < 8 ∧ (mop k 1 none).addrA.toNat < 64 ∧ (writing k).noRoom = false
    ∧ (mop k 1 none).time + (mop k 1 none).cycles ≤ (writing k).ptime := by decide +kernel
theorem witness_MatrixRowFaults : (((working .mst).ctxAt 0).mHead = some { mop .mst 1 none with addrA := 0x1000, gset := gset64 }
      ∧ ((working .mst).runM 0 { mop .mst 1 none with addrA := 0x1000, gset := gset64 }).1.stop.isSome = true
      ∧ ((working .mst).runM 0 { mop .mst 1 none with addrA := 0x1000, gset := gset64 }).1.wait = false
      ∧ ((working .mst).runM 0 { mop .mst 1 none with addrA := 0x1000, gset := gset64 }).1.over_ = []
      ∧ ((working .mst).runM 0 { mop .mst 1 none with addrA := 0x1000, gset := gset64 }).1.s.noRoom = false)
    ∧ ((0 : Nat) < gM gset64 ∧ 0 < Nat.min (gN gset64 * tfmtBits .f32 / 8) 64 ∧ regionOf (0x1000 : Word) = .virt 0x1000
      ∧ isFault ((working .mst).translateNow 0 1 0x1000 (Nat.min (gN gset64 * tfmtBits .f32 / 8) 64) .write true).1 = true
      ∧ isFault ((working .mst).translateNow 0 1 0x1000 (Nat.min (gN gset64 * tfmtBits .f32 / 8) 64) .read true).1 = true
      ∧ isFault ((working .mma).translateNow 0 1 0x1000 1 .read true).1 = true)
    ∧ ((writing .mzero).runM 0 (mop .mzero 1 none)).1.stop = none ∧ ((dev id).ctxAt 0).mHead = none := by decide +kernel

/-- An operation on one row of one element in the virtual space, or in the window; the pages are mapped to memory that holds zeros. -/
def gset1 : Line := BitVec.ofNat 512 (1 + 1 * 2 ^ 8 + 16 * 2 ^ 16)
def small (k : MKind) (a : Word) : MOp := { mop k 1 none with addrA := a, addrB := 0x100000000, gset := gset1, z := true }
def runs (k : MKind) (a : Word) : State := dev (fun c => { c with mq := [small k a] })
theorem engineOf {s : State} {i : Nat} {u raw : Bool} {ea : Word} {n : Nat} {k : AccKind} {e x : Extent} {pa : Nat} (hx : (s.ctxAt i).extents = [x])
    (h : regionOf ea = .virt ea.toNat ∧ s.translate i ea.toNat n k u = .ok e pa ∧ (e.k = false ∨ raw = true)) : EngineAllowed s i u raw ea n k e pa :=
  ⟨h.1, fun g key a ha b hb _ _ => by rw [hx] at ha hb; simp only [List.mem_singleton] at ha hb; rw [ha, hb], h.2.1, h.2.2⟩
theorem zeroBytes {s : State} {i : Nat} {o : MOp} {ea : Word} {n : Nat} (hn : n ≤ 64) (h : MatrixLine s i o false ea n 0) :
    MatrixBytes s i o false ea n 0 := by
  refine ⟨Nat.two_pow_pos _, fun c hc => ⟨0, ?_, fun b _ => by simp⟩⟩
  obtain rfl : c = 0 := by omega
  simpa [Nat.min_eq_right hn] using h
theorem runsLine (k : MKind) (n : Nat) (hn : n = 32 ∨ n = 4) : MatrixLine (runs k 0x100000000) 0 (small k 0x100000000) false 0x100000000 n 0 := by
  rcases hn with rfl | rfl <;>
    exact .inr ⟨extent 0 0, 0x10000, engineOf (x := extent 0 0) rfl (by cases k <;> decide +kernel), by decide +kernel, by cases k <;> decide +kernel,
      fun x hx => absurd hx List.not_mem_nil, by cases k <;> decide +kernel⟩
theorem witness_MatrixResults : ∀ e ∈ [(MKind.mma, (0x100000000 : Word)), (.mld, 0x100000000), (.mst, 0x100000000), (.mst, 0xF000000000000000)],
    let s := runs e.1 e.2; let o := small e.1 e.2; let run := (s.runM 0 o).1
    (s.ctxAt 0).mHead = some o ∧ (s.ctxAt 0).stores = [] ∧ (s.ctxAt 0).tileNo o.tile < 8 ∧ gM o.gset ≤ 64 ∧ gN o.gset ≤ 128
      ∧ run.stop = none ∧ run.wait = false ∧ run.over_ = [] ∧ run.s.noRoom = false ∧ Nat.max o.time run.last + o.cycles ≤ s.ptime := by decide +kernel
theorem witness_MatrixResults_mma : OperandRow (runs .mma 0x100000000) 0 (small .mma 0x100000000) .bf16 0x100000000 0 .zero 0 (plainRow .bf16 16 0) := by
  have hk : gK (small .mma 0x100000000).gset = 16 := by decide +kernel
  refine .inl ⟨.inr ⟨extent 0 0, 0x10000, engineOf (x := extent 0 0) rfl (by decide +kernel)⟩, 0, ?_, ?_⟩ <;> rw [hk]
  · have h := zeroBytes (by decide) (runsLine .mma 32 (.inl rfl))
    simpa [mfmtBits] using h
  · simp
theorem witness_MatrixResults_mld : MatrixBytes (runs .mld 0x100000000) 0 (small .mld 0x100000000) false 0x100000000 4 0 :=
  zeroBytes (by decide) (runsLine .mld 4 (.inr rfl))
theorem witness_MatrixResults_mst : EngineWindow (runs .mst 0xF000000000000000) 0 0xF000000000000000 4 0 0
    ∧ EngineAllowed (runs .mst 0x100000000) 0 true false 0x100000000 4 .write (extent 0 0) 0x10000 ∧ 0x10000 % 64 = 0
    ∧ (runs .mst 0x100000000).tagAllows 0x400 ((runs .mst 0x100000000).ctxAt 0).wid = true ∧ Canonical (runs .mst 0x100000000) :=
  ⟨⟨0, 0, by decide +kernel⟩, engineOf (x := extent 0 0) rfl (by decide +kernel), by decide, by decide +kernel, canonical _⟩

theorem witness_ScaleBuffers : (dev id).issue.te = true ∧ (dev id).ctx.declKbuf 3 = true ∧ ((dev id).rS 1).toNat % 64 = 0 := by decide +kernel

/-- A line of the range, or of the window, as a load reads it. -/
theorem lineAt (k : Nat) (h : k < 8) : LineAt (dev id) false ((dev id).rS 1 + BitVec.ofNat 64 (64 * k)) (memLine (dev id).mem ((0x10000 + 64 * k) / 64)) := by
  refine .inr ⟨extent 0 0, 0x10000 + 64 * k, ?_, loadFree _ _ _ (by decide +kernel), noStore _ rfl _, ?_, ⟨?_, ?_⟩, .inl ?_, rfl⟩
  all_goals rcases (by omega : k = 0 ∨ k = 1 ∨ k = 2 ∨ k = 3 ∨ k = 4 ∨ k = 5 ∨ k = 6 ∨ k = 7) with rfl | rfl | rfl | rfl | rfl | rfl | rfl | rfl
  all_goals first | exact allowedOf (by decide +kernel) | decide +kernel
theorem windowLine : LineAt (dev id) false ((dev id).rS 2) (memLine ((dev id).coreAt 0).scratch 0) :=
  .inl ⟨rfl, windowFree _ _ (by decide +kernel), 0, 0, windowOf 0 0 (by decide +kernel), rfl, rfl⟩

def landingOf (w : KWrite) : State := dev (fun c => { c with bnum := 20, kpend := [⟨20, 1, w⟩] })
theorem witness_KWriteLanding_load : (∀ w ∈ [KWrite.clear, .load 64 64 (List.replicate 64 1)], ((landingOf w).ctxAt 0).kpend.filter (fun p => decide (p.due ≤ 20)) = [⟨20, 1, w⟩])
    ∧ (List.replicate 64 (1 : Byte)).length = 64 ∧ 64 + 64 ≤ 16384 := by decide +kernel
def landing (at_ : Nat) : State := dev (fun c => { c with bnum := 20, kpend := [⟨at_, 1, .band 0x10001⟩] })
theorem witness_KWriteLanding : (∀ p ∈ ((landing 21).ctxAt 0).kpend, 20 < p.due)
    ∧ ((landing 20).ctxAt 0).kpend.filter (fun p => decide (p.due ≤ 20)) = [⟨20, 1, .band 0x10001⟩] ∧ ((landing 20).ctxAt 0).kbufNo 1 < 4 := by decide +kernel

def handles (x : Line) : State := dev (fun c => { c with handles := [(3, x)] })
theorem witness_VectorLoads : (((dev id).rS 1 + BitVec.ofInt 64 ((0 : BitVec 13).toInt * 64)).toNat % 64 = 0 ∧ ((dev id).rS 3).toNat % 64 = 0)
    ∧ ((handles (handle 0 0 2 0)).ctx.handleOk 3 = true ∧ 64 * (0 : BitVec 13).toNat + 512 ≤ hSize (handle 0 0 2 0)
      ∧ hState (handle 0 0 2 0) (hCP (handle 0 0 2 0)) = 2) ∧ ((dev id).rS 2).toNat % 4 = 0 := by decide +kernel
theorem witness_VectorLoads_gather : (WindowFree (dev id) ((dev id).rS 2) 4 ∧ LoadFree (dev id) .rc ((dev id).rS 1) 0x10000 4)
    ∧ InWindow (dev id) ((dev id).rS 2 + BitVec.ofNat 64 (4 * elem ((dev id).rV 0) 32 0)) 4 0 0
    ∧ ((dev id).coreAt 0).badLine 0 (BitVec.allOnes 64) = false
    ∧ Allowed (dev id) ((dev id).rS 1 + BitVec.ofNat 64 (4 * elem ((dev id).rV 0) 32 0)) 4 .read false (extent 0 0) 0x10000
    ∧ NoStoreTo (dev id) 0x400 ∧ 0x400 ∉ (dev id).pkg.poisoned ∧ Sent (dev id) 0x400 false ∧ viaRdc 0 0x10000 = false :=
  ⟨⟨windowFree _ _ (by decide +kernel), loadFree _ _ _ (by decide +kernel)⟩, windowOf 0 0 (by decide +kernel), by rfl, allowedOf (by decide +kernel),
    noStore _ rfl _, by decide +kernel, ⟨by decide +kernel, by decide +kernel⟩, by decide +kernel⟩

theorem witness_VectorStores : (∀ c, c < 8 → ∃ x, Allowed (dev id) ((dev id).rS 1 + BitVec.ofNat 64 (64 * c)) 64 .write false x (0x10000 + 64 * c))
    ∧ (∀ c, c < 8 → InWindow (dev id) ((dev id).rS 2 + BitVec.ofNat 64 (64 * c)) 64 0 (64 * c)
      ∧ MatrixClear (dev id) ((dev id).rS 2 + BitVec.ofNat 64 (64 * c)) 64 0) ∧ (dev id).ctx.windowStoreWaits = false := by
  refine ⟨fun k h => ⟨extent 0 0, ?_⟩, fun k h => ⟨windowOf 0 (64 * k) ?_, matrixClear _ _ _ _ rfl⟩, by decide +kernel⟩
  all_goals rcases (by omega : k = 0 ∨ k = 1 ∨ k = 2 ∨ k = 3 ∨ k = 4 ∨ k = 5 ∨ k = 6 ∨ k = 7) with rfl | rfl | rfl | rfl | rfl | rfl | rfl | rfl
  all_goals first | exact allowedOf (by decide +kernel) | decide +kernel
theorem witness_VectorStores_handle : (handles (handle 0 0 1 0)).ctx.handleOk 3 = true ∧ 64 * (0 : BitVec 13).toNat + 512 ≤ hSize (handle 0 0 1 0)
    ∧ hState (handle 0 0 1 0) (hPP (handle 0 0 1 0)) ≤ 1 ∧ (handles (handle 0 0 1 0)).ctx.stores = [] ∧ Canonical (handles (handle 0 0 1 0)) :=
  ⟨by decide +kernel, by decide +kernel, by decide +kernel, rfl, canonical _⟩
theorem witness_VectorStores_scatter : Allowed (dev id) ((dev id).rS 1 + BitVec.ofNat 64 (4 * elem ((dev id).rV 0) 32 0)) 4 .write false (extent 0 0) 0x10000
    ∧ InWindow (dev id) ((dev id).rS 2 + BitVec.ofNat 64 (4 * elem ((dev id).rV 0) 32 0)) 4 0 0 ∧ Canonical (dev id) :=
  ⟨allowedOf (by decide +kernel), windowOf 0 0 (by decide +kernel), canonical id⟩

/-- A kept tile at the range's base whose payload is zeros; s12 is a shape word. -/
def tile (rdr form n cols win plen : Nat) : Line := header rdr form 0 0 n cols win 0 0 (crc32c (List.replicate plen 0)) plen
def kept (h : Line) : State :=
  { dev (fun c => { c with extents := [extent 0 1] }) with mem := memWriteLine [] 0x400 h (BitVec.allOnes 64) }
def shape (cols win tsize : Nat) : Word := BitVec.ofNat 64 (cols + win * 2 ^ 16 + tsize * 2 ^ 40)
theorem oneExtent {s : State} {i va : Nat} {x : Extent} (h : (s.ctxAt i).extents = [x]) : OneExtent s i va := by
  intro g key a ha b hb _ _; rw [h] at ha hb; simp only [List.mem_singleton] at ha hb; rw [ha, hb]

theorem witness_KeptStore : (shapeOk 5 128 (shape 64 0 9) = true ∧ 64 + 64 * ((payloadLen 5 128 0 + 63) / 64) ≤ 64 * getF (shape 64 0 9) 40 8)
    ∧ (shapeOk 2 256 (shape 256 64 2) = true ∧ 64 + 64 * ((payloadLen 2 256 64 + 63) / 64) ≤ 64 * getF (shape 256 64 2) 40 8)
    ∧ ((kept 0).rS 1).toNat % 64 = 0 ∧ ((kept 0).rS 1).toNat % 4096 + 64 * getF (shape 64 0 9) 40 8 ≤ 4096
    ∧ shapeOk 5 128 (shape 0 0 9) = false ∧ ¬ ((kept 0).rS 10).toNat % 64 = 0 ∧ 64 * getF (shape 64 0 2) 40 8 < 64 + 64 * ((payloadLen 5 128 0 + 63) / 64)
    ∧ shapeOk 5 128 (shape 64 0 2) = true := by decide +kernel
theorem witness_KeptStore_lines : ∀ j, j ≤ 1 → ∃ e, Allowed (kept 0) ((kept 0).rS 1 + BitVec.ofNat 64 (64 * j)) 64 .write true e (0x10000 + 64 * j) := by
  intro j hj
  rcases (by omega : j = 0 ∨ j = 1) with rfl | rfl <;> exact ⟨extent 0 1, allowedOf (by decide +kernel)⟩

def reluTile : Line := tile 1 1 128 64 0 16
def poolTile : Line := tile 2 2 128 128 2 64
def deqTile : Line := tile 4 3 128 64 0 82
def ldkTile : Line := tile 5 4 128 64 0 256
set_option maxRecDepth 20000 in
theorem witness_KeptReaders_accepted : accepted .vrelub reluTile 0x100000000 = true ∧ accepted .vmaxpb poolTile 0x100000000 = true
    ∧ accepted .vdeqk deqTile 0x100000000 = true ∧ accepted .vldk ldkTile 0x100000000 = true ∧ accepted .vldk reluTile 0x100000000 = false := by decide +kernel
theorem witness_KeptReaders_payload : crcOk reluTile [0] = true ∧ [(0 : Line)].length = (kPlen reluTile + 63) / 64 ∧ kNelem reluTile = 4096 / Fmt.width .f32
    ∧ crcOk poolTile [0] = true ∧ kNelem poolTile = 4096 / Fmt.width .f32 ∧ kWin poolTile = (1 : BitVec 6).toNat + 1 := by decide +kernel
theorem witness_KeptReaders_deq : crcOk deqTile [0, 0] = true ∧ [(0 : Line), 0].length = (kPlen deqTile + 63) / 64 := by decide +kernel
set_option maxRecDepth 20000 in
theorem witness_KeptReaders_ldk : crcOk ldkTile [0, 0, 0, 0] = true ∧ [(0 : Line), 0, 0, 0].length = (kPlen ldkTile + 63) / 64 := by decide +kernel
theorem witness_KeptReaders_lines : LineAt (kept reluTile) true ((kept reluTile).rS 1) reluTile
    ∧ LineAt (kept reluTile) true ((kept reluTile).rS 1 + 64) 0 ∧ OneExtent (kept reluTile) 0 ((kept reluTile).rS 1 + 64).toNat :=
  ⟨.inr ⟨extent 0 1, 0x10000, allowedOf (by decide +kernel), loadFree _ _ _ (by decide +kernel), noStore _ rfl _, by decide +kernel, ⟨by decide +kernel, by decide +kernel⟩, .inl (by decide +kernel), by decide +kernel⟩,
    .inr ⟨extent 0 1, 0x10040, allowedOf (by decide +kernel), loadFree _ _ _ (by decide +kernel), noStore _ rfl _, by decide +kernel, ⟨by decide +kernel, by decide +kernel⟩, .inl (by decide +kernel), by decide +kernel⟩,
    oneExtent (x := extent 0 1) rfl⟩
theorem witness_KeptReaders_refused : OwnHandler (kept reluTile) ∧ crcOk reluTile [1] = false := ⟨by unfold OwnHandler; decide +kernel, by decide +kernel⟩

def slots (s0 s1 : Nat) : State := handles (handle 1 0 s0 s1)
def passes (s : State) (n p : Nat) (ok : Nat → Bool) : Bool := (List.range n).all (fun j => ok (hState (s.ctx.handle 3) ((p + j) % hCount (s.ctx.handle 3))))
theorem witness_HandleInstructions : ((slots 2 2).ctx.handleOk 3 = true ∧ hCount ((slots 2 2).ctx.handle 3) = 2 ∧ passes (slots 2 2) 2 0 (· == 2) = true)
    ∧ passes (slots 0 0) 2 1 (· == 0) = true ∧ (passes (slots 1 0) 2 1 (· ≤ 1) = true ∧ (slots 1 0).slotsPinned (slots 1 0).cur 3 2 = false)
    ∧ passes (slots 2 0) 2 0 (· == 2) = false ∧ passes (slots 2 0) 2 1 (· ≤ 1) = false ∧ passes (slots 1 0) 2 1 (· == 0) = false ∧ ((dev id).ctx.handleOk 3 = false ∧ (3 : BitVec 5) ≠ 31) := by decide +kernel
theorem witness_HandleInstructions_probe : 0 < (tagged 0x100000 2).ctx.probeSlots ∧ (tagged 0x100000 2).ctx.probeWin 0 = (tagged 0x100000 2).rS 9
    ∧ gState ((tagged 0x100000 2).ctx.tagAt 0) = 2 := by decide +kernel
theorem witness_HandleInstructions_traps : (∀ s ∈ [slots 2 2, slots 0 0, slots 1 0], s.ctx.stores = [] ∧ s.ctx.joins = []) ∧ OwnHandler (slots 2 0)
    ∧ hCount ((slots 2 0).ctx.handle 3) < (3 : BitVec 16).toNat := by unfold OwnHandler; decide +kernel
theorem witness_QueueFence : (dev id).ctx.stores = [] := rfl

/-- A gang of one core. -/
def gang : Block := { block with kernel := { kernel with lt := [⟨4, 0, true, false, 1⟩] }, lrec := { lrec with lt := [⟨4, 0, true, false, 1⟩], nlev := 1 } }

/-! ### Witnesses: barriers, bundles, the front end -/

/-- A block of a gang of one member; group 0 of partition 0 names block 0 of queue 0. -/
def gangBlock : Block := { block with lrec := { lrec with lt := [⟨1, 0, true, false, 1⟩] } }
def ganged (bar : List Store) : State :=
  { dev (fun c => { c with block := some gangBlock, handles := [(3, handle 0 0 0 0)], stores := bar }) with
    mem := [(0x2000, 1), (0x2009, 0x21)], parts := [(0, { Part.reset with grp := 0x2000 })] }
theorem witness_Barriers : ((ganged []).ctx.gangSize ≠ 0 ∧ (ganged []).barReached (ganged []).cur = true)
    ∧ (ganged [pendingStore]).barReached (ganged [pendingStore]).cur = false ∧ ((ganged []).rS 0).toNat ≤ ((ganged []).ctx.wp 3).toNat
    ∧ ((ganged []).ctx.wp 3).toNat < ((ganged []).rS 4).toNat := by decide +kernel
theorem witness_Collectives : (ganged []).ctx.credWaits 3 = false ∧ (4 : BitVec 4).toNat < 5 ∧ (ganged []).credCheck 3 ((ganged []).rS 2) 0 = none
    ∧ (ganged []).ctx.stores = [] ∧ (ganged []).ctx.joins = [] := by decide +kernel

/-- A word as the next bundle after reset. -/
def placed (w : SlotWord) : State := State.reset.placeWord w
def divBundle : Bundle := { pc := 0, first := 0x20000000, hdr := 0x20000000, words := [(0, 0x00642C81)], len := 2 }
def brBundle : Bundle := { pc := 0, first := 0x20000000, hdr := 0x20000000, words := [(0, 0x40800005)], len := 2 }
def isBundle (x : Fetch Bundle) (b : Bundle) : Bool := match x with | .ok c => c == b | _ => false
theorem isBundle_eq (x : Fetch Bundle) (b : Bundle) (h : isBundle x b = true) : x = .ok b := by
  cases x <;> simp_all [isBundle]
def decodes (sl : Slot) (w : SlotWord) (i : Instr) : Bool := match decodeSlot sl w with | .ok j => j == i | .error _ => false
theorem decodes_eq (sl : Slot) (w : SlotWord) (i : Instr) (h : decodes sl w i = true) : decodeSlot sl w = .ok i := by
  unfold decodes at h; split at h <;> simp_all

theorem witness_StepRuns : (placed 0x00642C81).agenda = [] ∧ (placed 0x00642C81).issueQ = 0 :: [] ∧ ((placed 0x00642C81).cur = 0) := by decide +kernel
def opsAre (x : Except (Nat × Nat × SlotWord) (List SlotOp)) (l : List SlotOp) : Bool := match x with | .ok m => m == l | .error _ => false
theorem opsAre_eq (x : Except (Nat × Nat × SlotWord) (List SlotOp)) (l : List SlotOp) (h : opsAre x l = true) : x = .ok l := by
  cases x <;> simp_all [opsAre]
/-- What shows that a bundle is attempted. -/
theorem attempts {s : State} {b : Bundle} {ops : List SlotOp} {after : Nat}
    (h : (s.mayAttempt s.cur = true ∧ (s.ctx.slot = 0 ∧ s.ctx.posted = false ∧ s.ctx.inIssue = none) ∧ (∀ n, n < 8 → getB (vget 0 s.ctx.bps n) 63 = false)
      ∧ isBundle (s.fetchBundle s.cur s.ctx.pc.toNat) b = true ∧ opsAre ((bundleState s b 0 false).decodeBundle b) ops = true)
      ∧ (issuedState s b ops after).ctx.block.isSome = true ∧ (transfers ops = true ∧ isOk (s.afterTwo s.cur (s.ctx.pc.toNat + b.len)) after = true ∨ transfers ops = false ∧ after = 0)
      ∧ s.ctx.delay = none ∧ s.ctx.loops = [] ∧ (markedState s b ops after).ctx.mq = [] ∧ (markedState s b ops after).bundleWait ops = .none
      ∧ (markedState s b ops after).needs ops = 0) : Attempts s b ops after where
  may := h.1.1
  whole := h.1.2.1
  noBreak := h.1.2.2.1
  fetched := isBundle_eq _ _ h.1.2.2.2.1
  decoded := opsAre_eq _ _ h.1.2.2.2.2
  stays := h.2.1
  second := by
    rcases h.2.2.1 with ⟨a, c⟩ | ⟨a, c⟩ <;> simp only [a, if_true, Bool.false_eq_true, if_false]
    · exact isOk_eq _ _ c
    · exact c
  delay := .inl h.2.2.2.1
  ends := fun _ => by unfold Ctx.endsLevel; rw [h.2.2.2.2.1]; rfl
  held := .inl (by unfold Ctx.heldOp; rw [h.2.2.2.2.2.1])
  waits := h.2.2.2.2.2.2.1
  room := .inl h.2.2.2.2.2.2.2

theorem witness_StepRuns_issues : Issues (placed 0x00642C81) divBundle 0 0x00642C81 (.div 3 4 5 true) 0 :=
  ⟨⟨rfl, decodes_eq _ _ _ (by decide +kernel)⟩, attempts (by decide +kernel)⟩
theorem witness_StepRuns_transfer : Issues (placed 0x40800005) brBundle 0 0x40800005 (.br 1 false 5) 4 :=
  ⟨⟨rfl, decodes_eq _ _ _ (by decide +kernel)⟩, attempts (by decide +kernel)⟩
/-- The slot of a placed word as its step executes it: `addi` goes on, `div` by zero traps. -/
def slotOf (w : SlotWord) : State := slotState { placed w with issueQ := [] } { divBundle with words := [(0, w)] } 0 0 w (match decodeSlot .sa w with | .ok i => i | .error _ => .exit)
theorem witness_StepRuns_stop : ((after (slotOf 0x00642C81) (.div 3 4 5 true)).issue.stop = .trapped ∧ (after (slotOf 0x00642C81) (.div 3 4 5 true)).noRoom = false)
    ∧ ((after (slotOf 0x04718001) (.addi 3 17 0x8001)).issue.stop = .go ∧ (after (slotOf 0x04718001) (.addi 3 17 0x8001)).noRoom = false) := by decide +kernel

/-- `ld.d` from the range at the pc, inside a major slot: it waits at its slot. -/
def ldLine : Line := BitVec.ofNat 512 (0x10000000 + 0xAC810000 * 2 ^ 32)
def loadBundle : Bundle := { pc := 0, first := 0x10000000, hdr := 0x10000000, words := [(1, 0xAC810000)], len := 2 }
def loading : State := { dev (fun c => { c with ibuf := [{ vline := 0, pline := 0, data := ldLine, user := true }] }) with
  ptime := 100, mem := memWriteLine [] 0 ldLine (BitVec.allOnes 64) }
theorem witness_StepRuns_held : Issues loading loadBundle 1 0xAC810000 (.ldD 4 1 0) 0
    ∧ (let t := after (slotState loading loadBundle 0 1 0xAC810000 (.ldD 4 1 0)) (.ldD 4 1 0)
       t.issue.stop = .held ∧ t.issue.slot = 1 ∧ t.noRoom = false) :=
  ⟨⟨⟨rfl, decodes_eq _ _ _ (by decide +kernel)⟩, attempts (by decide +kernel)⟩, by decide +kernel⟩

/-- An end-of-kernel marker, and a header of the reserved kind, as the next word. -/
def header8 (h : SlotWord) : State :=
  { dev (fun c => { c with ibuf := [{ vline := 0, pline := 0, data := h.setWidth 512, user := true }] }) with
    mem := memWriteLine [] 0 (h.setWidth 512) (BitVec.allOnes 64) }
def entryLine : Line := BitVec.ofNat 512 (2 ^ 29 + 0x04718001 * 2 ^ 32 + 2 ^ 480)
/-- A bundle of the dictionary at the pc, whose entry holds one `addi`. -/
def fromEntry : State := { header8 0x40000000 with ctxs := [(0, { (header8 0x40000000).ctx with dict := [(0, entryLine)] })] }
def addiOp : SlotOp := { slot := 0, word := 0x04718001, op := .addi 3 17 0x8001 }
theorem witness_BundleKinds_completes : Attempts (placed 0x04718001) { divBundle with words := [(0, 0x04718001)] } [addiOp] 0
    ∧ Attempts (header8 0) { pc := 0, first := 0, hdr := 0, words := [], len := 1 } [] 0
    ∧ Attempts fromEntry { pc := 0, first := 0x40000000, hdr := 0x20000000, words := [(0, 0x04718001)], len := 2 } [addiOp] 0
    ∧ Attempts (header8 0x00100000) { pc := 0, first := 0x00100000, hdr := 0x00100000, words := [], len := 1 } [] 0
    ∧ Attempts (header8 0x00200000) { pc := 0, first := 0x00200000, hdr := 0x00200000, words := [], len := 1 } [] 0
    ∧ (hRm 0x00100000 = true ∧ hY 0x00200000 = true ∧ steady addiOp.op = true)
    ∧ ((startState (placed 0x04718001) { divBundle with words := [(0, 0x04718001)] } [addiOp] 0).noRoom = false
      ∧ (startState fromEntry { pc := 0, first := 0x40000000, hdr := 0x20000000, words := [(0, 0x04718001)], len := 2 } [addiOp] 0).noRoom = false)
    ∧ ({ pc := 0, first := 0x40000000, hdr := 0x20000000, words := [], len := 2 } : Bundle).db = true ∧ divBundle.db = false :=
  ⟨attempts (by decide +kernel), attempts (by decide +kernel), attempts (by decide +kernel), attempts (by decide +kernel), attempts (by decide +kernel), by decide,
    by decide +kernel, by decide +kernel, by decide +kernel⟩
def codeIs (x : Fetch SlotWord) (w : SlotWord) : Bool := match x with | .ok c => c == w | _ => false
theorem codeIs_eq (x : Fetch SlotWord) (w : SlotWord) (h : codeIs x w = true) : x = .ok w := by
  cases x <;> simp_all [codeIs]
theorem witness_BundleKinds : ((header8 0xC0000000).mayAttempt 0 = true ∧ (∀ n, n < 8 → getB (vget 0 (header8 0xC0000000).ctx.bps n) 63 = false)
      ∧ (header8 0xC0000000).noRoom = false ∧ (header8 0xC0000000).ctx.step = false ∧ hKind 0xC0000000 = 3)
    ∧ ((header8 0x80000000).mayAttempt 0 = true ∧ hKind 0x80000000 = 2) := by decide +kernel
theorem witness_BundleKinds_code : (header8 0xC0000000).codeWord 0 0 = .ok 0xC0000000 ∧ (header8 0x80000000).codeWord 0 0 = .ok 0x80000000
    ∧ OwnHandler (header8 0xC0000000) := ⟨codeIs_eq _ _ (by decide +kernel), codeIs_eq _ _ (by decide +kernel), by unfold OwnHandler; decide +kernel⟩

def atEnd (ls : List LoopLevel) (d : Option Delay) : State := atWord8 (fun c => { c with loops := ls, delay := d })
theorem witness_BundleEnds : ((atEnd [level 8, level 8] none).ctx.boundary 8 = false ∧ (level 8).stop = 8 ∧ (level 8).count ≠ 1)
    ∧ ((level 8).stop = (atEnd [level 8] none).issue.pc ∧ ({ level 8 with count := 1 } : LoopLevel).count = 1)
    ∧ (atEnd [] (some ⟨1, true, 64⟩)).ctx.delay = some ⟨1, true, 64⟩ ∧ (atEnd [] none).ctx.resume.exiting = false
    ∧ (dev (fun c => { c with resume := { c.resume with exiting := true } })).ctx.resume.exiting = true := by decide +kernel

/-- Code pages with or without X; the line of the next bundle in the buffer, or none. -/
def coding (x : Bool) (buf : List CodeLine) (f : Ctx → Ctx) : State :=
  dev (fun c => f { c with ibuf := buf, extents := [mkExtent 0 codeKey false (if x then 0x34 else 0x24) false 0 0x30 4 3, extent 0 0] })
def line0 : CodeLine := { vline := 0, pline := 0x30 * 64, data := 0, user := true }
theorem witness_Fetches : (((coding true [] id).ctxAt 0).status = .running ∧ (coding true [] id).demandLine 0 = some 0
      ∧ (coding true [] id).lookExtent 0 0 codeKey = .hit (mkExtent 0 codeKey false 0x34 false 0 0x30 4 3))
    ∧ ((coding true [line0] id).demandLine 0 = none ∧ (coding true [line0] id).aheadOf 0 = .line 64)
    ∧ ((coding false [line0] id).demandLine 0 = none ∧ (coding false [line0] id).aheadOf 0 = .drop 64
      ∧ ((coding false [line0] id).ctxAt 0).status = .running) := by decide +kernel

def stalled (n : Nat) : State :=
  dev (fun c => { c with stall := some { since := 4900, earliest := n, free := 10, lines := [], regs := [(.s 3, 2)], flags := [], overrun := [] } })
theorem witness_Stalls : (∃ x, ((stalled 5001).ctxAt 0).stall = some x ∧ (stalled 5001).ptime < x.earliest)
    ∧ (∃ x, ((stalled 5000).ctxAt 0).stall = some x ∧ x.earliest ≤ (stalled 5000).ptime ∧ x.overrun = [] ∧ x.regs = [(.s 3, 2)])
    ∧ (stalled 5000).noRoom = false ∧ ((stalled 5000).ctxAt 0).walkReq = none ∧ ((stalled 5000).ctxAt 0).hold = none := ⟨⟨_, rfl, by decide⟩, ⟨_, rfl, by decide, rfl, rfl⟩, rfl, rfl, rfl⟩

/-- A walk for the range's first page: of an address space without an entry, of one with a table at 1 MiB whose leaf is the 2 MiB
page at 4 MiB, under host walking. -/
def walkFor : WalkReq := { va := 0x100000000, kind := .read, slot := 0, since := 100, posted := false, unit := 0 }
def walking (duty : BitVec 6) (asids : List Asid) (m : List Host.Cell) : State :=
  { dev (fun c => { c with extents := [], walkReq := some walkFor }) with
    pkg := { Package.reset with dev := .ready, duty := duty }, mem := m,
    parts := [(0, { Part.reset with asids := asids, fqBase := 0x200000, sl := #v[0x1FFFFFFFFFFFFFFF, 0, 0, 0] })] }
theorem witness_Walks : (((walking 0 [] []).ctxAt 0).walkReq = some walkFor ∧ getB (walking 0 [] []).pkg.duty 0 = false ∧ (walking 0 [] []).noRoom = false
      ∧ (let u := (walking 0 [] []).modCtxAt 0 (fun c => { c with engAns := [] })
         (u.walkEnd 0 walkFor.va walkFor.since).1 ≤ (walking 0 [] []).ptime ∧ (u.walkEnd 0 walkFor.va walkFor.since).2 = []))
    ∧ ((walking 0 [] []).ctxAt 0).walkKey walkFor = some (⟨0, false, false⟩, true)
    ∧ (getB (walking 1 [] []).pkg.duty 0 = true ∧ walkFor.posted = false ∧ (walking 1 [] []).fqOpen 0 = true) := by decide +kernel
theorem witness_Walks_canonical : Canonical (walking 1 [] []) := ⟨by rfl, fun k => by rfl⟩

def pausing : State := dev (fun c => { c with pauseEnd := 4000 })
def overdue (t : Nat) : State := { dev (fun c => { c with run := 1, yieldT := 100 }) with ptime := t, parts := [(0, { Part.reset with fqBase := 0x200000 })] }
theorem witness_IssueControls : ((pausing.ctxAt 0).pauseEnd ≠ 0 ∧ (pausing.ctxAt 0).pauseEnd ≤ pausing.ptime)
    ∧ (((overdue 80000).ctxAt 0).block.isSome = true ∧ ((overdue 80000).ctxAt 0).status = .running ∧ ((overdue 80000).ctxAt 0).watchdog = false
      ∧ ((overdue 80000).ctxAt 0).run ≠ 0 ∧ (overdue 80000).fqOpen 0 = true ∧ (overdue 80000).noRoom = false)
    ∧ 64 * 1 + 65536 < 65701 - 100 - (0 : Word).toNat ∧ 65700 - 100 - (0 : Word).toNat ≤ 64 * 1 + 65536 := by decide +kernel
theorem witness_IssueControls_canonical : Canonical (overdue 80000) := ⟨by rfl, fun k => by rfl⟩
def listed : State := { dev id with parts := [(0, { Part.reset with cl := 5 })] }
theorem witness_SlotTable : (listed.partAt 0).coreNo 0 = some 0 ∧ (listed.partAt 0).coreNo 48 = some 96 ∧ getF (3 : Word) 0 2 = 3
    ∧ (∀ e, e < 32 → getF (0x6666666666666666 : Word) (2 * e) 2 ≠ 3) := by decide +kernel

/-- Two contexts at one bundle each, with the whole slot table given to the first. -/
def both (w v : SlotWord) : State :=
  let s := placed w
  { s with ctxs := [(0, s.ctxAt 0), (1, (placed v).ctxAt 0)], cores := [(0, { s.coreAt 0 with slotA := 0, slotB := 0 })], mem := s.mem }
theorem witness_IssueControls_picks : ((both 0x04718001 0x04718001).coreAt 0).slotEntry (both 0x04718001 0x04718001).ptime ((both 0x04718001 0x04718001).ptime % 64) = 0
    ∧ (both 0x04718001 0x04718001).ask 0 = .ready 1 ∧ (both 0x04718001 0x04718001).ask 1 = .ready 1
    ∧ (both 0x04718001 0x04718001).paused 0 = false ∧ (placed 0x04718001).ask 0 = .ready 1 ∧ ((placed 0x04718001).ask 1).mask = none := by decide +kernel
/-- Code whose line is read in a slot waits. -/
theorem witness_Fetches_held : (let s := { coding true [] id with ptime := 100 }
    s.demandLine 0 = some 0 ∧ isHbm (0x30 * 4096) = true ∧ s.inL2 (0x30 * 4096) = false ∧ (s.heldBy (0x30 * 4096) s.ptime).isSome = true) := by decide +kernel

/-! ### Witnesses: homes, ports, copies -/

def waiting (l : Nat) : Store := { pendingStore with kind := .line l false, gated := false }
def storing (l : Nat) (tag : Tbl (BitVec 13)) : State := { dev (fun c => { c with stores := [waiting l] }) with tags := tag }
def cxlLine : Nat := 0x100000000000 / 64
theorem witness_StoresAtHome : ((storing 0x400 []).storeNo 0 0 = some (waiting 0x400) ∧ ((storing 0x400 []).ctxAt 0).storeReady (waiting 0x400) = true
      ∧ (waiting 0x400).kind = .line 0x400 false ∧ cxlPort (64 * 0x400) = none ∧ (storing 0x400 []).tagAllows 0x400 0 = true)
    ∧ (isHbm (64 * 0x400) = true ∧ (storing 0x400 [(0x400, 5)]).tagAllows 0x400 ((storing 0x400 [(0x400, 5)]).ctxAt 0).wid = false)
    ∧ (storing 0x400 []).storeWaits (waiting 0x400) = false ∧ (storing 0x400 []).writeOver 0 (64 * 0x400) (storing 0x400 []).ptime = []
    ∧ { storing 0x400 [] with ptime := 100 }.storeWaits (waiting 0x400) = true
    ∧ (cxlPort (64 * cxlLine) = some 0 ∧ (storing cxlLine []).storeWaits (waiting cxlLine) = false ∧ (storing cxlLine []).writeOver 0 (64 * cxlLine) (storing cxlLine []).ptime = [] ∧ ((storing cxlLine []).ctxAt 0).storeReady (waiting cxlLine) = true)
    ∧ ((dev id).rangeBacked 0x300000000000 1 = false ∧ (dev id).rangeBacked 0x1003E 2 = true ∧ 0x1003E % 64 + [(1 : Byte), 2].length ≤ 64
      ∧ ∀ d, d < 5 → (vget 0 (dev id).pkg.wtroot d).toNat < 4096)
    ∧ (dev id).powered = true ∧ (∀ l ∈ linesOf 0x1003E 2, (dev id).lineBusy l ((dev id).lateNo (.store (.host 0x1003E [1, 2]))) = false) ∧ (∀ l ∈ linesOf 0x1003E 2, inSlot.slotOpen (64 * l) = true
      ∧ inSlot.installed l ≤ inSlot.ptime) ∧ inSlot.rangeBacked 0x1003E 2 = true ∧ inSlot.powered = true := by decide +kernel
theorem witness_StoresAtHome_waits : inSlot.lineBusy 0x400 (inSlot.lateNo (.store (.host 0x10000 [1]))) = true ∧ (dev id).slotOpen (64 * 0x400) = false := by decide +kernel

def window (opened : Nat) (shut : Bool) : Window := { pline := 0x400, opened := opened, readers := 1, shut := shut }
def reading (ws : List Window) (l2 : List Nat) : State := { dev id with dies := [(0, { Die.reset with windows := ws, l2 := l2.map (fun l => ⟨(dev id).homeSlice (64 * l), l⟩) })] }
theorem witness_HomesAndPorts_windows : (isHbm (64 * 0x400) = true ∧ (reading [] []).inL2 (64 * 0x400) = false
      ∧ ((reading [] []).dieAt (homeDie (64 * 0x400))).openWindow 0x400 (reading [] []).ptime = none)
    ∧ ((reading [window 4969 false] []).dieAt 0).openWindow 0x400 5000 = some (window 4969 false)
    ∧ ((reading [window 4968 false] []).dieAt 0).openWindow 0x400 5000 = none ∧ (reading [] [0x400]).inL2 (64 * 0x400) = true
    ∧ isHbm (64 * cxlLine) = false ∧ (∃ w ∈ ((reading [window 4990 false, window 100 true] []).dieAt 0).windows, w.pline = 0x400 ∧ (reading [] []).installAt w ≤ 5000)
    ∧ 5000 < (reading [] []).installAt (window 4990 false) ∧ (reading [window 100 true] []).installAt (window 100 true) ≤ (reading [window 100 true] []).ptime := by decide +kernel
def forwarded (n : Nat) : State := dev (fun c => { c with stores := List.replicate n { waiting cxlLine with fwd := true } })
theorem witness_HomesAndPorts_port : (Canonical (storing cxlLine []) ∧ Tables (storing cxlLine [])) ∧ (storing cxlLine []).storesWhere ((storing cxlLine []).startsAt 0) = [(0, waiting cxlLine)]
    ∧ (storing cxlLine []).writeOver (dieOf 0) (64 * cxlLine) (storing cxlLine []).ptime = [] ∧ (storing cxlLine []).noRoom = false
    ∧ 512 ≤ (forwarded 512).outstanding 0 ∧ (forwarded 1).storesWhere (fun _ w => w.fwd && w.port == some 0 && !(forwarded 1).ackHeld w) = [(0, { waiting cxlLine with fwd := true })]
    ∧ (forwarded 1).timeOver (dieOf 0) (64 * cxlLine) (forwarded 1).ptime = [] :=
  ⟨⟨⟨rfl, fun _ => rfl⟩, by simp [Tables, storing, dev]⟩, by decide +kernel, by decide +kernel, rfl, by decide +kernel, by decide +kernel, by decide +kernel⟩

/-- A template of `e` elements of four bytes, without handles; `more` sets further fields. -/
def template (src dst e more : Nat) : Line :=
  BitVec.ofNat 512 (src + dst * 2 ^ 64 + (e - 1) * 2 ^ 128 + 2 * 2 ^ 176 + (e - 1) * 2 ^ 192 + more)
def win : Nat := 0xF000000000000000
def copy (t : Line) (src dst : Option Nat) (begun nb : Bool) : Copy :=
  { start := 0, tmpl := t, seq := 0, srcSlot := src, dstSlot := dst, begun := begun, wp0 := 0, held := false, nbDone := nb, probe := none,
    recv := [], user := true, began := 0, last := 0, lastN := 0, mdata := [] }
/-- Handles 3 and 4 as source and destination. -/
def viaHandles (nb : Nat) : Line := template 0 0 16 (2 ^ 184 + 4 * 2 ^ 185 + 2 ^ 240 + 3 * 2 ^ 241 + nb * 2 ^ 448)
def copying (o : Copy) (x y : Line) : State :=
  { dev (fun c => { c with chans := [(2, [o])], handles := [(3, x), (4, y)] }) with parts := [(0, { Part.reset with fqBase := 0x200000 })] }
theorem copying_canonical (o : Copy) (x y : Line) : Canonical (copying o x y) := ⟨rfl, fun _ => rfl⟩
theorem witness_CopiesBegin : (((copying (copy (viaHandles 0) (some 0) (some 1) false false) (handle 0 0 2 0) (handle 1 0 2 0)).ctxAt 0).copyAtHead 2
        = some (copy (viaHandles 0) (some 0) (some 1) false false)
      ∧ ((copying (copy (viaHandles 0) (some 0) (some 1) false false) (handle 0 0 2 0) (handle 1 0 2 0)).ctxAt 0).copyRefused (copy (viaHandles 0) (some 0) (some 1) false false) = false)
    ∧ (hState (handle 0 0 2 0) 0 = 2 ∧ hState (handle 1 0 2 0) 1 = 0 ∧ tSh (viaHandles 0) ≠ tDh (viaHandles 0))
    ∧ (hState (handle 0 0 0 0) 0 ≠ 2 ∧ hState (handle 0 0 0 2) 1 ≠ 0) := by decide +kernel
theorem witness_CopiesBegin_refused : ((copying (copy (viaHandles 0) (some 0) none false false) (handle 0 0 2 0) 0).ctxAt 0).copyRefused
        (copy (viaHandles 0) (some 0) none false false) = true
    ∧ (copying (copy (viaHandles 0) (some 0) none false false) (handle 0 0 2 0) 0).fqOpen 0 = true
    ∧ ((copying (copy (viaHandles 0) (some 0) none false false) (handle 0 0 2 0) 0).ctxAt 0).stores = []
    ∧ ((copying (copy (viaHandles 0) (some 0) none false false) (handle 0 0 2 0) 0).ctxAt 0).copyAtHead 2 = some (copy (viaHandles 0) (some 0) none false false)
    ∧ (copying (copy (viaHandles 0) (some 0) none false false) 0 0).noRoom = false := by decide +kernel
theorem witness_CopiesBegin_notBefore : (copy (viaHandles 5000) none none true false).begun = true ∧ tNB (viaHandles 5000) ≤ (dev id).ptime
    ∧ (dev id).ptime < tNB (viaHandles 5001) := by decide +kernel

/-- What shows that an element comes from the window. -/
def winSource (s : State) (i : Nat) (o : Copy) (ea : Word) (x : Nat) : Bool :=
  match regionOf ea with
  | .window m byte => match s.windowAt i m byte (tSsz o.tmpl) with
    | some (core, off) => x == memNat (s.coreAt core).scratch off (tSsz o.tmpl)
    | none => false
  | _ => false
theorem winSource_ok {s : State} {i : Nat} {o : Copy} {x : Nat} {ea : Word} (h : winSource s i o ea x = true) : CopySource s i o ea x := by
  unfold winSource at h
  split at h
  · rename_i m byte hm
    split at h
    · rename_i core off hw; exact .inl ⟨core, off, ⟨m, byte, hm, hw⟩, by simpa using h⟩
    · simp at h
  · simp at h
def winSources (s : State) (i : Nat) (o : Copy) (src dst l : Word) (xs : List Nat) : Bool :=
  xs.length == (lineElems o.tmpl dst l).length && (List.range xs.length).all (fun k => match (lineElems o.tmpl dst l)[k]?, xs[k]? with
    | some e, some x => winSource s i o (elemAddr src (tSC o.tmpl) (tSS o.tmpl) (tSsz o.tmpl) e) x
    | _, _ => true)
theorem winSources_ok {s : State} {i : Nat} {o : Copy} {src dst l : Word} {xs : List Nat} (h : winSources s i o src dst l xs = true) :
    CopySources s i o src dst l xs := by
  simp only [winSources, Bool.and_eq_true, List.all_eq_true, List.mem_range] at h
  refine ⟨by simpa using h.1, fun k e x he hx => winSource_ok ?_⟩
  have hk : k < xs.length := by rcases List.getElem?_eq_some_iff.1 hx with ⟨hk, -⟩; exact hk
  have := h.2 k hk; rw [he, hx] at this; exact this

/-- Sixteen words of the window to the window's line 64, and to the range. -/
def toWin : Copy := copy (template win (win + 4096) 16 0) none none true true
def toMem : Copy := copy (template win 0x100000000 16 0) none none true true
/-- The state after the reads of line 0 of a copy on channel 2. -/
def copied (s : State) (o : Copy) (dst l : Word) : MRun :=
  ((MRun.start s 0).copyLine 0 2 (o.asking 0) ((s.ctxAt 0).copySrc o) dst l).2
theorem arrived {s : State} {o : Copy} {dst l : Word}
    (h : (copied s o dst l).ok = true ∧ (copied s o dst l).last ≤ s.ptime ∧ (copied s o dst l).over_ = [] ∧ (s.ctxAt 0).asks 18 = []) :
    CopyArrived s 0 2 o 0 ((s.ctxAt 0).copySrc o) dst l (copied s o dst l).s := ⟨h.1, h.2.1, h.2.2.1, rfl, h.2.2.2⟩
/-- Two lines to an address that nothing decodes. -/
def toNowhere : Copy := copy (template win 0xE000000000000000 16 0) none none true true
theorem witness_CopyLines_window : (((copying toWin 0 0).ctxAt 0).copyAtHead 2 = some toWin ∧ (copying toWin 0 0).mayLand 0 2 toWin = true ∧ tMC toWin.tmpl = 0)
    ∧ nth (dstLines toWin.tmpl (((copying toWin 0 0).ctxAt 0).copyDst toWin)) ((((copying toWin 0 0).ctxAt 0).wp 2 - toWin.wp0).toNat / 64) = some 0xF000000000001000
    ∧ CopySources (copying toWin 0 0) 0 toWin (((copying toWin 0 0).ctxAt 0).copySrc toWin) 0xF000000000001000 0xF000000000001000 (List.replicate 16 0)
    ∧ CopyArrived (copying toWin 0 0) 0 2 toWin 0 (((copying toWin 0 0).ctxAt 0).copySrc toWin) 0xF000000000001000 0xF000000000001000
        (copied (copying toWin 0 0) toWin 0xF000000000001000 0xF000000000001000).s
    ∧ EngineWindow (copying toWin 0 0) 0 0xF000000000001000 64 0 4096 ∧ ((copying toWin 0 0).coreAt 0).badLine 64 (BitVec.allOnes 64) = false
    ∧ ((copying toWin 0 0).ctxAt 0).stores = [] :=
  ⟨by decide +kernel, by decide +kernel, winSources_ok (by decide +kernel), arrived (by decide +kernel), ⟨0, 4096, by decide +kernel⟩, by decide +kernel, rfl⟩
theorem witness_CopyLines_memory : CopySources (copying toMem 0 0) 0 toMem (((copying toMem 0 0).ctxAt 0).copySrc toMem) 0x100000000 0x100000000 (List.replicate 16 0)
    ∧ EngineAllowed (copying toMem 0 0) 0 true false 0x100000000 64 .write (extent 0 0) 0x10000 ∧ tRed toMem.tmpl = 0
    ∧ (let u := (copied (copying toMem 0 0) toMem 0x100000000 0x100000000).s
       CopyArrived (copying toMem 0 0) 0 2 toMem 0 (((copying toMem 0 0).ctxAt 0).copySrc toMem) 0x100000000 0x100000000 u
         ∧ u.landsLater 0 18 0x400 = false ∧ u.writeOver (dieOf 0) 0x10000 5000 = [])
    ∧ (copied { copying toMem 0 0 with ptime := 100 } toMem 0x100000000 0x100000000).s.landsLater 0 18 0x400 = true :=
  ⟨winSources_ok (by decide +kernel), ⟨by decide +kernel, oneExtent (x := extent 0 0) rfl, by decide +kernel, .inl (by decide +kernel)⟩, by decide +kernel,
    ⟨arrived (by decide +kernel), by decide +kernel⟩, by decide +kernel⟩
theorem witness_CopyLines_reduce : EngineAllowed (copying toMem 0 0) 0 true false 0x100000000 64 .readWrite (extent 0 0) 0x10000
    ∧ tRed (template win 0x100000000 16 (2 ^ 180)) = 1 :=
  ⟨⟨by decide +kernel, oneExtent (x := extent 0 0) rfl, by decide +kernel, .inl (by decide +kernel)⟩, by decide +kernel⟩
theorem witness_CopySource_memory : CopySource (dev id) 0 toMem 0x100000000 0 :=
  .inr ⟨extent 0 0, 0x10000, ⟨by decide +kernel, oneExtent (x := extent 0 0) rfl, by decide +kernel, .inl (by decide +kernel)⟩, by decide +kernel, by decide +kernel⟩
theorem undeclared (l : Word) (h : regionOf l = .undeclared) : (∀ va, regionOf l ≠ .virt va) ∧ (∀ m byte, regionOf l ≠ .window m byte) := by
  rw [h]; exact ⟨fun _ => by simp, fun _ _ => by simp⟩
theorem witness_CopyLines_fault : ((copying toNowhere 0 0).fqOpen 0 = true ∧ regionOf 0xE000000000000000 = .undeclared)
    ∧ CopySources (copying toNowhere 0 0) 0 toNowhere (((copying toNowhere 0 0).ctxAt 0).copySrc toNowhere) 0xE000000000000000 0xE000000000000000 (List.replicate 16 0) :=
  ⟨by decide +kernel, winSources_ok (by decide +kernel)⟩

/-- A multicast to the slots of the sender's own member, and of a member that no context holds. -/
def multi (m : Nat) (r : Receiver) : Copy := { copy (template win 0 16 (2 ^ 184 + 3 * 2 ^ 185 + 2 ^ (384 + m))) none none true true with recv := [r] }
def inGang (o : Copy) : State := { copying o (handle 0 0 0 0) 0 with ctxs := [(0, { ((copying o (handle 0 0 0 0) 0).ctxAt 0) with block := some gangBlock })] }
theorem witness_Multicast : ((inGang (multi 0 ⟨0, none, false, 0⟩)).memberCtx 0 0 = some 0 ∧ ((inGang (multi 0 ⟨0, none, false, 0⟩)).ctxAt 0).copyAtHead 2 = some (multi 0 ⟨0, none, false, 0⟩)
      ∧ hEn (((inGang (multi 0 ⟨0, none, false, 0⟩)).ctxAt 0).handle 3) = true ∧ hState (handle 0 0 0 0) (hPP (handle 0 0 0 0)) = 0
      ∧ nth (dstLines (multi 0 ⟨0, none, false, 0⟩).tmpl (doff 0)) 0 = some 0)
    ∧ CopySources (inGang (multi 0 ⟨0, none, false, 0⟩)) 0 (multi 0 ⟨0, none, false, 0⟩) (((inGang (multi 0 ⟨0, none, false, 0⟩)).ctxAt 0).copySrc (multi 0 ⟨0, none, false, 0⟩)) (doff 0) 0 (List.replicate 16 0)
    ∧ (let s := inGang (multi 0 ⟨0, none, false, 0⟩)
       CopyArrived s 0 2 (multi 0 ⟨0, none, false, 0⟩) 0 ((s.ctxAt 0).copySrc (multi 0 ⟨0, none, false, 0⟩)) (doff 0) 0 (copied s (multi 0 ⟨0, none, false, 0⟩) (doff 0) 0).s
         ∧ s.mayLand 0 0 (multi 0 ⟨0, none, false, 0⟩) = true ∧ (s.ctxAt 0).stores = [] ∧ tRed (multi 0 ⟨0, none, false, 0⟩).tmpl = 0)
    ∧ EngineWindow (inGang (multi 0 ⟨0, none, false, 0⟩)) 0 (((inGang (multi 0 ⟨0, none, false, 0⟩)).ctxAt 0).handleWin 3 0 + 0) 64 0 0 :=
  ⟨by decide +kernel, winSources_ok (by decide +kernel), ⟨arrived (by decide +kernel), by decide +kernel⟩, ⟨0, 0, by decide +kernel⟩⟩
theorem witness_Multicast_arrived :
    (let o := multi 5 ⟨5, none, false, 0⟩; let s := inGang o
     CopyArrived s 0 2 o 0 ((s.ctxAt 0).copySrc o) (doff 0) 0 (copied s o (doff 0) 0).s ∧ nth o.mdata 0 = none ∧ s.mayLand 0 0 o = true) :=
  ⟨arrived (by decide +kernel), by decide +kernel, by decide +kernel⟩
theorem witness_Multicast_missing : (inGang (multi 5 ⟨5, none, false, 0⟩)).memberCtx 0 5 = none ∧ (inGang (multi 5 ⟨5, none, false, 0⟩)).fqOpen 0 = true := by decide +kernel
def inGangBusy (o : Copy) : State := { copying o (handle 0 0 1 0) 0 with ctxs := [(0, { ((copying o (handle 0 0 1 0) 0).ctxAt 0) with block := some gangBlock })] }
theorem witness_Multicast_overrun : (inGangBusy (multi 0 ⟨0, none, false, 0⟩)).memberCtx 0 0 = some 0
    ∧ hState (((inGangBusy (multi 0 ⟨0, none, false, 0⟩)).ctxAt 0).handle 3) (hPP (((inGangBusy (multi 0 ⟨0, none, false, 0⟩)).ctxAt 0).handle 3)) ≠ 0
    ∧ (inGangBusy (multi 0 ⟨0, none, false, 0⟩)).fqOpen 0 = true ∧ ((inGangBusy (multi 0 ⟨0, none, false, 0⟩)).partAt 0).fqTail = 0
    ∧ ((inGangBusy (multi 0 ⟨0, none, false, 0⟩)).partAt 0).fqHead = 0 := by decide +kernel
theorem witness_Multicast_overrun_arrived :
    (let o := multi 0 ⟨0, none, false, 0⟩; let s := inGangBusy o
     CopyArrived s 0 2 o 0 ((s.ctxAt 0).copySrc o) (doff 0) 0 (copied s o (doff 0) 0).s
       ∧ (s.copyRec 0 2 o 0x13 8 0 (BitVec.ofNat 64 (s.ctxAt 0).member)).fqOpen 0 = true) :=
  ⟨arrived (by decide +kernel), by decide +kernel⟩

/-! ### Witnesses: collectives, ends of blocks, queues -/

/-- A table at 1 MiB that maps the GiB from 2^32 on to 0. -/
def tableCells : List Host.Cell :=
  [(0x100000, 0x03), (0x100001, 0x10), (0x100002, 0x10), (0x101000, 0x03), (0x101001, 0x20), (0x101002, 0x10), (0x102020, 0x2D)]
def tablePart : Part := { Part.reset with sl := #v[BitVec.allOnes 64, 0, 0, 0], pcg := BitVec.allOnes 64, asids := [⟨0, none, 0x100000, 0, true⟩] }

def cred (read : Option (List Byte)) : Cred := { k := 0, op := 0, h := 3, slot := 0, group := 0, addr := 0, size := 512, seq := 0, read := read, time := 0 }
/-- A collective of a group of one member, or as member 1 of two, with what the members have given. -/
def collecting (o : Cred) (two : Bool) (got : List (Nat × Nat × Nat × Option (List Byte))) : State :=
  { dev (fun c => { c with block := some gangBlock, handles := [(3, handle 0 0 0 0)], xq := [o] }) with
    mem := [(0x2000, if two then 2 else 1), (0x2009, 0x21)] ++ (if two then [(0x2102, 0x80)] else []),
    parts := [(0, { Part.reset with grp := 0x2000, fqBase := 0x200000 })],
    colls := [{ part := 0, group := 0, k := 0, got := got, recv := [], taken := [], last := 4976 }] }
theorem witness_Collective_reads : (((collecting (cred none) false []).ctxAt 0).xq = cred none :: [] ∧ ((collecting (cred none) false []).ctxAt 0).block = some gangBlock
      ∧ ((collecting (cred none) false []).ctxAt 0).leaving = false ∧ (collecting (cred none) false []).memberOf 0 0 0 = some 0
      ∧ 0 ∉ ((collecting (cred none) false []).collOf 0 0 0).taken ∧ ((collecting (cred none) false []).ctxAt 0).stores = [])
    ∧ ((collecting (cred none) false []).coreAt 0).badBytes 0 512 = false ∧ hState (handle 0 0 0 0) (hPP (handle 0 0 0 0)) = 0
    ∧ hState (handle 0 0 1 0) (hPP (handle 0 0 1 0)) ≠ 0
    ∧ ((collecting (cred none) false []).ctxAt 0).joinsClear 0 (fun j => j.x) = true
    ∧ ((collecting (cred none) false []).sendPart 0 0 (List.replicate 512 0)).isSome = true ∧ ((collecting (cred none) false []).sendPart 0 0 []).isSome = true := by
  decide +kernel
theorem witness_Collective_refuses : (collecting (cred none) true [(0, 1, 512, none)]).memberOf 0 0 0 = some 1
    ∧ ((((collecting (cred none) true [(0, 1, 512, none)]).collOf 0 0 0).got.find? (fun e => e.1 == 0)).map (fun e => (e.2.1, e.2.2.1))) = some (1, 512)
    ∧ (1, 512) ≠ ((cred none).op.toNat, (cred none).size) ∧ (collecting (cred none) true [(0, 1, 512, none)]).fqOpen 0 = true := by decide +kernel
def gave : List Byte := List.replicate 512 1
theorem witness_Collective_completes : (cred (some gave)).read.isSome = true ∧ ((collecting (cred (some gave)) false [(0, 0, 512, some gave)]).collOf 0 0 0).last + 24
      ≤ (collecting (cred (some gave)) false [(0, 0, 512, some gave)]).ptime
    ∧ (∀ u, u < 1 → ∃ e ∈ ((collecting (cred (some gave)) false [(0, 0, 512, some gave)]).collOf 0 0 0).got, e.1 = u)
    ∧ (cred (some gave)).slot < 16
    ∧ ((collecting (cred (some gave)) false [(0, 0, 512, some gave)]).sendPart 0 0 (credSum 0 512 [gave])).isSome = true
    ∧ ({ collecting (cred (some gave)) true [] with mem := [(0x2000, 2), (0x2009, 0x21), (0x2108, 1)] } : State).sendPart 0 0 gave = none :=
  ⟨rfl, by decide, fun u h => ⟨(0, 0, 512, some gave), by simp [State.collOf, collecting], by omega⟩, by decide, by decide +kernel, by decide +kernel⟩
/-- A group whose member 0 is on another device, in time and with a major slot open before the result. -/
def spanning (now : Nat) : State :=
  { collecting { cred (some gave) with time := 0xFFC00 } false [(0, 0, 512, some gave), (1, 0, 512, some gave)] with
    ptime := now, mem := [(0x2000, 2), (0x2009, 0x21), (0x2100, 1)] }
theorem witness_Collective_overruns : ((collecting (cred (some gave)) false [(0, 0, 512, some gave)]).credOver 0 0 0 = [] ∧ (spanning 0xFFD00).credOver 0 0 0xFFC00 = []
      ∧ (spanning 0x101800).credOver 0 0 0xFFC00 = [0x100000] ∧ (spanning 0x101800).fqOpen 0 = true ∧ gangBlock.lrec.strict = false)
    ∧ (spanning 0x101800).memberOf 0 0 0 = some 1 ∧ ((spanning 0x101800).groupMembers 0 0).1 = 2 ∧ ((spanning 0x101800).ctxAt 0).overruns = []
    ∧ ((spanning 0x101800).collOf 0 0 0).got.map (fun e => e.1) = [0, 1] ∧ ((spanning 0x101800).collOf 0 0 0).taken = [] := by decide +kernel

def launch (blocks : List BState) (r : LRec) : Launch :=
  { key := 0, prev := none, lid := 7, queue := 0, lrec := r, ser := false, dev := false, relaunch := false, decided := true, stopped := false, lines := [], blocks := blocks }
def traced : LRec := { lrec with flags := 4, tstore := 0x100300000 }
def leaving (blocks : List BState) (r : LRec) (f : Ctx → Ctx) : State :=
  { dev (fun c => f { c with status := .exiting, block := some { block with lrec := r } }) with
    parts := [(0, { Part.reset with fqBase := 0x200000, launches := [launch blocks r], traces := [⟨0, r, 1, false, 0⟩] })] }
theorem witness_BlocksEnd : (((leaving [.running 0] lrec id).ctxAt 0).status = .exiting ∧ ((leaving [.running 0] lrec id).ctxAt 0).block = some { block with lrec := lrec }
      ∧ (leaving [.running 0] lrec id).noRoom = false ∧ ((leaving [.running 0] lrec id).partAt 0).launchOf 0 = some (launch [.running 0] lrec)
      ∧ block.b < (launch [.running 0] lrec).blocks.length)
    ∧ (((leaving [.running 0] lrec id).ctxAt 0).heldOp = none ∧ ((leaving [.running 0] lrec id).ctxAt 0).drained = true ∧ lrec.trace = false)
    ∧ ((launch [.running 0] lrec).decided = true ∧ (launch [.running 0] lrec).stopped = false)
    ∧ (nth (launch [.running 0, .pending] lrec).blocks 1 = some .pending ∧ BState.pending.ended = false) := by decide +kernel
theorem witness_BlocksEnd_canonical (blocks : List BState) (r : LRec) (f : Ctx → Ctx) : Canonical (leaving blocks r f) := ⟨rfl, fun _ => rfl⟩
theorem witness_BlocksEnd_one : ∀ x ∈ ((leaving [.running 0] lrec id).partAt 0).launches, x.key = 0 → x = launch [.running 0] lrec := by
  intro x hx _; simpa [leaving, State.partAt, tget] using hx
theorem witness_BlocksEnd_last : ∀ k x, k ≠ 0 → nth (launch [.running 0] lrec).blocks k = some x → x.ended = true := by
  intro k x hk hx; cases k <;> simp_all [launch, nth]
/-- A traced block that drains, with its trace storage at 2^32 + 3 MiB. -/
def leavingTraced : State :=
  { leaving [.running 0] traced id with
    mem := tableCells, parts := [(0, { tablePart with launches := [launch [.running 0] traced], traces := [⟨0, traced, 1, false, 0⟩] })] }
def dumped : State × Option (Nat × Word) :=
  leavingTraced.storageWrite 0 0 traced true (piecesOf (traced.recordAt 0) 1088)
    (blockRecord traced (((leavingTraced.ctxAt 0).startT).getD leavingTraced.ptime) leavingTraced.ptime 1 0 0)
theorem witness_BlocksEnd_traced : traced.trace = true ∧ (leavingTraced.ctxAt 0).drained = true ∧ (leavingTraced.ctxAt 0).heldOp = none
    ∧ (leavingTraced.partAt 0).traceOf 0 = some ⟨0, traced, 1, false, 0⟩ ∧ (leavingTraced.ctxAt 0).rfilter = 0 ∧ (leavingTraced.ctxAt 0).wfilter = 0
    ∧ dumped.2 = none := by decide +kernel
def faulted : State := leaving [.running 0] lrec (fun c => { c with mq := [mop .mst 1 (some (0x0C, 5))] })
theorem witness_BlocksEnd_held : (faulted.ctxAt 0).heldOp = some (mop .mst 1 (some (0x0C, 5))) ∧ (mop .mst 1 (some (0x0C, 5))).held = some (0x0C, 5)
    ∧ (faulted.ctxAt 0).te = true ∧ (faulted.ctxAt 0).tvec ≠ Config.monitorEntry ∧ getB faulted.pkg.duty 1 = false := by decide +kernel

/-- A queue whose next record has the given first bytes (`CMD`, `NLEV`, flags, `KOBJ`) and one level of count 1. -/
def recordCells (cmd flags kobj : Byte) : List Host.Cell :=
  [(0x3000, (1 : Byte)), (0x210000, cmd), (0x210001, 1), (0x210002, flags), (0x210008, kobj), (0x210040, 1), (0x210044, 1)].filter (fun e => e.2 != 0)
def recordQueue (own : Bool) (tail : Nat) : Queue :=
  { Queue.reset with base := 0x210000, cbase := 0x220000, en := true, own := own, tail := tail, entered := if tail = 0 then [] else [7] }
def taking (cmd flags kobj : Byte) (own : Bool) (tail : Nat) (traces : List Trace) : State :=
  { State.reset with mem := recordCells cmd flags kobj, pkg := { Package.reset with dev := .ready, kernels := [(0, Kernel.plain)] }, parts := [(0, { Part.reset with astBase := 0x3000, nas := 1, traces := traces, queues := [(0, recordQueue own tail)] })] }
def recordIs (s : State) (ok : LRec → Bool) : Bool := match s.headRecord 0 0 with | some (bs, lid) => ok (lrecOf bs) && lid == 7 | none => false
theorem witness_Tails : (taking 1 0 0 true 0 []).pkg.dev = .ready ∧ (((taking 1 0 0 true 0 []).partAt 0).queueAt 0).own = true := by decide +kernel
theorem witness_Tails_host : ((((taking 1 0 0 false 0 []).partAt 0).queueAt 0).own = false ∧ ((1 : Word).toNat % 4096 + 2 ^ 4 - 0) % 2 ^ 4 = 1)
    ∧ memByte (taking 1 0 0 false 0 []).mem ((((taking 1 0 0 false 0 []).partAt 0).queueAt 0).slotPa 0) ≠ 2 := by decide +kernel
theorem witness_Records : recordIs (taking 1 0 0 false 1 []) (fun r => r.cmd != 2 && (taking 1 0 0 false 1 []).reasonOf 0 r == none && !r.trace) = true
    ∧ recordIs (taking 1 4 0 false 1 []) (fun r => (taking 1 4 0 false 1 []).reasonOf 0 r == none && r.trace) = true
    ∧ recordIs (taking 3 0 0 false 1 []) (fun r => r.cmd != 2 && (taking 3 0 0 false 1 []).reasonOf 0 r == some 8) = true := by decide +kernel
theorem witness_Records_relaunch : recordIs (taking 2 0 9 false 1 []) (fun r => r.cmd == 2 && decide (r.kobj < 2 ^ 32)
      && (((taking 2 0 9 false 1 []).partAt 0).traceOf (BitVec.ofNat 32 r.kobj)).isNone) = true
    ∧ recordIs (taking 2 0 9 false 1 [⟨9, lrec, 1, false, 0⟩]) (fun r => r.cmd == 2
      && (((taking 2 0 9 false 1 [⟨9, lrec, 1, false, 0⟩]).partAt 0).traceOf (BitVec.ofNat 32 r.kobj)).isSome) = true := by decide +kernel
theorem witness_Records_canonical : Canonical (taking 1 0 0 false 1 []) := ⟨by decide +kernel, fun _ => rfl⟩

/-- A relaunch that is to be decided; a queue whose first block is pending. -/
def deciding (broken : Bool) : State :=
  { State.reset with parts := [(0, { Part.reset with traces := [⟨7, lrec, 1, broken, 0⟩], launches := [{ launch [] lrec with relaunch := true, decided := false }] })] }
theorem witness_Decisions : (((deciding true).partAt 0).recordsOf 0).find? (fun l => !l.decided) = some { launch [] lrec with relaunch := true, decided := false } := by decide +kernel
theorem witness_Decisions_blocks : (deciding true).decideBlocks 0 0 7 lrec true = [.pending]
    ∧ ((deciding true).partAt 0).launches.takeWhile (fun x => x.key != 0) = [] ∧ (launch [] lrec).ser = false := by decide +kernel
def agingQueue : Queue := { Queue.reset with en := true, rank := 48, waitT := some 1000 }
def aging (now : Nat) : State :=
  { State.reset with ptime := now, parts := [(0, { Part.reset with cl := 1, launches := [launch [.pending] lrec], queues := [(0, agingQueue)] })] }
theorem witness_Aging : (((aging 601000).partAt 0).queueAt 0).waitT = some 1000 ∧ ((aging 601000).partAt 0).mode ≠ 0 ∧ ((aging 601000).partAt 0).holdsWork 0 = true
    ∧ 600999 < 1000 + ((aging 601000).partAt 0).ageUs * 600 ∧ 1000 + ((aging 601000).partAt 0).ageUs * 600 ≤ 601000 := by decide +kernel
/-- A pending block of the record that a free core may take. -/
def offering : State :=
  { aging 5000 with pkg := { Package.reset with dev := .ready, kernels := [(0, Kernel.plain)] } }
theorem witness_Pretranslation : (match offering.chosen 0 0 with | some (o, b, _) => o.queue == 0 && o.slot == none && b == 0
      && (offering.blockFor 0 0 o.launch b).isSome && (offering.ctxAt 0).pret != some (0, o.launch.key, b) | none => false) = true := by decide +kernel
/-- The same with a table that a walk reads, in a major slot and outside it. -/
def offeringTable (now : Nat) : State :=
  { offering with ptime := now, mem := tableCells, parts := [(0, { (offering.partAt 0) with sl := tablePart.sl, pcg := tablePart.pcg, asids := tablePart.asids })] }
def preHeld (s : State) : Option Bool := match s.chosen 0 0 with
  | some (o, b, _) => (s.blockFor 0 0 o.launch b).map (fun k => (s.pretranslateAll 0 k o.launch.lrec.pretranslated []).2.1 == .held)
  | none => none
theorem witness_Pretranslation_held : preHeld (offeringTable 100) = some true ∧ preHeld (offeringTable 5000) = some false
    ∧ getB (offeringTable 100).pkg.duty 0 = false := by decide +kernel
/-- What a slot holds waits: an entry of a completion ring. -/
theorem witness_Entries_held : (let u := ((taking 3 0 0 false 1 []).partAt 0).queueAt 0
      (taking 3 0 0 false 1 []).entryHeld u = true ∧ { taking 3 0 0 false 1 [] with ptime := 5000 }.entryHeld u = false
      ∧ (taking 3 0 0 false 1 []).recordBad 0 0 = none ∧ (taking 3 0 0 false 1 []).asidBad 0 0 = none)
    ∧ (let s : State := { taking 1 0 0 false 1 [] with ptime := 5000, pkg := { (taking 1 0 0 false 1 []).pkg with poisoned := [0x210000 / 64] } }
       (s.recordBad 0 0).isSome = true ∧ (s.headRecord 0 0).isSome = true ∧ s.entryHeld ((s.partAt 0).queueAt 0) = false)
    ∧ (let s := leaving [.running 0] lrec id
       s.entryHeld ((s.partAt 0).queueAt 0) = false ∧ { s with ptime := 100 }.entryHeld ((s.partAt 0).queueAt 0) = true) := by decide +kernel

/-! ### Witnesses: blocks placed, saved, removed; records and commands -/

/-- The offering partition in normal service, with a record whose stated run is longer than what is left of the slice. -/
def tooLong : State := { offering with ptime := 65530, parts := [(0, { (offering.partAt 0) with mode := 0, launches := [launch [.pending] { lrec with runest := 1000 }] })] }
theorem witness_BlocksEnter_slice : tooLong.waitsSlice 0 = false ∧ tooLong.ownerOf 0 = some 0 ∧ tooLong.nothingFits 0 = true := by decide +kernel
def pretranslated (r : LRec) (blocks : List BState) : State :=
  { offering with ctxs := [(0, { Ctx.reset with pret := some (0, 0, 0) })], parts := [(0, { (offering.partAt 0) with launches := [launch blocks r] })] }
def enters (s : State) : Bool :=
  match s.chosen 0 0 with
  | some (o, _, l) => o.slot == none && l.all (fun e => (s.ctxAt e.2).pret == some (0, o.launch.key, e.1)) && decide (l.map (fun e => e.2)).Nodup
      && l.all (fun e => (s.blockFor e.2 0 o.launch e.1).isSome) && o.queue == 0
  | none => false
theorem witness_BlocksEnter : enters (pretranslated lrec [.pending]) = true ∧ (pretranslated lrec [.pending]).nothingFits 0 = false ∧ lrec.gangN = 0 := by decide +kernel
def gangRec : LRec := { lrec with lt := [⟨1, 1, true, false, 0⟩] }
theorem witness_BlocksEnter_gang : enters (pretranslated gangRec [.pending]) = true ∧ gangRec.gangN ≠ 0 ∧ gangRec.gangOf 0 = 0
    ∧ (((pretranslated gangRec [.pending]).partAt 0).recordsOf 0).find? (fun l => l.blocks.any (fun b => b == .pending)) = some (launch [.pending] gangRec)
    ∧ (let s := pretranslated gangRec [.pending]
       match s.chosen 0 0 with
       | some (o, b, l) => (((gangRec.unit_ (0 * gangRec.gangN)).flatMap ((s.partAt 0).contextsOf gangRec)).findSome? (fun i => (s.chosen 0 i).filter
            (fun x => x.1.queue == 0 && x.1.slot.isNone && x.1.launch.key == 0 && x.1.launch.lrec.gangOf x.2.1 == 0))).map (fun x => (x.1.launch.key, x.2))
          == some (o.launch.key, b, l)
       | none => false) = true := by decide +kernel

def atBoundary : State :=
  { dev (fun c => { c with atBound := true, preempt := .checkpoint }) with parts := [(0, { Part.reset with ckCount := 1, ckBase := 0x400000 })] }
theorem witness_Checkpoint : (atBoundary.ctxAt 0).block = some block ∧ (atBoundary.ctxAt 0).saveable = true
    ∧ (range 0 (atBoundary.partAt 0).ckCount).find? (fun k => ((atBoundary.partAt 0).imageAt k).isNone) = some 0 := by decide +kernel
theorem witness_Checkpoint_canonical : Canonical atBoundary := ⟨rfl, fun _ => rfl⟩
theorem witness_Checkpoint_frame : (∀ d, (vget 0 atBoundary.pkg.wtroot d).toNat / 4096 = 0) ∧ (atBoundary.ctxAt 0).loops.length ≤ 6
    ∧ (atBoundary.ctxAt 0).probeSlots ≤ 256 ∧ (∀ e ∈ (atBoundary.ctxAt 0).extents, e.entry < 16) ∧ (atBoundary.ctxAt 0).kpend = [] := by
  refine ⟨fun d => ?_, by decide +kernel⟩
  unfold vget; split <;> simp [atBoundary, dev, Package.reset]
def image : Image := { ctx := { ctx0 with run := 0 }, ptime := 100 }
/-- A saved block whose image in the pool, at 0, has the given FEATV; another block of its record. -/
def saved (featv : Nat) (more : List BState) : State :=
  { offering with mem := memWrite [] 8 (natBytes 8 featv), parts := [(0, { (offering.partAt 0) with fqBase := 0x200000, ckCount := 1, images := [(0, image)], launches := [launch (.saved 0 100 :: more) lrec] })] }
def restores (s : State) : Bool :=
  match s.chosen 0 0 with
  | some (o, b, l) => l == [(b, 0)] && o.slot.isSome && nth o.launch.blocks b == some (.saved 0 100) && (s.blockFor 0 0 o.launch b).isSome
      && ((s.partAt 0).launchOf o.launch.key).isSome && !o.launch.lrec.trace
  | none => false
def headerWord (s : State) (a : Nat) : Word := BitVec.ofNat 64 (memNat s.mem ((s.partAt 0).ckBase.toNat / 2 ^ 21 * 2 ^ 21 + a) 8)
theorem witness_Restore : restores (saved Config.featv.toNat []) = true ∧ ((saved Config.featv.toNat []).partAt 0).imageAt 0 = some image
    ∧ (getF (headerWord (saved Config.featv.toNat []) 8) 36 12 = getF Config.featv 36 12 ∧ headerWord (saved Config.featv.toNat []) 16 &&& ~~~Config.featv = 0) := by
  refine ⟨by decide +kernel, by rfl, by decide +kernel⟩
theorem witness_Restore_refused : getF (headerWord (saved 0 [.running 2]) 8) 36 12 ≠ getF Config.featv 36 12 ∧ restores (saved 0 [.running 2]) = true
    ∧ (saved 0 [.running 2]).fqOpen 0 = true ∧ lrec.trace = false := by decide +kernel
/-- The image of the saved block meets a line in error, or none. -/
theorem witness_Restore_error : (saved Config.featv.toNat [.running 2]).imageBad 0 0 4096 = none
    ∧ (let s : State := { saved Config.featv.toNat [.running 2] with pkg := { (saved Config.featv.toNat []).pkg with poisoned := [5] } }
       (s.imageBad 0 0 4096).isSome = true ∧ restores s = true ∧ s.fqOpen 0 = true ∧ Memory.wf s.mem = true) := by decide +kernel
theorem witness_Restore_canonical (n : Nat) (l : List BState) (h : Memory.wf (memWrite [] 8 (natBytes 8 n)) = true) : Canonical (saved n l) := ⟨h, fun _ => rfl⟩
theorem witness_Restore_memory : Memory.wf (memWrite [] 8 (natBytes 8 Config.featv.toNat)) = true ∧ Memory.wf (memWrite [] 8 (natBytes 8 0)) = true := by decide +kernel
/-- A device whose core map is to change: the block of context 0 is on a cluster that leaves its partition, or on none. -/
def resizing (r : LRec) (drain : Nat) (cl : BitVec 32) : State :=
  { dev (fun c => { c with block := some { block with lrec := r } }) with
    parts := [(0, { Part.reset with cl := 1, drain := drain })], pkg := { Package.reset with dev := .ready, rxPart := [(0, { PartShadow.reset with cl := cl })] } }
theorem witness_Resize : (State.reset.shadowsOk = true ∧ State.reset.powered = true ∧ ({ State.reset with pkg := { Package.reset with dev := .off } } : State).powered = false)
    ∧ ({ State.reset with pkg := { Package.reset with rxPart := [(0, { PartShadow.reset with cl := 1 }), (1, { PartShadow.reset with cl := 1 })] } } : State).shadowsOk = false := by
  decide +kernel
theorem witness_Resize_tables (r : LRec) (n : Nat) (cl : BitVec 32) : Tables (resizing r n cl) := by simp [Tables, resizing, dev]
theorem witness_Resize_moves : ((resizing lrec 100 2).powered = true ∧ (resizing lrec 100 2).shadowsOk = true ∧ (resizing lrec 100 2).mates 0 = [0] ∧ (resizing lrec 100 2).mates 1 = [1])
    ∧ (let moves (s : State) : Bool := getB ((s.partAt 0).cl ^^^ (tget PartShadow.reset s.pkg.rxPart 0).cl) (coreOf 0 / 48)
       moves (resizing lrec 100 2) = true ∧ moves (resizing lrec 100 1) = false)
    ∧ (let left (s : State) (b : Block) : Nat := b.lrec.rest - (s.ptime - b.dispatchT)
       left (resizing lrec 100 2) { block with lrec := lrec } ≤ 100
         ∧ 100 < left (resizing { lrec with rest := 10000 } 100 2) { block with lrec := { lrec with rest := 10000 } })
    ∧ ({ lrec with flags := 1 } : LRec).idem = true ∧ lrec.idem = false ∧ (∀ x ∈ lrec.lt, x.pre = false)
    ∧ Part.reset.kill ≤ 2 ^ 32 - 1 ∧ 2 ^ 32 - 1 < { Part.reset with kill := 2 ^ 32 }.kill := by decide +kernel

def removing (k : Nat) (f : Ctx → Ctx) : State := dev (fun c => f { c with status := .removing k 10 })
theorem witness_ContextsRemoved : (∀ k, k ≤ 5 → ((removing k id).ctxAt 0).status = .removing k 10)
    ∧ (∀ k, k ≤ 5 → ((removing k id).squashEngine 0 k).inFlight 0 k = false) ∧ ((removing 5 id).ctxAt 0).block = some block := by decide +kernel
def stopping : State :=
  { dev (fun c => { c with status := .suspended }) with parts := [(0, { Part.reset with launches := [{ launch [.running 0] lrec with stopped := true }] })] }
theorem witness_ContextsRemoved_stopped : (stopping.ctxAt 0).status = .suspended ∧ stopping.launchStopped 0 = true := by decide +kernel
def stuck : State := { removing 5 (fun c => { c with stores := [{ waiting cxlLine with fwd := true }] }) with ptime := 0x100000 + 11 }
theorem witness_CoreReset : [2 * 0, 2 * 0 + 1].find? stuck.removalStuck = some 0 ∧ stuck.noRoom = false ∧ (stuck.ctxAt (partner 0)).block = none
    ∧ (stuck.ctxAt (partner 0)).status = .free := by decide +kernel

def faultRec : FaultRec :=
  { part := 0, ptime := 10, code := 0x1A, cls := 3, src := 1, chan := 0, lid := 0, block := 0, wid := 0, flags := 0, tval := 0, whr := 0, wp := 0, aux := 0 }
def holding (tail head : Nat) : State :=
  { dev (fun c => { c with fbuf := some faultRec, ebuf := [(16, faultRec)] }) with
    parts := [(0, { Part.reset with fqBase := 0x200000, fqTail := tail, fqHead := head, fqWait := [faultRec] })] }
theorem witness_RecordsPosted : (∀ h ∈ [RecordHolder.context 0, .engine 0 16, .controller 0], (holding 0 0).heldRec h = some faultRec)
    ∧ ((holding 0 0).partAt 0).fqFull = false ∧ (∀ x ∈ (holding 0 0).waiting 0, faultRec.ptime ≤ x.ptime) ∧ ((holding 4095 0).partAt 0).fqFull = true
    ∧ (holding 0 0).fqHeld 0 = false ∧ { holding 0 0 with ptime := 100 }.fqHeld 0 = true
    ∧ (holding 0 0).serves 0 = true ∧ { holding 0 0 with pkg := Package.reset }.serves 0 = false := by decide +kernel
theorem witness_RecordsPosted_canonical : Canonical (holding 0 0) := ⟨rfl, fun _ => rfl⟩

def suspended : State :=
  { dev (fun c => { c with status := .suspended, chans := [(2, [{ toWin with held := true }])] }) with parts := [(0, { Part.reset with cl := 1 })] }
theorem witness_ContextCommands : (suspended.target 0 0 false = some 0 ∧ (suspended.ctxAt 0).status = .suspended)
    ∧ ((suspended.ctxAt 0).chan 2 = { toWin with held := true } :: [] ∧ (suspended.ctxAt 0).leaving = false ∧ (suspended.ctxAt 0).stores = [])
    ∧ suspended.target 0 0 true = none ∧ suspended.target 0 48 false = none
    ∧ (suspended.serves 0 = true ∧ { suspended with pkg := Package.reset }.serves 0 = false)
    ∧ (let s : State := { dev (fun c => { c with chans := [(2, [toWin])] }) with parts := [(0, { Part.reset with cl := 1 })] }
       s.target 0 0 false = some 0 ∧ (s.ctxAt 0).status ≠ .suspended ∧ (s.ctxAt 0).leaving = false ∧ (s.ctxAt 0).chan 2 = [toWin] ∧ toWin.held = false)
    ∧ (suspended.ctxAt 0).chan 3 = [] := by decide +kernel

/-- Host walking: an extent for range 0 in the data registers, or none that passes. -/
def hosted (d0 d3 cause : Nat) : State :=
  { dev (fun c => { c with extents := [], walkReq := some walkFor }) with
    parts := [(0, { Part.reset with cl := 1, sl := #v[BitVec.allOnes 64, 0, 0, 0], extdata := #v[BitVec.ofNat 64 (d0 + cause), 0x10, 0, BitVec.ofNat 64 d3] })] }
def hostedExtent (s : State) : Extent := { bits := (s.partAt 0).extBits, level := 0, entry := 0 }
def refused (s : State) : Bool := s.extentBad block (hostedExtent s)
theorem witness_ExtentCommands : (hosted 0 0 0).target 0 0 false = some 0 ∧ ((hosted 0 0 0).ctxAt 0).walkReq = some walkFor ∧ refused (hosted 0 0 0) = true
    ∧ 0x0B ≤ (vget 0 ((hosted 0 0 0x0E).partAt 0).extdata 0).toNat % 256 ∧ (vget 0 ((hosted 0 0 0x0A).partAt 0).extdata 0).toNat % 256 < 0x0B := by decide +kernel
theorem witness_ExtentCommands_installs : refused (hosted 0x100000 (2 ^ 41 + 2 ^ 34) 0) = false := by decide +kernel
/-- The same request as the first of an engine's; the entry of an address space read or in error. -/
theorem witness_ExtentCommands_engine : (let s := (hosted 0 0 0).modCtxAt 0 (fun c => { c with walkReq := none, engReqs := [{ walkFor with unit := 16 }] })
      s.target 0 0 false = some 0 ∧ (s.ctxAt 0).walkReq = none ∧ (s.ctxAt 0).engReqs.head? = some { walkFor with unit := 16 } ∧ (s.ctxAt 0).block = some block)
    ∧ ((hosted 0 0 0).serves 0 = true ∧ (hosted 0 0 0).asidBad 0 0 = none ∧ { hosted 0 0 0 with pkg := Package.reset }.serves 0 = false) := by decide +kernel

/-! ### Witnesses: the host's registers, the debugger, the command engine, slots, links, bring-up -/

def pkg (f : Package → Package) : State := { State.reset with pkg := f { Package.reset with dev := .ready } }
def duties : State := pkg (fun k => { k with duty := 0x18, candidates := [5], retired := [3] })
theorem witness_Requests : (getB duties.pkg.duty 3 = true ∧ duties.pkg.link.busy = false ∧ getB duties.pkg.duty 4 = true ∧ duties.pkg.rep.busy = false)
    ∧ (5 ∈ duties.pkg.candidates ∧ 6 ∉ duties.pkg.candidates) ∧ ((0x8000000000000003 : Word).getLsbD 63 = true ∧ (0x8000000000000003 : Word).toNat % 512 ∈ duties.pkg.retired
      ∧ (0x8000000000000004 : Word).toNat % 512 ∉ duties.pkg.retired) ∧ (0x8000000000000001 : Word).toNat % 4 = 1 ∧ (0x8000000000000002 : Word).toNat % 4 ≠ 1
    ∧ duties.powered = true ∧ (pkg (fun k => { k with dev := .off })).powered = false ∧ 4 ∉ duties.pkg.retireReq := by decide +kernel
/-- A stack that has a spare row left, on a device that has any. -/
theorem witness_Requests_spare (h : Config.spareRows 0 ≠ 0) : duties.pkg.sparesLeft (rowStack 5) ≠ 0 := h
theorem witness_HostRegisters : (pkg id).pkg.dev ≠ .off ∧ (pkg id).pkg.dev ≠ .safe ∧ (pkg (fun k => { k with dev := .safe })).pkg.dev = .safe
    ∧ (1 : Word).toNat % 2 ^ 20 ≠ 0 ∧ (pkg id).pkg.dev = .ready ∧ (pkg (fun k => { k with dev := .booting })).pkg.dev ≠ .ready := by decide +kernel

/-- The selected context halted, running, over the table. -/
def debugged (k : Word) : State :=
  { dev (fun c => { c with halt := true, kaddr := k }) with mem := tableCells, parts := [(0, tablePart)] }
def walkOk (s : State) : Bool := match (s.walkVa 0 0 0 0 0x100000008).1 with | .ok _ => true | .error _ => false
theorem walkOk_ok (s : State) (h : walkOk s = true) : ∃ l u, s.walkVa 0 0 0 0 0x100000008 = (.ok l, u) := by
  unfold walkOk at h; split at h
  · rename_i l hl; exact ⟨l, (s.walkVa 0 0 0 0 0x100000008).2, by rw [← hl]⟩
  · simp at h
theorem walkOk_error (s : State) (h : walkOk s = false) : ∃ f u, s.walkVa 0 0 0 0 0x100000008 = (.error f, u) := by
  unfold walkOk at h; split at h
  · simp at h
  · rename_i f hf; exact ⟨f, (s.walkVa 0 0 0 0 0x100000008).2, by rw [← hf]⟩
theorem witness_Debugger : ((debugged 0).ctx.isHalted = true ∧ (debugged 0).ctx.status = .running ∧ (debugged 0).ctx.block.isSome = true ∧ (debugged 0).pkg.selected = 0)
    ∧ (dev id).ctx.isHalted = false ∧ ((dev id).ctx.slot = 0 ∧ (dev id).ctx.stall = none ∧ (dev id).ctx.step = false) := by decide +kernel
theorem witness_Debugger_reads : (∃ l u, (debugged 0x100000000).walkVa 0 0 0 0 0x100000008 = (.ok l, u)) ∧ (∃ f u, (dev id).walkVa 0 0 0 0 0x100000008 = (.error f, u)) :=
  ⟨walkOk_ok _ (by decide +kernel), walkOk_error _ (by decide +kernel)⟩
/-- The walk of the range's first page succeeds through the same table. -/
def walkingTable : State := walking 0 [⟨0, none, 0x100000, 0, true⟩] tableCells
def formed (s : State) : Bool := match (s.formExtent 0 walkFor.va ⟨0, false, false⟩ true).1 with | .ok _ => true | .error _ => false
theorem witness_Walks_formed : formed { walkingTable with parts := [(0, tablePart)] } = true ∧ formed (walking 0 [] []) = false := by decide +kernel

theorem witness_CommandEngine : ((pkg id).engineBusy .mailbox = false ∧ (pkg id).engineBusy .i3c = false)
    ∧ (pkg (fun k => { k with mbOp := some (.i3c, 0) })).engineBusy .mailbox = true ∧ (pkg (fun k => { k with mbOp := some (.i3c, 0) })).pkg.dev ≠ .off
    ∧ (8 : Nat) ≤ (0x8000000000000008 : Word).toNat % 2 ^ 16 ∧ (0x8000000000000008 : Word).getLsbD 63 = true := by decide +kernel

/-- The device at a time, with a partition that owns all of HBM. -/
def owner : Part := { Part.reset with sl := #v[BitVec.allOnes 64, 1, 1, 1], pcg := BitVec.allOnes 64, fqBase := 0x200000 }
def timed (t : Nat) : State := { pkg id with ptime := t, parts := [(0, owner)] }
theorem witness_QuenchSlots : ((timed 12).bgInSlot 0 0 = true ∧ (timed 155).bgInSlot 0 0 = true ∧ (timed 156).bgInSlot 0 0 = false ∧ (timed 11).bgInSlot 0 0 = false)
    ∧ ((timed 4692).powered = true ∧ (timed 4692).bgInSlot 0 0 = true ∧ (pkg (fun k => { k with dev := .safe })).powered = false)
    ∧ (isHbm (64 * 1) = true ∧ pchOf (64 * 1) = 0 ∧ bgOf (64 * 1) = 0 ∧ (timed 4692).groupOwner (64 * 1) = some 0 ∧ (timed 4692).fqOpen 0 = true)
    ∧ (2 ^ 15 ≤ (timed 32768).ptime ∧ (timed 32831).ptime < 0 * 2 ^ 16 + 2 ^ 15 + 64 ∧ (timed 32767).ptime < 2 ^ 15)
    ∧ (isHbm 0x100000000000 = false ∧ (timed 0).pkg.cal.majorNext (2 ^ 20 - 48) ≤ 2 ^ 20 - 48 + 48 ∧ 2 ^ 20 - 49 + 48 < (timed 0).pkg.cal.majorNext (2 ^ 20 - 49)) := by
  decide +kernel
/-- In the last slot of a group in the first day's pass, a line of it in error. -/
def lastSlot : State := { timed (dayTicks - dayTicks % 2340 + 12) with pkg := { (pkg id).pkg with poisoned := [1] } }
theorem witness_QuenchSlots_scrub : (timed 4692).pkg.poisoned = [] ∧ lastSlot.bgInSlot 0 0 = true ∧ lastSlot.pkg.poisoned = [1] ∧ lastSlot.met 1 = false
    ∧ lastSlot.lastOfPass 0 = true ∧ lastSlot.groupOwner (64 * 1) = some 0 ∧ lastSlot.fqOpen 0 = true := by decide +kernel
theorem witness_QuenchSlots_canonical : Canonical (timed 12) := ⟨rfl, fun _ => rfl⟩
def forcedAt (t : Nat) : State := { timed t with pkg := { (timed t).pkg with pch := [(0, { PchCal.reset with forced := some 100 })] } }
theorem witness_QuenchSlots_forced : (tget PchCal.reset (forcedAt 520).pkg.pch 0).forced = some 100 ∧ 100 + (forcedAt 520).pkg.cal.ablen ≤ (forcedAt 520).ptime := by decide +kernel

theorem witness_MajorSlots : ((timed 1535).majorOpen = some 0 ∧ (timed 1535).pkg.majorT ≠ some 0 ∧ (timed 1535).pkg.dev = .ready
      ∧ (pkg (fun k => { k with retireReq := [3, 4], retirePch := 5, dutyNew := some 12 })).pkg.retireReq = [3, 4]) ∧ (timed 1536).majorOpen = none
    ∧ (pkg (fun k => { k with endT := some 1536 })).pkg.endT = some 1536 ∧ (timed 1535).ptime < 1536 ∧ 1536 ≤ (timed 1536).ptime := by decide +kernel

/-- A flit that a link receives in order, or with a wrong CRC. -/
def flit (nak lane nl : Nat) (crc : Bool) : BitVec 2048 :=
  let head := 0 + 0xFFF * 2 ^ 16 + nak * 2 ^ 31 + lane * 2 ^ 32 + nl * 2 ^ 34 + 15 * 2 ^ 40
  BitVec.ofNat 2048 (head + (crc32c (natBytes 208 head) + (if crc then 0 else 1)) % 2 ^ 32 * 2 ^ 1664)
def linked (t : Nat) (f : Link → Link) : State := { timed t with pkg := (timed t).pkg.setLink 0 (f { Link.reset with up := true }) }
set_option maxRecDepth 20000 in
theorem witness_Flits_crc : fCrcOk (flit 0 3 0 true) = true ∧ fCrcOk (flit 0 0 1 true) = true ∧ fCrcOk (flit 1 3 0 true) = true ∧ fCrcOk (flit 0 3 0 false) = false := by decide +kernel
theorem witness_Flits : (((linked 5000 id).pkg.linkAt 0).up = true ∧ (linked 5000 id).pkg.linkHeld 5000 0 = false ∧ fSeq (flit 0 3 0 true) = ((linked 5000 id).pkg.linkAt 0).rxSeq + 1
      ∧ ∀ v, v < 4 → vget [] ((linked 5000 id).pkg.linkAt 0).skid v = [])
    ∧ (fLane (flit 0 3 0 true) = 3 ∧ fDev (flit 0 3 0 true) = (linked 5000 id).pkg.devNum ∧ fLane (flit 0 0 1 true) = 0 ∧ fNl (flit 0 0 1 true) ≠ 0)
    ∧ (fNak (flit 1 3 0 true) = true ∧ ((linked 5000 (fun l => { l with nakRun := 15, nakSeq := 0xFFF })).pkg.linkAt 0).nakSeq = fAck (flit 1 3 0 true))
    ∧ (linked (2 ^ 20 - 48) id).pkg.linkHeld (2 ^ 20 - 48) 0 = true
    ∧ ((linked 5000 id).pkg.linkAt 0).waits = [] ∧ ((linked 5000 (fun l => { l with waits := [0] })).pkg.linkAt 0).waits ≠ []
    ∧ (let k := ({ (linked 5000 id).pkg with torus := (4, 1, 1), devNum := 1 } : Package).setLink 2 { Link.reset with up := true }
       fDev (flit 0 0 1 true) ≠ k.devNum ∧ k.route (fDev (flit 0 0 1 true)) = .link 2 ∧ (k.linkAt 2).takes 0 1 = true ∧ k.linkHeld 5000 2 = false) := by decide +kernel
theorem witness_Heartbeats : 8 < ((linked 5000 (fun l => { l with missed := 9, carried := [0] })).pkg.linkAt 0).missed
    ∧ ((linked 5000 (fun l => { l with missed := 9, carried := [0] })).pkg.linkAt 0).carried = [0] ∧ ((linked 5000 (fun l => { l with missed := 9, carried := [0] })).pkg.linkAt 0).lost = false
    ∧ (linked 5000 id).fqOpen 0 = true ∧ ((linked 5000 (fun l => { l with missed := 8 })).pkg.linkAt 0).missed ≤ 8 := by decide +kernel

def transfer (op sent done : Nat) (st : Option Nat) : Transfer :=
  { index := 0, op := op, dev := 2, loc := 0x40000, rem := 0x80000, lines := 4, sent := sent, done := done, status := st, no := 1 }
def transferring (x : Option Transfer) (en : Bool) (tail : Nat) : State :=
  { linked 5000 id with parts := [(0, { owner with xfer := x, xferq := { Queue.reset with base := 0x300000, cbase := 0x310000, en := en, tail := tail } })], pkg := { ((timed 5000).pkg.setLink 0 { Link.reset with up := true }) with torus := (4, 1, 1) } }
def sends (s : State) (l : List Cargo) : Bool := (s.sendAll (some 0) l).isSome
def sending (x : Transfer) : State := transferring (some x) true 1
theorem witness_LinkTransfers : (((transferring none false 1).partAt 0).xfer = none ∧ ((transferring none false 1).partAt 0).xferq.en = false
      ∧ ((transferring none true 0).partAt 0).xferq.head = ((transferring none true 0).partAt 0).xferq.tail ∧ ((transferring none true 1).partAt 0).xferq.head ≠ ((transferring none true 1).partAt 0).xferq.tail
      ∧ (transferring none true 1).pkg.dev = .ready)
    ∧ ((transfer 1 3 0 none).sent < (transfer 1 3 0 none).lines ∧ (sending (transfer 1 3 0 none)).pkg.route 2 = .link 0
      ∧ (sending (transfer 1 3 0 none)).badSource (transfer 1 3 0 none) ((sending (transfer 1 3 0 none)).nextCargo (transfer 1 3 0 none)).1 = none
      ∧ sends (sending (transfer 1 3 0 none)) [((sending (transfer 1 3 0 none)).nextCargo (transfer 1 3 0 none)).2] = true)
    ∧ ((transfer 1 4 4 none).lines ≤ (transfer 1 4 4 none).done ∧ (transfer 1 4 3 none).done < (transfer 1 4 3 none).lines) := by decide +kernel
/-- A transfer from a line in error; one to a device that no link leads to. -/
def badTransfer : State := { sending (transfer 1 3 0 none) with pkg := { (sending (transfer 1 3 0 none)).pkg with poisoned := [0x1003] } }
theorem witness_LinkTransfers_ends : badTransfer.badSource (transfer 1 3 0 none) (badTransfer.nextCargo (transfer 1 3 0 none)).1 = some 0x1003
    ∧ badTransfer.fqOpen 0 = true ∧ (badTransfer.partAt 0).xferq.cbase.toNat % 16 = 0 ∧ badTransfer.pkg.route 2 = .link 0
    ∧ { badTransfer with pkg := { badTransfer.pkg with torus := (1, 1, 1) } }.pkg.route 2 = .gone := by decide +kernel
/-- Outside a major slot and in one, with the source lines free or held, the reply's lines told from another peer's, the
descriptor's line in error. -/
theorem witness_LinkTransfers_waits : (let s := sending (transfer 1 3 0 none)
      s.majorOpen = none ∧ s.lateHeld ((transfer 1 3 0 none).source 0 (s.nextCargo (transfer 1 3 0 none)).1) = false
      ∧ { s with ptime := 100 }.majorOpen.isSome = true ∧ s.entryHeld (s.partAt 0).xferq = false)
    ∧ (let s : State := { sending (transfer 1 3 0 none) with ptime := 4692, mem := [] }; let x := { transfer 1 3 0 none with loc := 0 }
       s.majorOpen = none ∧ s.lateHeld (x.source 0 (s.nextCargo x).1) = true ∧ s.pkg.route x.dev = .link 0)
    ∧ (let s := sending (transfer 2 3 0 none); let x := transfer 2 3 0 none
       s.pkg.readMixes x (s.nextCargo x).1 = false ∧ s.badSource x (s.nextCargo x).1 = none ∧ sends s [(s.nextCargo x).2] = true)
    ∧ (let s : State := { transferring none true 1 with pkg := { (transferring none true 1).pkg with poisoned := [0x300000 / 64] } }
       0x300000 / 64 ∈ s.pkg.poisoned ∧ s.fqOpen 0 = true ∧ (s.partAt 0).xferq.base.toNat + 64 * ((s.partAt 0).xferq.head % 2 ^ (s.partAt 0).xferq.log2n) = 0x300000) := by
  decide +kernel
theorem witness_LinkTransfers_canonical : Canonical badTransfer := ⟨rfl, fun _ => rfl⟩
/-- A request of device 2 for lines from 0x40000 on, or with a line, in a skid buffer. -/
def request (nl addr : Nat) : BitVec 2048 := BitVec.ofNat 2048 (nl * 2 ^ 34 + addr * 2 ^ 64)
def receiving (f : BitVec 2048) : State :=
  let l : Link := { Link.reset with up := true, skid := #v[[f], [], [], []] }
  { transferring none true 0 with parts := [(0, { owner with rx := [(0, { base := 0x40, w := true, r := true, pages := 1 })] })],
                                  pkg := ((transferring none true 0).pkg.setLink 0 l).setLink 2 l }
set_option maxRecDepth 20000 in
theorem witness_PeerRequests : ([request 1 0x40000, request 0 0x40000, request 1 0x41000].all (fun f => decide ((receiving f).accepter 0x40000 (64 * 1) true = some 0)
      && decide ((receiving f).accepter 0x40FC0 (64 * 1) false = some 0) && decide ((receiving f).accepter 0x41000 (64 * 1) true = none)
      && decide ((receiving f).groupOwner 0x41000 = some 0) && (receiving f).fqOpen 0 && (linesOf 0x40000 64).all (fun l => !(receiving f).lineBusy l 1)
      && (receiving f).pkg.poisoned.isEmpty && [0, 1, 2, 3, 4].all (fun d => decide ((vget 0 (receiving f).pkg.wtroot d).toNat < 4096))) = true)
    ∧ ((receiving (request 1 0x40000)).pkg.requestAt (.write 2 0x40000 [0])).isSome = true
    ∧ ((receiving (request 0 0x40000)).pkg.requestAt (.read 2 0x40000 3)).isSome = true
    ∧ ((receiving (request 1 0x41000)).pkg.requestAt (.write 2 0x41000 [0])).isSome = true
    ∧ (receiving (request 0 0x40000)).pkg.requestAt (.write 2 0x40000 [0]) = none := by decide +kernel
/-- What a slot holds of a peer waits. -/
theorem witness_PeerRequests_held : (∀ r ∈ [PeerReq.write 2 0x40000 [0], .read 2 0x40000 1], (receiving 0).lateHeld (.peer r) = false)
    ∧ { receiving 0 with ptime := 100 }.lateHeld (.peer (.write 2 0x40000 [0])) = true := by decide +kernel
/-- The answer to a peer finds a link that takes it, whatever its control word. -/
theorem witness_PeerRequests_answer (c : Cargo) (hd : c.dev = 2) (hl : c.lane = 1) : ((receiving 0).sendAll none [c]).isSome = true := by
  unfold State.sendAll Package.sendAll; rw [hd, hl]; rfl
theorem witness_PeerRequests_canonical (f : BitVec 2048) : Canonical (receiving f) := ⟨rfl, fun _ => rfl⟩

def booted (stage : Nat) (f : Package → Package) : State := { State.reset with pkg := f { Package.reset with dev := .booting, stage := stage } }
def firmware (svn : Nat) : Firmware := { key := 0, svn := BitVec.ofNat 16 svn, signature := 0, body := [] }
theorem witness_BringUp : State.reset.pkg.dev = .start ∧ ((booted 1 id).pkg.dev ≠ .off ∧ (booted 1 id).pkg.dev ≠ .ready ∧ (booted 1 id).pkg.dev ≠ .safe
      ∧ (booted 1 id).pkg.stage = 1) ∧ (firmware 4).svn.toNat < (booted 1 (fun k => { k with svnMin := 5 })).pkg.svnMin.toNat
    ∧ (booted 1 (fun k => { k with svnMin := 5 })).pkg.svnMin.toNat ≤ (firmware 5).svn.toNat
    ∧ 9 ≤ (List.replicate 9 (firmware 5)).length ∧ (3, 0x10, 5) ∈ [(3, 0x10, 5), (4, 0x20, 4), (5, 0x30, 8)] := by decide +kernel
/-- What stands for an image that is signed is no number of the model's: where the constants sign one, it is accepted, and elsewhere it is not. -/
theorem witness_BringUp_signed (f : Firmware) (h : Config.shake256 (natBytes 1793 f.key.toNat) 512 = Config.keyDigest 0
      ∧ Config.falconVerify f.key (Config.shake256 f.body 512) f.signature = true) (hs : 5 ≤ f.svn.toNat) :
    (Config.shake256 (natBytes 1793 f.key.toNat) 512 = Config.keyDigest 0 ∧ Config.falconVerify f.key (Config.shake256 f.body 512) f.signature = true)
      ∧ (booted 1 (fun k => { k with svnMin := 5 })).pkg.svnMin.toNat ≤ f.svn.toNat := ⟨h, hs⟩
theorem witness_Invariants : Canonical State.reset ∧ Tables State.reset ∧ Canonical (dev id) ∧ Tables (dev id) := ⟨⟨rfl, fun _ => rfl⟩, List.nodup_nil, canonical id, tables id⟩
theorem witness_Encoding : (Instr.cred 5 3 2 7).wellFormed = true ∧ (Instr.cred 5 3 2 7).inSlot .e = true := by decide +kernel

/-! ### Words -/

/-- Each word is read as its instruction in its slot. -/
def reads (l : List (Slot × SlotWord × Instr)) : Bool :=
  l.all (fun e => match decodeSlot e.1 e.2.1 with | .ok i => i == e.2.2 | .error _ => false)
theorem test_decode_scalar_alu : reads [
    (.sb, 0b000000_00011_10001_01001_00000_000_000#32, .add 3 17 9 false),
    (.sa, 0b000000_00011_10001_01001_00001_000_001#32, .sub 3 17 9 true),
    (.sb, 0b000000_00011_10001_01001_00010_000_000#32, .and 3 17 9 false),
    (.sa, 0b000000_00011_10001_01001_00011_000_001#32, .or 3 17 9 true),
    (.sb, 0b000000_00011_10001_01001_00100_000_000#32, .xor 3 17 9 false),
    (.sa, 0b000000_00011_10001_01001_00101_000_001#32, .andn 3 17 9 true),
    (.sb, 0b000000_00011_10001_01001_00110_000_000#32, .orn 3 17 9 false),
    (.sa, 0b000000_00011_10001_01001_00111_000_001#32, .shl 3 17 9 true),
    (.sb, 0b000000_00011_10001_01001_01000_000_000#32, .shr 3 17 9 false),
    (.sa, 0b000000_00011_10001_01001_01001_000_001#32, .sar 3 17 9 true),
    (.sb, 0b000000_00011_10001_01001_01010_000_000#32, .rotl 3 17 9 false),
    (.sa, 0b000000_00011_10001_01001_01011_000_001#32, .min 3 17 9 true),
    (.sb, 0b000000_00011_10001_01001_01100_000_000#32, .max 3 17 9 false),
    (.sa, 0b000000_00011_10001_01001_01101_000_001#32, .minu 3 17 9 true),
    (.sb, 0b000000_00011_10001_01001_01110_000_000#32, .maxu 3 17 9 false),
    (.sa, 0b000000_00011_10001_01001_01111_000_001#32, .mul 3 17 9 true),
    (.sb, 0b000000_00011_10001_01001_10000_000_000#32, .mulh 3 17 9 false),
    (.sa, 0b000000_00011_10001_01001_10001_000_001#32, .mulhu 3 17 9 true),
    (.sb, 0b000000_00011_10001_01001_10010_000_000#32, .div 3 17 9 false),
    (.sa, 0b000000_00011_10001_01001_10011_000_001#32, .divu 3 17 9 true),
    (.sb, 0b000000_00011_10001_01001_10100_000_000#32, .rem 3 17 9 false),
    (.sa, 0b000000_00011_10001_01001_10101_000_001#32, .remu 3 17 9 true),
    (.sa, 0b000000_00011_10001_00000_10110_000_001#32, .clz 3 17 true),
    (.sa, 0b000000_00011_10001_00000_10111_000_001#32, .ctz 3 17 true),
    (.sa, 0b000000_00011_10001_00000_11000_000_001#32, .popc 3 17 true),
    (.sa, 0b000000_00011_10001_01001_11001_101_000#32, .sel 3 17 9 5 false)] = true := by decide +kernel

theorem test_decode_scalar_immediates : reads [
    (.sb, 0b000001_00011_10001_1000000000000001#32, .addi 3 17 0x8001),
    (.sb, 0b000010_00011_10001_1000000000000001#32, .andi 3 17 0x8001),
    (.sb, 0b000011_00011_10001_1000000000000001#32, .ori 3 17 0x8001),
    (.sb, 0b000100_00011_10001_1000000000000001#32, .xori 3 17 0x8001),
    (.sa, 0b000101_00011_10001_00_00000000_100001#32, .shli 3 17 33),
    (.sa, 0b000101_00011_10001_01_00000000_100001#32, .shri 3 17 33),
    (.sa, 0b000101_00011_10001_10_00000000_100001#32, .sari 3 17 33),
    (.sa, 0b000101_00011_10001_11_00000000_100001#32, .rotli 3 17 33),
    (.sa, 0b000110_00011_00000_1111001000000000#32, .li 3 0xF200),
    (.sb, 0b000111_00011_10001_0000000000011000#32, .lsh 3 17 0x18),
    (.sa, 0b001000_00011_00100_000_0_000011_001000#32, .ext 3 4 3 8),
    (.sa, 0b001000_00011_00100_000_1_000011_001000#32, .extS 3 4 3 8),
    (.sa, 0b001001_00011_00100_000_0_000011_001000#32, .ins 3 4 3 8)] = true := by decide +kernel

theorem test_decode_predicates : reads [
    (.sb, 0b001010_010_011_00101_00110_0000000000#32, .cmp 2 .ltu 5 6),
    (.sb, 0b001011_010_010_00101_000000001100100#32, .cmpi 2 .lt 5 100),
    (.sa, 0b001100_00001_00010_00011_00000000000#32, .pand 1 2 3),
    (.sa, 0b001100_00001_00010_00011_00001000000#32, .por 1 2 3),
    (.sa, 0b001100_00001_00010_00011_00010000000#32, .pxor 1 2 3),
    (.sa, 0b001100_00001_00010_00011_00011000000#32, .pandn 1 2 3),
    (.sa, 0b001100_00001_00010_00000_00100000000#32, .pnot 1 2),
    (.sa, 0b001101_00111_00000_00000_00000000000#32, .rdp 7),
    (.sa, 0b001110_00000_00111_00000_00000000000#32, .wrp 7)] = true := by decide +kernel

theorem test_decode_control : reads [
    (.sa, 0b010000_001_0_1111111111111111110111#32, .br 1 false 0x3FFFF7),
    (.sa, 0b010001_011_1_0000000000000000000101#32, .call 3 true 5),
    (.sa, 0b010010_00000_11111_00000_00000000000#32, .jr 31),
    (.sa, 0b010011_00000_11110_00000_00000000000#32, .callr 30),
    (.sa, 0b010100_000_01010_000000000000000111#32, .lpush 0 10 7),
    (.sa, 0b010101_010_00000_000000000000000000#32, .lbrk 2),
    (.sa, 0b010110_001_01001_000000000000000000#32, .lidx 1 9),
    (.sa, 0b010111_00000_00000_00000_00000000000#32, .exit),
    (.sa, 0b011000_00000_00000_0000000000001001#32, .pause 9),
    (.sa, 0b011001_00000_00000_1111111111111111#32, .trap 0xFFFF),
    (.sa, 0b011010_00000_00000_00000_00000000000#32, .rett),
    (.sa, 0b011011_00000_00000_0000000000000011#32, .brk 3)] = true := by decide +kernel

theorem test_decode_system : reads [
    (.sa, 0b011100_00100_00000_0000000000010010#32, .rdsr 4 0x12),
    (.sa, 0b011101_00000_00100_0000000000001000#32, .wrsr 4 8),
    (.sa, 0b011110_00100_00000_00000_00000000000#32, .rdtime 4),
    (.sa, 0b011111_01001_00100_0000000000000001#32, .mscal 9 4 .sweep),
    (.sa, 0b100000_01010_00100_00000_00000000000#32, .msdefer 10 4),
    (.sa, 0b100001_00000_00000_00000_00000000000#32, .ddsync),
    (.sa, 0b100010_00011_10100_10101_00000000000#32, .lnch 3 20 21),
    (.sa, 0b100011_00011_10100_10101_00000000000#32, .rlnch 3 20 21)] = true := by decide +kernel

theorem test_decode_scalar_memory : reads [
    (.sb, 0b101000_00100_00010_1111111111111000#32, .ldB 4 2 0xFFF8),
    (.sb, 0b101001_00100_00010_1111111111111000#32, .ldH 4 2 0xFFF8),
    (.sb, 0b101010_00100_00010_1111111111111000#32, .ldW 4 2 0xFFF8),
    (.sb, 0b101011_00100_00010_1111111111111000#32, .ldD 4 2 0xFFF8),
    (.sb, 0b101100_00100_00010_1111111111111000#32, .ldBu 4 2 0xFFF8),
    (.sb, 0b101101_00100_00010_1111111111111000#32, .ldHu 4 2 0xFFF8),
    (.sb, 0b101110_00100_00010_1111111111111000#32, .ldWu 4 2 0xFFF8),
    (.sb, 0b110000_00100_00010_0000000000001000#32, .stB 4 2 8),
    (.sb, 0b110001_00100_00010_0000000000001000#32, .stH 4 2 8),
    (.sb, 0b110010_00100_00010_0000000000001000#32, .stW 4 2 8),
    (.sb, 0b110011_00100_00010_0000000000001000#32, .stD 4 2 8),
    (.sb, 0b110100_00101_00100_010_11_00000000000#32, .ldAcq 5 4 .die .d 0),
    (.sb, 0b110101_00110_00100_011_11_00000001000#32, .stRel 6 4 .pkg .d 8),
    (.sb, 0b110110_00011_00100_00110_1000_11_010_1_0#32, .amo 3 4 6 .swap true .die true false),
    (.sb, 0b110111_00011_00100_00110_0000_10_011_0_1#32, .cas 3 4 6 false .pkg false true),
    (.sb, 0b111000_00000_00000_100_10_00000000000#32, .fence .sys .full),
    (.sb, 0b111001_00000_00100_00101_00000000000#32, .l1inv 4 5),
    (.sb, 0b111010_00000_00000_00000_00000000000#32, .l1inva),
    (.sb, 0b111011_00110_00100_0000000000001100#32, .probe 6 4 12),
    (.sb, 0b111100_01000_00000_0000000000000011#32, .rdwp 8 3)] = true := by decide +kernel

theorem test_decode_vector : reads [
    (.v, 0b000000_110_00001_00010_00011_000_00001#32, .vadd .i16 1 2 3 0 true),
    (.v, 0b000001_110_00001_00010_00011_000_00001#32, .vsub .i16 1 2 3 0 true),
    (.v, 0b000010_001_00100_00101_00110_010_00000#32, .vmul .bf16 4 5 6 2),
    (.v, 0b000011_001_00100_00101_00110_010_00000#32, .vfma .bf16 4 5 6 2),
    (.v, 0b000100_001_00100_00101_00110_010_00000#32, .vfms .bf16 4 5 6 2),
    (.v, 0b000101_001_00100_00101_00110_010_00000#32, .vfnma .bf16 4 5 6 2),
    (.v, 0b000110_111_00001_00010_00011_001_00001#32, .vmax .i8 1 2 3 1 true),
    (.v, 0b000111_111_00001_00010_00011_001_00001#32, .vmin .i8 1 2 3 1 true),
    (.v, 0b001000_000_00111_01000_00000_011_00000#32, .vabs .f32 7 8 3),
    (.v, 0b001001_000_00111_01000_00000_011_00000#32, .vneg .f32 7 8 3),
    (.v, 0b001010_000_00111_01000_00000_011_00000#32, .vexp2 .f32 7 8 3),
    (.v, 0b001011_000_00111_01000_00000_011_00000#32, .vlog2 .f32 7 8 3),
    (.v, 0b001100_000_00111_01000_00000_011_00000#32, .vrcp .f32 7 8 3),
    (.v, 0b001101_000_00111_01000_00000_011_00000#32, .vrsqrt .f32 7 8 3),
    (.v, 0b001110_000_00111_01000_00000_011_00000#32, .vsqrt .f32 7 8 3),
    (.v, 0b001111_001_00001_00010_00011_000_00000#32, .vdiv .bf16 1 2 3 0),
    (.v, 0b010000_101_00001_00010_00011_000_00000#32, .vand .i32 1 2 3 0),
    (.v, 0b010001_101_00001_00010_00011_000_00000#32, .vor .i32 1 2 3 0),
    (.v, 0b010010_101_00001_00010_00011_000_00000#32, .vxor .i32 1 2 3 0),
    (.v, 0b010011_110_00001_00010_00000_000_00000#32, .vnot .i16 1 2 0),
    (.v, 0b010100_101_00001_00010_00011_000_00000#32, .vshl .i32 1 2 3 0),
    (.v, 0b010100_101_00001_00010_11111_000_00001#32, .vshli .i32 1 2 31 0),
    (.v, 0b010101_101_00001_00010_00011_000_00000#32, .vshr .i32 1 2 3 0),
    (.v, 0b010101_101_00001_00010_11111_000_00001#32, .vshri .i32 1 2 31 0),
    (.v, 0b010110_101_00001_00010_00011_000_00000#32, .vsar .i32 1 2 3 0),
    (.v, 0b010110_101_00001_00010_11111_000_00001#32, .vsari .i32 1 2 31 0),
    (.v, 0b010111_000_00001_00010_00000_000_00000#32, .vrelu .f32 1 2 0),
    (.v, 0b010111_000_00001_00010_00011_000_00001#32, .vreluBwd .f32 1 2 3 0),
    (.v, 0b011000_111_00001_00010_00011_000_10_100#32, .vcmp .i8 1 2 3 0 2 .ltu)] = true := by decide +kernel

theorem test_decode_vector_moves : reads [
    (.v, 0b011001_011_00001_00010_00011_100_00000#32, .vsel .e4m3 1 2 3 4),
    (.v, 0b011010_011_00001_00010_00000_000_10_000#32, .vcvt .e4m3 1 2 0 2 .f32),
    (.v, 0b011011_000_00001_00010_00000_000_00001#32, .vround .f32 1 2 0 .rz),
    (.v, 0b011100_100_00110_00110_00000_000_00000#32, .vbcast .e5m2 6 6 0),
    (.v, 0b011101_111_00101_00010_00011_000_00001#32, .vmovs .i8 5 2 3 1),
    (.v, 0b011110_101_00001_00011_00000_000_00000#32, .viota .i32 1 3 0),
    (.v, 0b011111_010_00001_00010_00000_110_00000#32, .vmovv .f16 1 2 6),
    (.v, 0b100000_001_00001_00010_00011_000_00000#32, .vperm .bf16 1 2 3 0),
    (.v, 0b100001_000_00001_00010_00100_000_00001#32, .vslide .f32 1 2 4 0 true),
    (.v, 0b100010_000_01001_01010_00000_000_00011#32, .vred .f32 9 10 .argmax),
    (.v, 0b100011_100_00001_00010_00000_000_00000#32, .vclass .e5m2 1 2 0),
    (.v, 0b100100_000_00011_00100_00000_000_00100#32, .vqnt 3 4 4),
    (.v, 0b100101_000_00101_00011_00000_000_00010#32, .vdeq 5 3 2),
    (.v, 0b100110_000_00001_00010_00011_000_00000#32, .qand 1 2 3),
    (.v, 0b100110_000_00001_00010_00011_000_00001#32, .qor 1 2 3),
    (.v, 0b100110_000_00001_00010_00011_000_00010#32, .qxor 1 2 3),
    (.v, 0b100110_000_00001_00010_00011_000_00011#32, .qandn 1 2 3),
    (.v, 0b100110_000_00001_00010_00000_000_00100#32, .qnot 1 2),
    (.v, 0b100110_000_00001_00010_00000_000_00101#32, .qmov 1 2)] = true := by decide +kernel

theorem test_decode_tongs : reads [
    (.x, 0b000000_00100_00000_0000000000000000#32, .xpush 4),
    (.x, 0b000001_00101_00000_0000000000000000#32, .xpop 5),
    (.x, 0b000010_00000_00110_0000000000000010#32, .xst 6 2),
    (.x, 0b000011_00000_00000_0000000000000000#32, .xclr),
    (.x, 0b000100_00000_00000_0000000000000010#32, .xwid .w8)] = true := by decide +kernel

theorem test_decode_matrix_scale : reads [
    (.m, 0b000000_100_100_001_00100_00101_01_0_01_10#32, .mma .e2m1 .e2m1 1 4 5 1 false 1 2),
    (.m, 0b000000_010_001_111_00100_00101_11_1_00_00#32, .mma .e4m3 .f16 7 4 5 3 true 0 0),
    (.m, 0b000001_000_000_011_00000_00000_00_0_00_00#32, .mzero 3),
    (.m, 0b000010_000_000_010_00111_01001_00_0_00_00#32, .mrd 2 7 9),
    (.m, 0b000011_000_000_010_00111_01001_00_0_00_00#32, .mwr 2 7 9),
    (.m, 0b000100_011_000_000_00110_00000_10_0_00_00#32, .mst .e5m2 0 6 2),
    (.m, 0b000101_000_000_101_00000_00000_00_0_00_00#32, .mwait 5),
    (.m, 0b000110_000_000_001_00110_00000_10_1_00_00#32, .mld .f32 1 6 2),
    (.k, 0b000000_01_00111_00000010_00011111_000#32, .kld 1 7 2 31),
    (.k, 0b000001_00_01000_0000000000000000000#32, .kband 0 8),
    (.k, 0b000010_10_00000_0000000000000000000#32, .kclr 2)] = true := by decide +kernel

theorem test_decode_lines : reads [
    (.l, 0b000000_00010_00100_101_1111111110000#32, .vld 2 4 5 0x1FF0),
    (.l, 0b000001_00010_00100_101_1111111110000#32, .vst 2 4 5 0x1FF0),
    (.l, 0b000010_00011_00101_001_00110_00000000#32, .vlds 3 5 1 6),
    (.l, 0b000011_00011_00101_001_00110_00000000#32, .vsts 3 5 1 6),
    (.l, 0b000100_00011_00101_001_00110_00000000#32, .vgth 3 5 1 6),
    (.l, 0b000101_00011_00101_001_00110_00000000#32, .vsct 3 5 1 6),
    (.l, 0b000110_00001_00011_000_0000000000001#32, .vldh 1 3 0 1),
    (.l, 0b000111_00001_00011_000_0000000000001#32, .vsth 1 3 0 1),
    (.l, 0b001000_00001_00100_000_00110_000001_01#32, .kst 1 4 6 .relub .bf16),
    (.l, 0b001001_00101_00100_000_00011_000000_10#32, .vrelub 5 3 4 .f16),
    (.l, 0b001010_00101_00100_000_00011_000011_00#32, .vmaxpb 5 3 4 3 .f32),
    (.l, 0b001011_00110_00100_000_0000000000001#32, .vldk 6 4 1),
    (.l, 0b001100_00111_00100_000_0000000000011#32, .vdeqk 7 4 3)] = true := by decide +kernel

theorem test_decode_engines : reads [
    (.e, 0b000000_00000_00000_0000000000000001#32, .cbwait 0 1),
    (.e, 0b000000_11111_00100_0000000000000000#32, .cbwaitProbe 4),
    (.e, 0b000001_00000_00000_0000000000000010#32, .cbfree 0 2),
    (.e, 0b000010_00000_00000_0000000000000001#32, .cbadvc 0 1),
    (.e, 0b000011_00010_00000_0000000000000001#32, .cbadvp 2 1),
    (.e, 0b000100_00000_00101_0000000000000000#32, .cbstat 0 5),
    (.e, 0b000101_00_1_0_1_00000_0000000000001000#32, .qfence true false true 8),
    (.e, 0b000110_00000_00000_0000000000000000#32, .bar),
    (.e, 0b000111_00001_00110_00000101_0000_0011#32, .cred 1 6 5 3),
    (.e, 0b001000_0_0011_00111_0000000000000000#32, .wpwait 3 7)] = true := by decide +kernel


/-! ### Words that the spec prints -/

/-- The examples of 07, 08 and 09. -/
theorem test_words_of_the_reference : reads [
    (.sa, 0x00642C81, .div 3 4 5 true), (.sa, 0x206410C8, .extS 3 4 3 8), (.sa, 0x2D228064, .cmpi 2 .lt 5 100), (.sa, 0x30221800, .pand 1 2 3),
    (.sa, 0x50280007, .lpush 0 10 7), (.sa, 0x7D240000, .mscal 9 4 .bg), (.sa, 0x81440000, .msdefer 10 4), (.sa, 0x8874A800, .lnch 3 20 21),
    (.v, 0x00044300, .vadd .f32 1 2 3 0 false), (.v, 0x03044301, .vadd .i16 1 2 3 0 true), (.v, 0x0C90A640, .vfma .bf16 4 5 6 2),
    (.v, 0x18044300, .vmax .f32 1 2 3 0 false), (.v, 0x281D0000, .vexp2 .f32 7 8 0), (.v, 0x3C044300, .vdiv .f32 1 2 3 0), (.v, 0x42844300, .vand .i32 1 2 3 0),
    (.v, 0x52844501, .vshli .i32 1 2 5 0), (.v, 0x5C044301, .vreluBwd .f32 1 2 3 0), (.v, 0x60044302, .vcmp .f32 1 2 3 0 0 .lt), (.v, 0x64044380, .vsel .f32 1 2 3 4),
    (.v, 0x69844010, .vcvt .e4m3 1 2 0 2 .f32), (.v, 0x6C044001, .vround .f32 1 2 0 .rz), (.v, 0x7298C000, .vbcast .i32 6 6 0), (.v, 0x76944300, .vmovs .i32 5 2 3 0),
    (.v, 0x7A846000, .viota .i32 1 3 0), (.v, 0x80844300, .vperm .bf16 1 2 3 0), (.v, 0x84044401, .vslide .f32 1 2 4 0 true), (.v, 0x88254000, .vred .f32 9 10 .sum),
    (.v, 0x88254003, .vred .f32 9 10 .argmax), (.v, 0x8C044000, .vclass .f32 1 2 0), (.v, 0x900C8000, .vqnt 3 4 0), (.v, 0x94146002, .vdeq 5 3 2),
    (.v, 0x98044300, .qand 1 2 3), (.v, 0x98044004, .qnot 1 2), (.x, 0x00800000, .xpush 4), (.x, 0x04A00000, .xpop 5), (.x, 0x08060002, .xst 6 2), (.x, 0x0C000000, .xclr),
    (.x, 0x10000001, .xwid .w16), (.m, 0x00004280, .mma .bf16 .bf16 0 4 5 0 false 0 0), (.m, 0x00004290, .mma .bf16 .bf16 0 4 5 0 true 0 0),
    (.m, 0x024242A1, .mma .e2m1 .e2m1 1 4 5 1 false 0 1), (.m, 0x04060000, .mzero 3), (.m, 0x08047480, .mrd 2 7 9), (.m, 0x0C047480, .mwr 2 7 9), (.m, 0x140A0000, .mwait 5),
    (.m, 0x10006000, .mst .bf16 0 6 0), (.m, 0x10006010, .mst .f32 0 6 0), (.m, 0x18026050, .mld .f32 1 6 2), (.k, 0x013800F8, .kld 1 7 0 31), (.k, 0x04400000, .kband 0 8),
    (.k, 0x0A000000, .kclr 2)] = true := by decide +kernel

/-- The examples of 10. -/
theorem test_words_of_memory_and_engines : reads [
    (.l, 0x00240000, .vld 1 4 0 0), (.l, 0x04440010, .vst 2 4 0 16), (.l, 0x08650600, .vlds 3 5 0 6), (.l, 0x10850700, .vgth 4 5 0 7), (.l, 0x14850700, .vsct 4 5 0 7),
    (.l, 0x18400001, .vldh 2 0 0 1), (.l, 0x1C230000, .vsth 1 3 0 0), (.l, 0x20240604, .kst 1 4 6 .relub .f32), (.l, 0x24A40300, .vrelub 5 3 4 .f32),
    (.l, 0x28A4030C, .vmaxpb 5 3 4 3 .f32), (.l, 0x2CC40001, .vldk 6 4 1), (.l, 0x30E40000, .vdeqk 7 4 0), (.sb, 0xAC820000, .ldD 4 2 0),
    (.sb, 0xD0A45800, .ldAcq 5 4 .die .d 0), (.sb, 0xD4C47808, .stRel 6 4 .pkg .d 8), (.sb, 0xD864346A, .amo 3 4 6 .swap true .die true false),
    (.sb, 0xDC64306F, .cas 3 4 6 true .pkg true true), (.sb, 0xE0004000, .fence .die .acq), (.sb, 0xE0004800, .fence .die .rel), (.sb, 0xE0009000, .fence .sys .full),
    (.sb, 0xE4042800, .l1inv 4 5), (.sb, 0xE8000000, .l1inva), (.sb, 0xECC4000C, .probe 6 4 12), (.sb, 0xF1000003, .rdwp 8 3), (.e, 0x00000001, .cbwait 0 1),
    (.e, 0x04000002, .cbfree 0 2), (.e, 0x08000001, .cbadvc 0 1), (.e, 0x0C400001, .cbadvp 2 1), (.e, 0x10050000, .cbstat 0 5), (.e, 0x03E40000, .cbwaitProbe 4),
    (.e, 0x14200008, .qfence true false false 8), (.e, 0x18000000, .bar), (.e, 0x1C260500, .cred 1 6 5 0), (.e, 0x20670000, .wpwait 3 7)] = true := by decide +kernel

/-! ### Terms that are not well formed -/

/-- One term for each check of the format field (08 R174, R175, R184). -/
theorem test_format_checks : ([.vadd .e4m3 1 2 3 0 false, .vred .e5m2 1 2 .sum, .vfma .i32 1 2 3 0, .vround .i8 1 2 0 .rz, .vsqrt .f16 1 2 0, .vdiv .i32 1 2 3 0,
    .vand .f32 1 2 3 0, .viota .bf16 1 2 0, .vperm .i8 1 2 3 0, .vclass .i32 1 2 0, .vcmp .e4m3 1 2 3 0 0 .eq, .vcmp .f32 1 2 3 0 0 .ltu,
    .vcmp .i32 1 2 3 0 0 .un] : List Instr).all (fun i => !i.formatOk && !i.wellFormed) = true := by decide

/-- One term for each check of the other fields. -/
theorem test_field_checks : ([.ext 1 2 63 1, .extS 1 2 32 32, .ins 1 2 0x3F 0x3F, .cmpi 1 .bs 2 64, .cmpi 1 .bc 2 64, .br 0 true 1, .call 0 true 1, .rdsr 1 0x13, .wrsr 1 0x13,
    .vadd .f32 1 2 3 0 true, .vmax .bf16 1 2 3 0 true, .vshli .i16 1 2 16 0, .vsari .i8 1 2 8 0, .vcmp .f32 0 1 2 0 0 .eq, .vcmp .f32 1 1 2 0 1 .eq, .vcvt .f32 1 2 0 0 .f32,
    .vcvt .bf16 1 2 0 2 .f32, .vmovs .f32 1 2 0 4, .vqnt 1 2 5, .vdeq 1 2 5, .qand 0 1 2, .qnot 0 1, .mma .e2m1 .bf16 0 1 2 0 false 0 0, .mma .bf16 .bf16 0 1 2 0 false 1 0,
    .kld 0 1 255 1, .vmaxpb 1 2 3 0 .f32, .cbwait 31 0] : List Instr).all (fun i => i.formatOk && !i.fieldsOk && !i.wellFormed) = true := by decide

/-- Words that are no instruction's: by slot, by operation code, by reserved field, by value. -/
theorem test_words_refused : ([(.sb, 0b010000_001_1_0000000000000000000101), (.sa, 0b111111_00000000000000000000000000), (.v, 0b000000_000_00001_00010_00011_000_00001),
    (.e, 0b001001_00011_00000_0000000000000010), (.m, 0x04060001), (.k, 0x0A000001), (.x, 0x0C000001), (.l, 0x28A40300)] : List (Slot × SlotWord)).all
    (fun e => match decodeSlot e.1 e.2 with | .ok _ => false | .error _ => true) = true := by decide +kernel

/-! ### Words that are refused -/

def refusedAs (l : List (Slot × SlotWord × DecodeError)) : Bool :=
  l.all (fun e => match decodeSlot e.1 e.2.1 with | .ok _ => false | .error x => x == e.2.2)
/-- 07 R145 to R149: imm[13:6] of a shift, a of `li`, pos + len above 64, imm[15:13], SG of `ins`; the fields of `cmpi.bs`,
`plog`, `rdp` and `wrp`; function 5 of `plog`. -/
theorem witness_ImmediateFieldsReserved : refusedAs [(.sa, 0x14640040, .reserved), (.sb, 0x18A1F200, .reserved), (.sa, 0x20641FC1, .reserved),
    (.sb, 0x20642000, .reserved), (.sa, 0x24641000, .reserved)] = true := by decide +kernel
theorem witness_PredicateFieldsReserved : refusedAs [(.sa, 0x2D628040, .reserved), (.sb, 0x30221940, .unassigned), (.sa, 0x31021800, .reserved), (.sb, 0x30221801, .reserved),
    (.sa, 0x30220900, .reserved), (.sb, 0x34610000, .reserved), (.sa, 0x38240000, .reserved)] = true := by decide +kernel
theorem witness_TrapFieldsReserved : refusedAs [(.sa, 0x64010007, .reserved), (.sa, 0x6C200007, .reserved)] = true := by decide +kernel
/-- 08 R182, R183: an amount of 16 in a 16-bit format; b of the forward form. -/
theorem witness_ShiftFieldsReserved : refusedAs [(.v, 0x53045001, .reserved), (.v, 0x5C044300, .reserved)] = true := by decide +kernel
theorem witness_MoveFieldsReserved : refusedAs [(.v, 0x76944004, .reserved), (.v, 0x84044402, .reserved), (.v, 0x98044306, .unassigned), (.v, 0x98044320, .reserved),
    (.v, 0x98044304, .reserved), (.v, 0x98844300, .unassigned)] = true := by decide +kernel

/-- A bundle whose one word, for SA, is refused: `li` with a nonzero a. -/
def refusedBundle : State :=
  { dev (fun c => { c with ibuf := [{ vline := 0, pline := 0, data := 0x18A1F20020000000, user := true }] }) with
    mem := memWriteLine [] 0 0x18A1F20020000000 (BitVec.allOnes 64) }
theorem witness_RefusedWordsTrap : (refusedBundle.mayAttempt 0 = true ∧ refusedBundle.ctx.slot = 0 ∧ refusedBundle.ctx.inIssue = none
    ∧ (∀ n, n < 8 → getB (vget 0 refusedBundle.ctx.bps n) 63 = false) ∧ refusedBundle.noRoom = false ∧ refusedBundle.ctx.step = false)
    ∧ refusedBundle.fetchBundle 0 0 = .ok { divBundle with words := [(0, 0x18A1F200)] } ∧ decodeSlot .sa 0x18A1F200 = .error .reserved
    ∧ OwnHandler refusedBundle :=
  ⟨by decide +kernel, isBundle_eq _ _ (by decide +kernel), by rfl, by unfold OwnHandler; decide +kernel⟩
/-- The same word in a bundle of the dictionary. -/
def refusedEntry : State := { header8 0x40000000 with ctxs := [(0, { (header8 0x40000000).ctx with dict := [(0, BitVec.ofNat 512 (2 ^ 29 + 0x18A1F200 * 2 ^ 32 + 2 ^ 480))] })] }
theorem witness_RefusedWordsTrap_dictionary : (refusedEntry.mayAttempt 0 = true ∧ refusedEntry.ctx.slot = 0 ∧ refusedEntry.ctx.inIssue = none
    ∧ (∀ n, n < 8 → getB (vget 0 refusedEntry.ctx.bps n) 63 = false) ∧ refusedEntry.noRoom = false ∧ refusedEntry.ctx.step = false)
    ∧ refusedEntry.fetchBundle 0 0 = .ok { pc := 0, first := 0x40000000, hdr := 0x20000000, words := [(0, 0x18A1F200)], len := 2 } ∧ OwnHandler refusedEntry :=
  ⟨by decide +kernel, isBundle_eq _ _ (by decide +kernel), by unfold OwnHandler; decide +kernel⟩
theorem witness_ControlAndFloatFormsComplete : (super id).issue.user = false ∧ (super id).flagsPending = false ∧ ((0x9 : BitVec 16) ≠ 0x8)
    ∧ (dev id).ctx.engineWaits = false ∧ (dev id).ctx.probeSlots ≠ 0 ∧ (dev id).ctx.chanLoad 15 < 16 ∧ Fmt.f32.isFL = true := by decide +kernel

/-! ### Single steps -/

/-- A device whose context has s4, s5, s6, s7 and v2, v3, v4. -/
def machine (s4 s5 : Word) (v2 v3 v4 : VWord) : State :=
  dev (fun c => { c with regs := { RegFile.zero with s := #v[0, 0, 0, 0, s4, s5, 7, 0, 0, 0, 0, 0, 0, 0, 0, 0, 0, 0, 0, 0, 0, 0, 0, 0, 0, 0, 0, 0, 0, 0, 0, 0], v := (RegFile.zero.v.set 2 v2).set 3 v3 |>.set 4 v4 } })
/-- S[3] after each instruction. -/
def scalars (s4 s5 : Word) (l : List (Instr × Word)) : Bool :=
  l.all (fun e => (after (machine s4 s5 0 0 0) e.1).ctx.regs.getS 3 == e.2)
def vec (w : Nat) (l : List Nat) : VWord := BitVec.ofNat 4096 (ofElems w l)
/-- The first elements of V[1] after an instruction, and FFLAGS once they are readable. -/
def lanes (s : State) (i : Instr) (w : Nat) (l : List Nat) (flags : BitVec 5) : Bool :=
  (List.range l.length).all (fun k => elem ((after s i).ctx.regs.getV 1) w k == (l[k]?).getD 0) && (after s i).ctx.fflagsAt (s.ptime + 20) == flags
def floats (v2 v3 : List Nat) (i : Instr) (l : List Nat) (flags : BitVec 5) : Bool := lanes (machine 0 0 (vec 32 v2) (vec 32 v3) 0) i 32 l flags

/-- 07 R143: wrap, sign extension of the 32-bit forms, shift amounts modulo the width; the example of `div.w`. -/
theorem test_scalar_alu : scalars 0xFFFFFFFF80000000 (-1) [(.div 3 4 5 true, 0xFFFFFFFF80000000), (.add 3 4 5 true, 0x7FFFFFFF), (.sub 3 5 4 false, 0x7FFFFFFF),
    (.mulhu 3 5 5 false, 0xFFFFFFFFFFFFFFFE), (.mulh 3 5 5 false, 0), (.shl 3 6 5 true, 0xFFFFFFFF80000000), (.sar 3 4 6 false, 0xFFFFFFFFFF000000),
    (.shr 3 4 6 true, 0x1000000), (.min 3 4 6 false, 0xFFFFFFFF80000000), (.minu 3 4 6 false, 7), (.rem 3 4 6 false, 0xFFFFFFFFFFFFFFFE), (.divu 3 6 4 false, 0),
    (.clz 3 6 true, 29), (.ctz 3 0 false, 64), (.popc 3 4 true, 1), (.andn 3 5 6 false, 0xFFFFFFFFFFFFFFF8), (.rotl 3 6 6 false, 0x380)] = true := by decide +kernel
/-- 07 R145, R146: immediates and fields; the example of `ext.s`. -/
theorem test_scalar_immediates : scalars 0xA50 0xFFFF [(.extS 3 4 3 8, -6), (.ext 3 4 3 8, 0xA), (.addi 3 4 0xFFFF, 0xA4F), (.andi 3 5 0xFFFF, 0xFFFF), (.xori 3 4 0xFFFF, 0xF5AF),
    (.li 3 0x8000, 0xFFFFFFFFFFFF8000), (.lsh 3 4 0x8001, 0xA508001), (.sari 3 4 4, 0xA5), (.rotli 3 5 63, 0x8000000000007FFF), (.ins 3 5 3 8, 0xF00)] = true := by decide +kernel
/-- 24 R381: a read of a struck doubleword of the window takes uncorrectable-memory in class A (10 R221); a store over it ends the error. -/
theorem test_soft_error : (after struck (.ldW 3 2 4)).ctx.tcause = 0x019 ∧ (after struck (.ldW 3 2 8)).ctx.tcause = 0
    ∧ (after (after struck (.stD 3 2 0)) (.ldW 3 2 4)).ctx.tcause = 0 ∧ (after (after struck (.stW 3 2 0)) (.ldW 3 2 4)).ctx.tcause = 0x019 := by decide +kernel
/-- 07 R144: a zero divisor takes divide-by-zero; 07 R161: what the entry saves. -/
theorem test_divide_by_zero : (after (machine 1 0 0 0 0) (.div 3 4 5 false)).ctx.tcause = 0x01F ∧ (after (machine 1 0 0 0 0) (.div 3 4 5 false)).ctx.priv = true
    ∧ (after (machine 1 0 0 0 0) (.div 3 4 5 false)).ctx.te = false ∧ (after (machine 1 0 0 0 0) (.div 3 4 5 false)).ctx.pc = 0x100 := by decide +kernel
/-- 07 R147 to R149: conditions and predicates; p0 stays true. -/
theorem test_predicates : ([(.cmpi 2 .lt 4 5, true), (.cmp 2 .ltu 5 4, false), (.cmp 2 .lt 5 4, true), (.cmpi 2 .bs 4 1, false), (.cmpi 2 .bc 4 1, true), (.pnot 2 0, false),
    (.pxor 2 0 1, true)] : List (Instr × Bool)).all (fun e => (after (machine 4 (-1) 0 0 0) e.1).ctx.regs.getP 2 == e.2) = true
    ∧ (after (machine 4 0 0 0 0) (.pnot 0 0)).rP 0 = true := by decide +kernel
/-- 07 R150, R154, R158, R160: a transfer, a push, a pause, a trap. -/
theorem test_control : (after (atWord8 id) (.br 0 false 0x3FFFFF)).ctx.delay = some ⟨2, true, 11⟩ ∧ (after (atWord8 id) (.br 1 false 4)).ctx.delay = some ⟨2, false, 16⟩
    ∧ (after (atWord8 id) (.call 1 false 4)).ctx.regs.getS 31 = 0 ∧ (after (atWord8 id) (.lpush 0 3 4)).ctx.loops = [⟨10, 14, 64, 0, false, false⟩]
    ∧ (after (atWord8 id) (.trap 5)).ctx.tcause = 0x01D ∧ (after (atWord8 id) (.trap 5)).ctx.tval = 5 ∧ (after (atWord8 id) (.rett)).ctx.tcause = 0x008 := by decide +kernel
/-- 10 R230, R231, R234 and 02 R38: loads, stores and atomics of the range and of the window. -/
def filled : State := { dev id with mem := [(0x10000, 0x80), (0x10001, 0xFF)] }
theorem test_memory : (after filled (.ldB 3 1 0)).ctx.regs.getS 3 = 0xFFFFFFFFFFFFFF80 ∧ (after filled (.ldHu 3 1 0)).ctx.regs.getS 3 = 0xFF80
    ∧ memByte ((after filled (.stW 3 2 4)).coreAt 0).scratch 4 = 64
    ∧ ((after filled (.stD 3 1 8)).ctx.stores.map (fun t => (t.kind, t.mask, t.gated))) = [(.line 0x400 false, 0xFF00, true)] := by decide +kernel
theorem test_atomics : (after filled (.amo 3 1 4 .add false .die false false)).ctx.regs.getS 3 = 0xFF80 ∧ memNat (after filled (.amo 3 1 4 .add false .die false false)).mem 0x10000 4 = 0xFF81
    ∧ memNat (after filled (.cas 0 1 4 false .die false false)).mem 0x10000 4 = 0xFF80 ∧ ((after (after filled (.ldB 3 1 1)) .l1inva).coreAt 0).l1 = [] := by decide +kernel
/-- 10 R233: a misaligned address. -/
theorem test_misaligned : (after (dev id) (.ldW 3 10 0)).ctx.tcause = 0x009 ∧ (after (dev id) (.ldW 3 10 0)).ctx.tval = 0x100000001 := by decide +kernel

/-- 03 R66, R74, R78 and the examples of 08: `vexp2` of 3.0 is 8.0 exactly, `vlog2` of 10.0 is inexact, extremes of zeros and NaNs. -/
theorem test_floats_exp : floats [0x40400000] [] (.vexp2 .f32 1 2 0) [0x41000000] 0 = true ∧ floats [0x41200000] [] (.vlog2 .f32 1 2 0) [0x40549A78, 0xFF800000] 0x09 = true := by decide +kernel
theorem test_floats_max : floats [0x80000000, 0x7FC00001] [0, 0x3F800000] (.vmax .f32 1 2 3 0 false) [0, 0x7FC00000] 0 = true
    ∧ floats [0x80000000] [0] (.vmin .f32 1 2 3 0 false) [0x80000000] 0 = true := by decide +kernel
/-- 1 + 2^−24 is a tie that goes to 1; the largest number and its half overflow; 1 / 0. -/
theorem test_floats_arithmetic : floats [0x3F800000] [0x33800000] (.vadd .f32 1 2 3 0 false) [0x3F800000] 0x01 = true
    ∧ floats [0x7F7FFFFF] [0x7F7FFFFF] (.vadd .f32 1 2 3 0 false) [0x7F800000] 0x05 = true
    ∧ floats [0x3F800000] [] (.vdiv .f32 1 2 3 2) [0] 0 = true ∧ floats [0x40000000] [0x40400000] (.vmul .f32 1 2 3 0) [0x40C00000] 0 = true := by decide +kernel
/-- The example of `vrelu.bwd`, of `vround` and of `vclass`. -/
theorem test_floats_gradient : floats [0x00000001, 0x80000000, 0x7FC00000] [0x40A00000, 0x40A00000, 0x40A00000] (.vreluBwd .f32 1 2 3 0) [0x40A00000, 0, 0] 0 = true
    ∧ floats [0xC02CCCCD] [] (.vround .f32 1 2 0 .rz) [0xC0000000] 0x01 = true ∧ floats [0x80000001] [] (.vclass .f32 1 2 0) [2] 0 = true := by decide +kernel
/-- The example of `vcvt.e4m3.f32 v1, v2, 2`: bytes 256 to 260. -/
theorem test_convert : (let t := after (machine 0 0 (vec 32 [0x3F800000, 0x43FA0000, 0xBDCCCCCD, 0x7FC00000, 0x3A800000]) 0 0) (.vcvt .e4m3 1 2 0 2 .f32)
    (List.range 5).map (fun k => elem (t.ctx.regs.getV 1) 8 (256 + k)) == [0x38, 0x7E, 0x9D, 0x7F, 0x00] && t.ctx.fflagsAt 6000 == 0x07) = true := by decide +kernel
/-- The tree of `vred.sum`: 1 + 3 × 2^−24 gives 1 + 2^−23 (03 R76). -/
theorem test_tree_sum : elem ((after (machine 0 0 (vec 32 [0x3F800000, 0x33800000, 0x33800000, 0x33800000]) 0 0) (.vred .f32 1 2 .sum)).ctx.regs.getV 1) 32 0 = 0x3F800001 := by decide +kernel
/-- The block of 03 R70: codes, block scale, band scale. -/
theorem test_quantize : (let v := (after (machine 0 0 (vec 32 [0x40400000, 0xBF800000, 0x3E800000, 0, 0x40B00000, 0xC0C80000, 0x3D800000, 0x3FC00000]) 0 0) (.vqnt 1 2 0)).ctx.regs.getV 1
    (List.range 5).map (fun k => elem v 8 k) == [0xA5, 0x00, 0xF7, 0x30, 0x00] && elem v 8 64 == 0xDE && elem v 16 40 == 0x3D8A) = true := by decide +kernel
/-- Its decoded values 3.13330078125 and −6.2666015625. -/
theorem test_dequantize : (let v := (after (machine 0 0 (BitVec.ofNat 4096 (0x30F700A5 + 0xDE * 2 ^ 512 + 0x3D8A * 2 ^ 640)) 0 0) (.vdeq 1 2 0)).ctx.regs.getV 1
    elem v 32 0 == 0x40488800 && elem v 32 5 == 0xC0C88800) = true := by decide +kernel
/-- 08 R176: `vadd.i16.sat` of 30,000 and 10,000; a masked element stays. -/
theorem test_integers : lanes (machine 0 0 (vec 16 [30000, 0x8000]) (vec 16 [10000, 0xFFFF]) 0) (.vadd .i16 1 2 3 0 true) 16 [32767, 0x8000] 0 = true
    ∧ lanes (machine 10 0 0 0 0) (.viota .i32 1 4 0) 32 [10, 11, 12] 0 = true ∧ lanes (machine 10 0 (vec 32 [5]) 0 0) (.vadd .i32 1 2 2 3 false) 32 [0] 0 = true := by decide +kernel
/-- The reversal of `vperm` and a slide. -/
theorem test_moves : lanes (machine 2 0 (vec 32 [9, 8, 7]) (vec 32 [2, 1, 0, 200]) 0) (.vperm .i32 1 2 3 0) 32 [7, 8, 9, 0] 0 = true
    ∧ lanes (machine 2 0 (vec 32 [9, 8, 7]) 0 0) (.vslide .i32 1 2 4 0 true) 32 [0, 0, 9, 8] 0 = true
    ∧ (after (machine 0 0 (vec 32 [0, 0, 0, 0xFFFFFFFE]) 0 0) (.vmovs .i32 3 2 3 0)).ctx.regs.getS 3 = 0xFFFFFFFFFFFFFFFE := by decide +kernel
theorem test_compare : ((after (machine 0 0 (vec 32 [1, 0xFFFFFFFF]) (vec 32 [2, 1]) 0) (.vcmp .i32 1 2 3 0 0 .ltu)).ctx.regs.getQ 1).getLsbD 0 = true
    ∧ ((after (machine 0 0 (vec 32 [1, 0xFFFFFFFF]) (vec 32 [2, 1]) 0) (.vcmp .i32 1 2 3 0 0 .ltu)).ctx.regs.getQ 1).getLsbD 1 = false := by decide +kernel

/-- 02 R46: the example address. -/
theorem test_address : homeDie 0x2541E18240 = 1 ∧ pchOf 0x2541E18240 = 2 * 64 + 26 * 2 + 0 ∧ bgOf 0x2541E18240 = 4 ∧ bankOf 0x2541E18240 = 0 ∧ rowOf 0x2541E18240 = 1 := by decide +kernel
/-- 05 R102: the example header. -/
theorem test_header : (header 2 2 0 1 256 64 4 0 0 0 64).extractLsb' 0 64 = 0x0001040011001082#64 ∧ payloadLen 2 128 4 = 32 ∧ payloadLen 3 128 0 = 82 ∧ payloadLen 4 128 0 = 256 := by decide +kernel
/-- 01 R9, R10: block 250 of the example goes to core 50 of die 3's slice, cluster 1, core 2; block 0 to die 1. -/
def sliced : Part := { Part.reset with cl := 0x03000300 }
def example400 : LRec := { LRec.plain 0 with nlev := 2, lt := [⟨2, 0, false, false, 0⟩, ⟨200, 1, false, false, 0⟩] }
theorem test_placement : (sliced.place example400 250).map (fun x => x.core) = some (3 * 384 + 48 + 2) ∧ (sliced.place example400 346).map (fun x => x.core) = some (3 * 384 + 48 + 2)
    ∧ (sliced.place example400 0).map (fun x => x.core) = some 384 := by decide +kernel
/-- 18 R300: the lookahead of identities, 05 CRC-32C of the nine digits. -/
theorem test_crc : crc32c [0x31, 0x32, 0x33, 0x34, 0x35, 0x36, 0x37, 0x38, 0x39] = 0xE3069283 ∧ nextLid 0xFFFFFFFF = 1 := by decide +kernel
/-- The first step after reset with a word placed as its instruction. -/
theorem test_step_runs_placed_word : (match step (State.reset.withFetchWord 32 0x0C630005) with | .next t => (t.ctxAt 0).pc == 2 && t.issueQ == [] | _ => false) = true := by decide +kernel

end Sys2Proof.Tests
end

section
/-! What the host writes to device registers and what it asks of a major slot (18 R299 to R315; 21 R358; 24 R374, R376). -/

namespace Sys2Proof.Proofs

open Sys2Proof.Machine Sys2Proof.Safety

/-! ### Answers and frames -/

theorem onlyPart_modPartAt (s : State) (p : Nat) (f : Part → Part) : OnlyPart s (s.modPartAt p f) p :=
  ⟨rfl, fun _ h => tget_tset_other _ _ _ h⟩

theorem onlyCtx_modCtxAt (s : State) (i : Nat) (f : Ctx → Ctx) : OnlyCtx s (s.modCtxAt i f) i :=
  ⟨fun _ h => State.ctxAt_modCtxAt_other s f h, rfl, fun _ => rfl⟩

/-- An answer that updates the package changes nothing else. -/
theorem next_modPkg {o : Out} {s : State} {f : Package → Package} {P : Package → Prop}
    (ho : o = .next (s.modPkg f)) (h : P (f s.pkg)) : Next o (fun t => OnlyPkg s t ∧ P t.pkg) :=
  ⟨_, ho, rfl, h⟩

theorem next_modPkg_eq {o : Out} {s : State} {f : Package → Package} {k : Package}
    (ho : o = .next (s.modPkg f)) (h : f s.pkg = k) : Next o (fun t => OnlyPkg s t ∧ t.pkg = k) :=
  next_modPkg (P := fun x => x = k) ho h

/-- An answer that updates one partition changes nothing else. -/
theorem next_modPartAt {o : Out} {s : State} {p : Nat} {f : Part → Part} {P : Part → Prop}
    (ho : o = .next (s.modPartAt p f)) (h : P (f (s.partAt p))) : Next o (fun t => OnlyPart s t p ∧ P (t.partAt p)) :=
  ⟨_, ho, onlyPart_modPartAt s p f, (State.partAt_modPartAt s p f).symm ▸ h⟩

theorem next_modPartAt_eq {o : Out} {s : State} {p : Nat} {f : Part → Part} {d : Part}
    (ho : o = .next (s.modPartAt p f)) (h : f (s.partAt p) = d) : Next o (fun t => OnlyPart s t p ∧ t.partAt p = d) :=
  next_modPartAt (P := fun x => x = d) ho h

/-- An answer that updates one context changes nothing else. -/
theorem next_modCtxAt {o : Out} {s : State} {i : Nat} {f : Ctx → Ctx} {P : Ctx → Prop}
    (ho : o = .next (s.modCtxAt i f)) (h : P (f (s.ctxAt i))) : Next o (fun t => OnlyCtx s t i ∧ P (t.ctxAt i)) :=
  ⟨_, ho, onlyCtx_modCtxAt s i f, (State.ctxAt_modCtxAt s i f).symm ▸ h⟩

theorem serves_iff (s : State) (p : Nat) : s.serves p = true ↔ s.pkg.dev = .ready ∧ p < 16 := by simp [State.serves]

theorem powered_iff (s : State) : s.powered = true ↔ s.pkg.dev ≠ .off ∧ s.pkg.dev ≠ .safe := by simp [State.powered]

@[simp] theorem queueAt_modQueueAt (d : Part) (q : Nat) (f : Queue → Queue) :
    (d.modQueueAt q f).queueAt q = f (d.queueAt q) := tget_tset_same ..

theorem vget_vset {α : Type} {n : Nat} (d : α) (v : Vector α n) (a : α) {i j : Nat} (hj : j < n) :
    vget d (vset v i a) j = if j = i then a else vget d v j := by
  unfold vget vset
  by_cases hi : i < n
  · simp [hi, hj, Vector.getElem_set, eq_comm]
  · have : j ≠ i := by omega
    simp [hi, hj, this]

/-! ### Fields of a doubleword -/

theorem getF_eq {n : Nat} (x : BitVec n) (lo len : Nat) : getF x lo len = x.toNat / 2 ^ lo % 2 ^ len := by
  simp [getF, Nat.shiftRight_eq_div_pow]

theorem getF_low {n : Nat} (x : BitVec n) (len : Nat) : getF x 0 len = x.toNat % 2 ^ len := by
  rw [getF_eq, Nat.pow_zero, Nat.div_one]

/-- The highest field of a word needs no remainder. -/
theorem getF_top {n : Nat} (x : BitVec n) {lo len : Nat} (h : n = lo + len) : getF x lo len = x.toNat / 2 ^ lo := by
  have hx : x.toNat < 2 ^ lo * 2 ^ len := by rw [← Nat.pow_add, ← h]; exact x.isLt
  rw [getF_eq, Nat.mod_eq_of_lt (Nat.div_lt_of_lt_mul hx)]

theorem setF_zero {n : Nat} (x : BitVec n) (lo len : Nat) :
    setF x lo len 0 = x &&& ~~~(BitVec.ofNat n (2 ^ len - 1) <<< lo) := by
  simp [setF]

theorem baseOf_eq (v : Word) (k : Nat) : baseOf v k = BitVec.ofNat 64 (v.toNat / 2 ^ k * 2 ^ k) := by
  apply BitVec.eq_of_getLsbD_eq
  intro i hi
  have hlow : (2 ^ k - 1).testBit i = decide (i < k) := Nat.testBit_two_pow_sub_one ..
  rw [baseOf, setF_zero, BitVec.shiftLeft_zero, BitVec.getLsbD_and, BitVec.getLsbD_not, BitVec.getLsbD_ofNat,
    BitVec.getLsbD_ofNat, Nat.testBit_mul_two_pow, Nat.testBit_div_two_pow, hlow, BitVec.testBit_toNat]
  by_cases h : k ≤ i
  · simp [hi, h, Nat.not_lt.mpr h, Nat.sub_add_cancel h]
  · simp [hi, h, Nat.not_le.mp h]

/-! ### What each request takes down -/

section Requests
variable {s : State} {v : Word} {op l p r : Nat}

theorem linkCommand_unpowered (hp : s.powered = false) : s.linkCommand op l = s := by
  simp [State.linkCommand, hp]

theorem linkCommand_taken (hp : s.powered = true) (hd : getB s.pkg.duty 3 = true) (hb : s.pkg.link.busy = false)
    (hl : l < 12) : s.linkCommand op l
      = s.modPkg (fun k => { k with link := { busy := true, err := false, arg := BitVec.ofNat 64 (op * 16 + l) } }) := by
  simp [State.linkCommand, hp, hd, hb, Nat.not_le.mpr hl]

theorem linkCommand_refused (hp : s.powered = true) (hd : getB s.pkg.duty 3 = true) (hb : s.pkg.link.busy = false)
    (hl : 12 ≤ l) : s.linkCommand op l = s.modPkg (fun k => { k with link := { k.link with err := true } }) := by
  simp [State.linkCommand, hp, hd, hb, hl]

theorem repcmd_unpowered (hp : s.powered = false) : exec (.repcmd v) s = .next s := by simp [exec, execRepcmd, hp]

theorem repcmd_taken (hp : s.powered = true) (hd : getB s.pkg.duty 4 = true) (hb : s.pkg.rep.busy = false)
    (hr : getF v 0 32 = r) (hc : r ∈ s.pkg.candidates) (hs : s.pkg.sparesLeft (rowStack r) ≠ 0) :
    exec (.repcmd v) s
      = .next (s.modPkg (fun k => { k with rep := { busy := true, err := false, arg := BitVec.ofNat 64 r } })) := by
  simp [exec, execRepcmd, hp, hd, hb, hr, hc, hs]

theorem repcmd_refused (hp : s.powered = true) (hd : getB s.pkg.duty 4 = true) (hb : s.pkg.rep.busy = false)
    (hr : getF v 0 32 = r) (h : r ∉ s.pkg.candidates ∨ s.pkg.sparesLeft (rowStack r) = 0) :
    exec (.repcmd v) s
      = .next (s.modPkg (fun k => { k with rep := { k.rep with err := true, arg := BitVec.ofNat 64 r } })) := by
  simp [exec, execRepcmd, hp, hd, hb, hr, h]

theorem svcreq_unrequested (hs : s.serves p = true) (hq : getB v 63 = false) :
    exec (.svcreq p v) s = .next (s.modPartAt p (fun d => { d with svcMode := getF v 0 2 })) := by
  simp [exec, execSvcreq, hs, hq]

theorem svcreq_refused (hs : s.serves p = true) (hq : getB v 63 = true) (hm : getF v 0 2 = 1) :
    exec (.svcreq p v) s = .next (s.modPartAt p (fun d => { d with svcMode := getF v 0 2, svcErr := true })) := by
  simp [exec, execSvcreq, hs, hq, hm]

theorem svcreq_taken (hs : s.serves p = true) (hq : getB v 63 = true) (hm : getF v 0 2 ≠ 1) :
    exec (.svcreq p v) s = .next (s.modPartAt p (fun d =>
      { d with svcMode := getF v 0 2, svcErr := false, svcReq := true, svcWant := getF v 0 2 })) := by
  simp [exec, execSvcreq, hs, hq, hm]

theorem retire_unpowered (hp : s.powered = false) : exec (.retire v) s = .next s := by simp [exec, execRetire, hp]

theorem retire_unrequested (hp : s.powered = true) (hq : getB v 63 = false) :
    exec (.retire v) s = .next (s.modPkg (fun k => { k with retirePch := getF v 0 9 })) := by
  simp [exec, execRetire, hp, hq]

theorem retire_refused (hp : s.powered = true) (hq : getB v 63 = true) (hr : getF v 0 9 ∈ s.pkg.retired) :
    exec (.retire v) s = .next (s.modPkg (fun k => { k with retirePch := getF v 0 9, retireErr := true })) := by
  simp [exec, execRetire, hp, hq, hr, State.modPkg]

theorem retire_taken (hp : s.powered = true) (hq : getB v 63 = true) (hr : getF v 0 9 ∉ s.pkg.retired) :
    exec (.retire v) s = .next (s.modPkg (fun k =>
      { k with retirePch := getF v 0 9, retireErr := false,
               retireReq := if getF v 0 9 ∈ k.retireReq then k.retireReq else k.retireReq ++ [getF v 0 9] })) := by
  simp [exec, execRetire, hp, hq, hr, State.modPkg]

theorem dutySplit_unpowered (hp : s.powered = false) : exec (.dutySplit v) s = .next s := by
  simp [exec, execDutySplit, hp]

theorem dutySplit_taken (hp : s.powered = true) :
    exec (.dutySplit v) s = .next (s.modPkg (fun k => { k with dutyNew := some (v.setWidth 6) })) := by
  simp [exec, execDutySplit, hp]

end Requests

/-- Each of the three link commands waits for the next major slot, or is refused with ERR. -/
theorem next_linkCommand {s : State} {i : Instr} {op l : Nat} (hi : exec i s = .next (s.linkCommand op l))
    (hp : s.powered = true) :
    (getB s.pkg.duty 3 = true → s.pkg.link.busy = false → l < 12 → Next (exec i s) (fun t => OnlyPkg s t
        ∧ t.pkg = { s.pkg with link := { busy := true, err := false, arg := BitVec.ofNat 64 (op * 16 + l) } }))
      ∧ (getB s.pkg.duty 3 = true → s.pkg.link.busy = false → 12 ≤ l → Next (exec i s) (fun t => OnlyPkg s t
        ∧ t.pkg = { s.pkg with link := { s.pkg.link with err := true } })) :=
  ⟨fun hd hb hl => next_modPkg_eq (hi.trans (congrArg _ (linkCommand_taken hp hd hb hl))) rfl,
    fun hd hb hl => next_modPkg_eq (hi.trans (congrArg _ (linkCommand_refused hp hd hb hl))) rfl⟩

theorem requestsForTheMajorSlot : Parts.RequestsForTheMajorSlot := by
  intro s l p v k row pch mode link
  have hrow : getF v 0 32 = row := getF_low v 32
  have hpch : getF v 0 9 = pch := getF_low v 9
  have hmode : getF v 0 2 = mode := getF_low v 2
  refine ⟨fun hp => ?unpowered, fun hp => ⟨next_linkCommand rfl hp, next_linkCommand rfl hp, next_linkCommand rfl hp,
    fun hd hb hc hs => ?repair, fun hd hb h => ?noRepair, fun hr hl => ?service, fun hq hn => ?retire,
    fun hq hn => ?noRetire, fun hq => ?channel, ?duty⟩⟩
  case unpowered =>
    have hlink (op : Nat) : Host.Outcome.next (s.linkCommand op l) = (.next s : Out) :=
      congrArg _ (linkCommand_unpowered hp)
    simp only [List.forall_mem_cons, List.not_mem_nil, false_implies, implies_true, and_true]
    exact ⟨hlink 1, hlink 2, hlink 3, repcmd_unpowered hp, retire_unpowered hp, dutySplit_unpowered hp⟩
  case repair => exact next_modPkg_eq (repcmd_taken hp hd hb hrow hc hs) rfl
  case noRepair =>
    exact next_modPkg (P := fun k => k.rep.err = true ∧ k.rep.busy = false) (repcmd_refused hp hd hb hrow h) ⟨rfl, hb⟩
  case service =>
    have hs : s.serves p = true := (serves_iff s p).mpr ⟨hr, hl⟩
    rw [← hmode]
    exact ⟨fun hq hm => next_modPartAt_eq (svcreq_taken hs hq hm) rfl,
      fun hq hm => next_modPartAt_eq (svcreq_refused hs hq hm) rfl,
      fun hq => next_modPartAt_eq (svcreq_unrequested hs hq) rfl⟩
  case retire => rw [← hpch] at hn ⊢; exact next_modPkg_eq (retire_taken hp hq hn) rfl
  case noRetire => rw [← hpch] at hn ⊢; exact next_modPkg_eq (retire_refused hp hq hn) rfl
  case channel => rw [← hpch]; exact next_modPkg_eq (retire_unrequested hp hq) rfl
  case duty => exact next_modPkg_eq (dutySplit_taken hp) rfl

/-! ### Which part of the state a register write updates -/

section Writes
variable {s : State} {v : Word} {p off : Nat}

theorem registerWrite_vf (hs : s.serves p = true) :
    exec (.registerWrite (.vf p off) v) s = .next (s.modPartAt p (·.putReg (off / 8 * 8) v)) := by
  have hd : s.pkg.dev = .ready := ((serves_iff s p).mp hs).1
  simp [exec, execRegisterWrite, hd, hs]

theorem registerWrite_vf_unready (hd : s.pkg.dev ≠ .ready) : exec (.registerWrite (.vf p off) v) s = .next s := by
  simp [exec, execRegisterWrite, State.serves, hd]

theorem registerWrite_pf (hd : s.pkg.dev ≠ .off) (ho : off / 8 * 8 ≠ 0x3800) :
    exec (.registerWrite (.pf off) v) s = .next (s.modPkg (·.putReg (off / 8 * 8) v)) := by
  simp [exec, execRegisterWrite, hd, ho]

theorem registerWrite_window (hd : s.pkg.dev = .ready) :
    exec (.registerWrite (.window off) v) s = .next (s.putWindow (off / 8 * 8) v) := by
  simp [exec, execRegisterWrite, hd]

theorem registerWrite_window_unready (hd : s.pkg.dev ≠ .ready) : exec (.registerWrite (.window off) v) s = .next s := by
  simp [exec, execRegisterWrite, hd]

theorem registerWrite_numVFs (hp : s.powered = true) :
    exec (.registerWrite .numVFs v) s = .next (s.modPkg (fun k => { k with numVFs := v.toNat % 2 ^ 16 })) := by
  have hd : s.pkg.dev ≠ .off := ((powered_iff s).mp hp).1
  simp [exec, execRegisterWrite, hd, hp, getF_low]

theorem registerWrite_numVFs_safe (hd : s.pkg.dev = .safe) : exec (.registerWrite .numVFs v) s = .next s := by
  simp [exec, execRegisterWrite, State.powered, hd]

end Writes

/-! ### The register that an offset names -/

section Registers
variable {n off : Nat} (v : Word)

theorem putReg_windows (d : Part) :
    d.putReg 0x0010 v = { d with kill := v.toNat / 2 ^ 32, drain := v.toNat % 2 ^ 32 } := by
  simp [Part.putReg, getF_top v (lo := 32) (len := 32) rfl, getF_low]

theorem putReg_age (d : Part) (hv : v.toNat % 2 ^ 20 ≠ 0) : d.putReg 0x0008 v = { d with ageUs := v.toNat % 2 ^ 20 } := by
  rw [← getF_low] at hv ⊢
  simp [Part.putReg, hv]

theorem putReg_fqBase (d : Part) :
    d.putReg 0x0020 v = { d with fqBase := BitVec.ofNat 64 (v.toNat / 2 ^ 6 * 2 ^ 6) } := by
  simp [Part.putReg, baseOf_eq]

theorem putReg_astBase (d : Part) :
    d.putReg 0x0040 v = { d with astBase := BitVec.ofNat 64 (v.toNat / 2 ^ 12 * 2 ^ 12) } := by
  simp [Part.putReg, baseOf_eq]

theorem putReg_ctxarg (d : Part) : d.putReg 0x0060 v = { d with ctxarg := v } := by
  simp [Part.putReg]

theorem putReg_ckCount (d : Part) : d.putReg 0x0070 v = { d with ckCount := v.toNat % 2 ^ 16 } := by
  simp [Part.putReg, getF_low]

/-- The registers of the queues lie at 0x1000 to 0x1FFF, 64 bytes to a queue. -/
theorem putReg_queue (d : Part) (hlo : 0x1000 ≤ off) (hhi : off < 0x2000) :
    d.putReg off v = d.modQueueAt ((off - 0x1000) / 64) (fun u => u.putReg (off % 64) v false) := by
  have hne : ∀ c, c < 0x1000 → off ≠ c := by omega
  have hlt : ¬ off < 0xC0 := by omega
  simp [Part.putReg, hne, hlt, hlo, hhi]

theorem queueAt_putReg_base (d : Part) (hn : n < 64) : (d.putReg ((0x1000 + 64 * n) / 8 * 8) v).queueAt n
    = if (d.queueAt n).en then d.queueAt n else { d.queueAt n with base := BitVec.ofNat 64 (v.toNat / 2 ^ 6 * 2 ^ 6) } := by
  have ho : (0x1000 + 64 * n) / 8 * 8 = 0x1000 + 64 * n := by omega
  have hk : (0x1000 + 64 * n - 0x1000) / 64 = n := by omega
  have hr : (0x1000 + 64 * n) % 64 = 0 := by omega
  rw [ho, putReg_queue v d (by omega) (by omega), hk, hr, queueAt_modQueueAt, Queue.putReg, baseOf_eq]

theorem queueAt_putReg_control (d : Part) (hn : n < 64) : (d.putReg ((0x1008 + 64 * n) / 8 * 8) v).queueAt n
    = { d.queueAt n with
          en := v.getLsbD 17, own := v.getLsbD 16, rank := v.toNat % 64,
          log2n := if (d.queueAt n).en = true ∨ v.toNat / 2 ^ 8 % 16 < 4 ∨ 12 < v.toNat / 2 ^ 8 % 16
            then (d.queueAt n).log2n else v.toNat / 2 ^ 8 % 16 } := by
  have ho : (0x1008 + 64 * n) / 8 * 8 = 0x1008 + 64 * n := by omega
  have hk : (0x1008 + 64 * n - 0x1000) / 64 = n := by omega
  have hr : (0x1008 + 64 * n) % 64 = 8 := by omega
  rw [ho, putReg_queue v d (by omega) (by omega), hk, hr, queueAt_modQueueAt]
  simp [Queue.putReg, getF_eq, getB]

theorem putReg_dwsel (k : Package) : k.putReg 0x3200 v = { k with dwsel := v &&& 0xFFF } := by
  simp [Package.putReg, setF_zero]

/-- WTROOT of the five dies: the others keep theirs. -/
theorem wtroot_putReg (k : Package) (hn : n < 5) {j : Nat} (hj : j < 5) :
    vget 0 (k.putReg ((0x3100 + 8 * n) / 8 * 8) v).wtroot j
      = if j = n then BitVec.ofNat 64 (v.toNat / 2 ^ 12 * 2 ^ 12) else vget 0 k.wtroot j := by
  have ho : (0x3100 + 8 * n) / 8 * 8 = 0x3100 + 8 * n := by omega
  have hi : (0x3100 + 8 * n - 0x3100) / 8 = n := by omega
  rw [ho, Package.putReg, if_pos (by omega), hi, vget_vset _ _ _ hj, baseOf_eq]

theorem putWindow_kaddr (s : State) : s.putWindow 0x80 v = s.modCtxAt s.pkg.selected (fun c => { c with kaddr := v }) := by
  simp [State.putWindow]

/-- A breakpoint keeps ENABLE and its address; bits 55 to 62 are reserved (19 R342). -/
theorem putWindow_breakpoint (s : State) (hn : n < 8) : s.putWindow ((0x40 + 8 * n) / 8 * 8) v
    = s.modCtxAt s.pkg.selected (fun c => { c with bps := vset c.bps n (v &&& 0x807FFFFFFFFFFFFF) }) := by
  have ho : (0x40 + 8 * n) / 8 * 8 = 0x40 + 8 * n := by omega
  have hi : (0x40 + 8 * n - 0x40) / 8 = n := by omega
  have hm : ~~~(BitVec.ofNat 64 (2 ^ 8 - 1) <<< 55) = 0x807FFFFFFFFFFFFF := by decide
  rw [ho, State.putWindow, if_neg (by omega), if_pos (by omega), hi, setF_zero, hm]

end Registers

theorem hostRegistersWritten : Parts.HostRegistersWritten := by
  intro s p n v vf pf u base i hoff
  refine ⟨fun hr hp => ?ready, fun hd => ⟨registerWrite_vf_unready hd, registerWrite_window_unready hd⟩,
    registerWrite_numVFs_safe, fun hsafe => ?numVFs, ?dwsel, fun hn => ?wtroot⟩
  case ready =>
    have hs : s.serves p = true := (serves_iff s p).mpr ⟨hr, hp⟩
    have hvf {off : Nat} {d : Part} (h : (s.partAt p).putReg (off / 8 * 8) v = d) : vf off d :=
      next_modPartAt_eq (registerWrite_vf hs) h
    refine ⟨hvf (putReg_windows v _), fun hv => hvf (putReg_age v _ hv), hvf (putReg_fqBase v _), hvf (putReg_astBase v _),
      hvf (putReg_ctxarg v _), hvf (putReg_ckCount v _), fun hn => ?queueBase, fun hn => ?queueControl, ?kaddr,
      fun hn => ?breakpoint⟩
    case queueBase =>
      exact next_modPartAt (P := fun d => d.queueAt n = _) (registerWrite_vf hs) (queueAt_putReg_base v _ hn)
    case queueControl =>
      refine next_modPartAt (P := fun d => (d.queueAt n).en = _ ∧ (d.queueAt n).own = _ ∧ (d.queueAt n).rank = _
        ∧ (d.queueAt n).log2n = _) (registerWrite_vf hs) ?_
      rw [queueAt_putReg_control v _ hn]
      exact ⟨rfl, rfl, rfl, rfl⟩
    case kaddr =>
      exact next_modCtxAt (P := fun c => c = _) ((registerWrite_window hr).trans (congrArg _ (putWindow_kaddr v s))) rfl
    case breakpoint =>
      exact next_modCtxAt
        (P := fun c => (c.regs = (s.ctxAt i).regs ∧ c.pc = (s.ctxAt i).pc ∧ c.loops = (s.ctxAt i).loops)
          ∧ ∀ k, k < 8 → vget 0 c.bps k = if k = n then v &&& 0x807FFFFFFFFFFFFF else vget 0 (s.ctxAt i).bps k)
        ((registerWrite_window hr).trans (congrArg _ (putWindow_breakpoint v s hn)))
        ⟨⟨rfl, rfl, rfl⟩, fun _ hk => vget_vset _ _ _ hk⟩
  case numVFs =>
    exact next_modPkg_eq (registerWrite_numVFs ((powered_iff s).mpr ⟨hoff, hsafe⟩)) rfl
  case dwsel => exact next_modPkg_eq (registerWrite_pf hoff (by decide)) (putReg_dwsel v _)
  case wtroot =>
    exact next_modPkg (P := fun k => ∀ j, j < 5 → vget 0 k.wtroot j = if j = n then base 12 else vget 0 s.pkg.wtroot j)
      (registerWrite_pf hoff (by omega)) (fun _ hj => wtroot_putReg v _ hn hj)

/-- Settles O49: each request by what it takes down, each register by what its offset names. -/
theorem hostRegisters : Obligations.HostRegisters := ⟨requestsForTheMajorSlot, hostRegistersWritten⟩

end Sys2Proof.Proofs
end

section
/-! Floating arithmetic of the vector slot: one rounding of the exact value, and the inputs whose results the spec fixes
(03 R65 to R67, R74; 08 R177 to R180). -/

namespace Sys2Proof.Proofs

open Sys2Proof.Machine Sys2Proof.Safety

/-! ### Element-wise answers -/

section Elements
variable {s : State} {o : Out} {lat : Nat} {f : Fmt} {d a b : VReg} {q : QReg} {h : Nat → Nat × BitVec 5}

theorem elem_lt (v : VWord) (w i : Nat) : elem v w i < 2 ^ w := BitVec.isLt _

theorem vectorResult_vElt1 {g : Nat → Nat × BitVec 5} (ho : o = s.vElt1 lat f d a q g)
    (hg : ∀ i, g (elem (s.rV a) f.width i) = h i) :
    VectorResult s o lat f d q h :=
  ho ▸ funext hg ▸ vectorResult s lat f d q _

theorem vectorResult_vElt2 {g : Nat → Nat → Nat × BitVec 5} (ho : o = s.vElt2 lat f d a b q g)
    (hg : ∀ i, g (elem (s.rV a) f.width i) (elem (s.rV b) f.width i) = h i) :
    VectorResult s o lat f d q h :=
  ho ▸ funext hg ▸ vectorResult s lat f d q _

theorem vectorResult_vElt3 {g : Nat → Nat → Nat → Nat × BitVec 5} (ho : o = s.vElt3 lat f d a b q g)
    (hg : ∀ i, g (elem (s.rV a) f.width i) (elem (s.rV b) f.width i) (elem (s.rV d) f.width i) = h i) :
    VectorResult s o lat f d q h :=
  ho ▸ funext hg ▸ vectorResult s lat f d q _

end Elements

/-! ### One rounding (03 R65, R67) -/

/-- An exact value rounded once: its flags, those of signaling inputs, and invalid where the operation is. -/
def roundedOnce (F : FSpec) (r : FVal × Bool) (sn : BitVec 5) : Nat × BitVec 5 :=
  ((F.ofVal r.1).1, (F.ofVal r.1).2 ||| sn ||| if r.2 then 0x10 else 0)

/-- The exact sum of a product and an addend, invalid where either is. -/
def fusedSum (p : FVal × Bool) (z : FVal) : FVal × Bool := ((p.1.add z).1, p.2 || (p.1.add z).2)

section Rounding
variable (F : FSpec) (x y z : Nat)

theorem fpAdd_eq (minus : Bool) : fpAdd F minus x y
    = roundedOnce F ((F.value x).add (if minus then (F.value y).negate else F.value y)) (F.snan x ||| F.snan y) := by
  simp only [fpAdd, roundedOnce, fNV, BitVec.or_assoc]

theorem fpMul_eq : fpMul F x y = roundedOnce F ((F.value x).mul (F.value y)) (F.snan x ||| F.snan y) := by
  simp only [fpMul, roundedOnce, fNV, BitVec.or_assoc]

theorem fpFma_eq (negP negZ : Bool) : fpFma F negP negZ x y z
    = roundedOnce F
        (fusedSum ((if negP then ((F.value x).mul (F.value y)).1.negate else ((F.value x).mul (F.value y)).1),
          ((F.value x).mul (F.value y)).2) (if negZ then (F.value z).negate else F.value z))
        (F.snan x ||| F.snan y ||| F.snan z) := by
  unfold fpFma roundedOnce fusedSum
  simp only [fNV, BitVec.or_assoc]

theorem nan_add (v : FVal) : FVal.nan.add v = (.nan, false) := by cases v <;> rfl

/-- An invalid product makes the sum invalid and a NaN, whatever the addend. -/
theorem fusedSum_invalid (v : FVal) : fusedSum (.nan, true) v = (.nan, true) := by rw [fusedSum, nan_add]; rfl

/-- An invalid result is the canonical NaN with the invalid flag. -/
theorem roundedOnce_invalid (sn : BitVec 5) :
    (roundedOnce F (.nan, true) sn).1 = F.nan ∧ (roundedOnce F (.nan, true) sn).2.getLsbD 4 = true :=
  ⟨rfl, by simp [roundedOnce]⟩

end Rounding

theorem mul_inf_zero (sx sy : Bool) (e : Int) : (FVal.inf sx).mul (.fin sy 0 e) = (.nan, true) := rfl

theorem mul_zero_inf (sx sy : Bool) (e : Int) : (FVal.fin sx 0 e).mul (.inf sy) = (.nan, true) := rfl

/-- An infinity times a zero, either way round. -/
theorem mul_invalid {v w : FVal} (h : ∃ sv sw e, (v = .inf sv ∧ w = .fin sw 0 e) ∨ (v = .fin sv 0 e ∧ w = .inf sw)) :
    v.mul w = (.nan, true) := by
  obtain ⟨sv, sw, e, ⟨rfl, rfl⟩ | ⟨rfl, rfl⟩⟩ := h
  · exact mul_inf_zero sv sw e
  · exact mul_zero_inf sv sw e

theorem absOp_float {f : Fmt} (hf : f.isFL = true) (x : Nat) : absOp f x
    = if (fmtSpec f).isNan x then ((fmtSpec f).nan, (fmtSpec f).snan x) else (x % 2 ^ (f.width - 1), 0) := by
  rw [absOp, if_pos hf]
  split
  · next hn => exact if_pos hn
  · rfl

theorem negOp_float {f : Fmt} (hf : f.isFL = true) (x : Nat) : negOp f x
    = if (fmtSpec f).isNan x then ((fmtSpec f).nan, (fmtSpec f).snan x) else (x ^^^ 2 ^ (f.width - 1), 0) := by
  rw [negOp, if_pos hf]
  split
  · next hn => exact if_pos hn
  · rfl

section Arms
variable (s : State) {f : Fmt} (d a b : VReg) (q : QReg) (hf : f.isFL = true)
include hf

theorem exec_vadd_float : exec (.vadd f d a b q false) s = s.vElt2 2 f d a b q (fpAdd (fmtSpec f) false) := by
  simp [exec, execVadd, hf]

theorem exec_vsub_float : exec (.vsub f d a b q false) s = s.vElt2 2 f d a b q (fpAdd (fmtSpec f) true) := by
  simp [exec, execVsub, hf]

theorem exec_vmul_float : exec (.vmul f d a b q) s = s.vElt2 3 f d a b q (fpMul (fmtSpec f)) := by
  simp [exec, execVmul, hf]

theorem exec_vmax_float : exec (.vmax f d a b q false) s = s.vElt2 2 f d a b q ((fmtSpec f).extreme true) := by
  simp [exec, execVmax, hf]

theorem exec_vmin_float : exec (.vmin f d a b q false) s = s.vElt2 2 f d a b q ((fmtSpec f).extreme false) := by
  simp [exec, execVmin, hf]

end Arms

theorem vectorFloatArithmetic : Parts.VectorFloatArithmetic := by
  intro s f d a b q hf F w x y z nv rounded fused prod s2 s3 is infZero fma
  have hprod (k : Nat) (hk : infZero k) : prod k = (.nan, true) := mul_invalid hk
  have hinvalid (v : FVal) (sn : BitVec 5) :
      (rounded (fused (.nan, true) v) sn).1 = F.nan ∧ (rounded (fused (.nan, true) v) sn).2.getLsbD 4 = true :=
    (fusedSum_invalid v).symm ▸ roundedOnce_invalid F sn
  refine ⟨?add, ?sub, ?mul, ⟨?fmaAll, fun k hk => ?fmaInvalid⟩, ⟨?fmsAll, fun k hk => ?fmsInvalid⟩,
    ⟨?fnmaAll, fun k hk => ?fnmaInvalid⟩, ?max, ?min, ?abs, ?neg⟩
  case add => exact vectorResult_vElt2 (exec_vadd_float s d a b q hf) fun i => fpAdd_eq F (x i) (y i) false
  case sub => exact vectorResult_vElt2 (exec_vsub_float s d a b q hf) fun i => fpAdd_eq F (x i) (y i) true
  case mul => exact vectorResult_vElt2 (exec_vmul_float s d a b q hf) fun i => fpMul_eq F (x i) (y i)
  case fmaAll => exact vectorResult_vElt3 rfl fun i => fpFma_eq F (x i) (y i) (z i) false false
  case fmsAll => exact vectorResult_vElt3 rfl fun i => fpFma_eq F (x i) (y i) (z i) false true
  case fnmaAll => exact vectorResult_vElt3 rfl fun i => fpFma_eq F (x i) (y i) (z i) true false
  case fmaInvalid => simp only [hprod k hk]; exact hinvalid _ _
  case fmsInvalid => simp only [hprod k hk]; exact hinvalid _ _
  case fnmaInvalid => simp only [hprod k hk]; exact hinvalid _ _
  case max => exact vectorResult_vElt2 (exec_vmax_float s d a b q hf) fun _ => rfl
  case min => exact vectorResult_vElt2 (exec_vmin_float s d a b q hf) fun _ => rfl
  case abs => exact vectorResult_vElt1 rfl fun i => absOp_float hf (x i)
  case neg => exact vectorResult_vElt1 rfl fun i => negOp_float hf (x i)

/-! ### The value that a code's magnitude names (03 R60) -/

section Values
variable {F : FSpec} {c : Nat}

theorem exponent_eq (F : FSpec) (c : Nat) :
    c / 2 ^ F.mbits % 2 ^ F.ebits = c % 2 ^ F.signBit / 2 ^ F.mbits := by
  rw [FSpec.signBit, Nat.pow_add, Nat.mod_mul_left_div_self]

theorem mantissa_eq (F : FSpec) (c : Nat) : c % 2 ^ F.mbits = c % 2 ^ F.signBit % 2 ^ F.mbits :=
  (Nat.mod_mod_of_dvd _ (Nat.pow_dvd_pow 2 (Nat.le_add_left ..))).symm

theorem infCode_lt (F : FSpec) : F.infCode < 2 ^ F.signBit := by
  rw [FSpec.infCode, FSpec.signBit, Nat.pow_add]
  exact Nat.mul_lt_mul_of_pos_right (Nat.sub_lt (Nat.two_pow_pos _) Nat.one_pos) (Nat.two_pow_pos _)

theorem value_inf (hF : F.ieee = true) (h : c % 2 ^ F.signBit = F.infCode) :
    F.value c = .inf (c / 2 ^ F.signBit % 2 == 1) := by
  have hex : c / 2 ^ F.mbits % 2 ^ F.ebits = 2 ^ F.ebits - 1 := by
    rw [exponent_eq, h, FSpec.infCode, Nat.mul_div_cancel _ (Nat.two_pow_pos _)]
  have hm : c % 2 ^ F.mbits = 0 := by rw [mantissa_eq, h, FSpec.infCode, Nat.mul_mod_left]
  rw [FSpec.value, if_pos ⟨hF, hex⟩, if_pos hm]

/-- Below the magnitude of an infinity a code is a number, and a zero only at magnitude 0. -/
theorem value_finite (hF : F.ieee = true) (h : c % 2 ^ F.signBit < F.infCode) :
    ∃ m e, F.value c = .fin (c / 2 ^ F.signBit % 2 == 1) m e ∧ (m = 0 ↔ c % 2 ^ F.signBit = 0) := by
  have hex : c / 2 ^ F.mbits % 2 ^ F.ebits ≠ 2 ^ F.ebits - 1 := by
    rw [exponent_eq]
    refine Nat.ne_of_lt (Nat.div_lt_of_lt_mul ?_)
    rwa [Nat.mul_comm]
  have hsplit := Nat.div_add_mod (c % 2 ^ F.signBit) (2 ^ F.mbits)
  have hpos := Nat.two_pow_pos F.mbits
  by_cases h0 : c / 2 ^ F.mbits % 2 ^ F.ebits = 0
  · refine ⟨_, _, by rw [FSpec.value, if_neg (fun k => hex k.2), if_neg (by simp [hF]), if_pos h0], ?_⟩
    rw [exponent_eq] at h0
    rw [mantissa_eq, ← hsplit, h0, Nat.mul_zero, Nat.zero_add, Nat.mod_mod]
  · refine ⟨_, _, by rw [FSpec.value, if_neg (fun k => hex k.2), if_neg (by simp [hF]), if_neg h0], ?_⟩
    rw [exponent_eq] at h0
    refine iff_of_false (by omega) fun hz => h0 ?_
    rw [hz, Nat.zero_div]

theorem value_zero (hF : F.ieee = true) (hi : 0 < F.infCode) (h : c % 2 ^ F.signBit = 0) :
    ∃ e, F.value c = .fin (c / 2 ^ F.signBit % 2 == 1) 0 e := by
  obtain ⟨m, e, hv, hm⟩ := value_finite hF (h ▸ hi)
  obtain rfl := hm.mpr h
  exact ⟨e, hv⟩

theorem isNan_iff : F.isNan c = true ↔ F.value c = .nan := beq_iff_eq

/-- A code that is no NaN signals nothing. -/
theorem snan_of_value {v : FVal} (h : F.value c = v) (hv : v ≠ .nan) : F.snan c = 0 := by
  have hn : (F.value c == .nan) = false := by rw [h]; exact beq_eq_false_iff_ne.mpr hv
  simp [FSpec.snan, FSpec.signaling, hn]

end Values

/-! ### Functions of one code (03 R74) -/

/-- What R67 and R74 fix of a function of one code: the answers for listed codes, a NaN, and, where `root` says so, invalid
for a number below zero. -/
def SpecialInputs (F : FSpec) (g : FVal → Nat × BitVec 5) (special : List (Nat × Nat × BitVec 5)) (root : Bool) : Prop :=
  ∀ c, (∀ e ∈ special, c = e.1 → fpFun F g c = e.2) ∧ (F.isNan c = true → fpFun F g c = (F.nan, F.snan c))
    ∧ (root = true → (∃ m e, 0 < m ∧ F.value c = .fin true m e) → fpFun F g c = (F.nan, 0x10))

section Functions
variable {F : FSpec} {g : FVal → Nat × BitVec 5} {c : Nat} {r : Nat × BitVec 5}

theorem fpFun_eq (F : FSpec) (g : FVal → Nat × BitVec 5) (c : Nat) :
    fpFun F g c = ((g (F.value c)).1, (g (F.value c)).2 ||| F.snan c) := rfl

theorem fpFun_of_value {v : FVal} (h : F.value c = v) (hv : v ≠ .nan) : fpFun F g c = g v := by
  simp [fpFun_eq, snan_of_value h hv, h]

theorem fpFun_of_nan (hg : g .nan = (F.nan, 0)) (h : F.isNan c = true) : fpFun F g c = (F.nan, F.snan c) := by
  simp [fpFun_eq, isNan_iff.mp h, hg]

theorem specialInputs_of {special : List (Nat × Nat × BitVec 5)} {root : Bool} (hnan : g .nan = (F.nan, 0))
    (hspecial : ∀ e ∈ special, fpFun F g e.1 = e.2)
    (hroot : root = true → ∀ m e, 0 < m → g (.fin true m e) = (F.nan, 0x10)) : SpecialInputs F g special root := by
  refine fun c => ⟨?_, fpFun_of_nan hnan, ?_⟩
  · rintro e he rfl
    exact hspecial e he
  · rintro hr ⟨m, e, hm, hv⟩
    rw [fpFun_of_value hv nofun, hroot hr m e hm]

variable (hF : F.ieee = true) (hi : 0 < F.infCode)
include hF

theorem fpFun_posInf (hg : g (.inf false) = r) : fpFun F g F.infCode = r := by
  have hlt := infCode_lt F
  have hv := value_inf hF (Nat.mod_eq_of_lt hlt)
  rw [Nat.div_eq_of_lt hlt] at hv
  exact (fpFun_of_value hv nofun).trans hg

theorem fpFun_negInf (hg : g (.inf true) = r) : fpFun F g (2 ^ F.signBit + F.infCode) = r := by
  have hlt := infCode_lt F
  have hv := value_inf (c := 2 ^ F.signBit + F.infCode) hF (by rw [Nat.add_mod_left, Nat.mod_eq_of_lt hlt])
  rw [Nat.add_div_left _ (Nat.two_pow_pos _), Nat.div_eq_of_lt hlt] at hv
  exact (fpFun_of_value hv nofun).trans hg

include hi

theorem fpFun_posZero (hg : ∀ e, g (.fin false 0 e) = r) : fpFun F g 0 = r := by
  obtain ⟨e, hv⟩ := value_zero (c := 0) hF hi (Nat.zero_mod _)
  rw [Nat.zero_div] at hv
  exact (fpFun_of_value hv nofun).trans (hg e)

theorem fpFun_negZero (hg : ∀ e, g (.fin true 0 e) = r) : fpFun F g (2 ^ F.signBit) = r := by
  obtain ⟨e, hv⟩ := value_zero (c := 2 ^ F.signBit) hF hi (Nat.mod_self _)
  rw [Nat.div_self (Nat.two_pow_pos _)] at hv
  exact (fpFun_of_value hv nofun).trans (hg e)

omit hi

theorem exp2_specialInputs :
    SpecialInputs F F.exp2 [(2 ^ F.signBit + F.infCode, 0, 0), (F.infCode, F.infCode, 0)] false := by
  refine specialInputs_of rfl ?_ nofun
  simp only [List.forall_mem_cons]
  exact ⟨fpFun_negInf hF rfl, fpFun_posInf hF rfl, nofun⟩

include hi

theorem log2_specialInputs :
    SpecialInputs F F.log2 [(0, 2 ^ F.signBit + F.infCode, 8), (2 ^ F.signBit, 2 ^ F.signBit + F.infCode, 8),
      (2 ^ F.signBit + F.infCode, F.nan, 0x10), (F.infCode, F.infCode, 0)] true := by
  refine specialInputs_of rfl ?_ fun _ m e hm => ?_
  · simp only [List.forall_mem_cons]
    exact ⟨fpFun_posZero hF hi fun _ => rfl, fpFun_negZero hF hi fun _ => rfl, fpFun_negInf hF rfl, fpFun_posInf hF rfl,
      nofun⟩
  · rw [FSpec.log2, if_neg (Nat.ne_of_gt hm), if_pos rfl, fNV]

theorem rcp_specialInputs :
    SpecialInputs F F.rcp [(0, F.infCode, 8), (2 ^ F.signBit, 2 ^ F.signBit + F.infCode, 8), (F.infCode, 0, 0),
      (2 ^ F.signBit + F.infCode, 2 ^ F.signBit, 0)] false := by
  refine specialInputs_of rfl ?_ nofun
  simp only [List.forall_mem_cons]
  exact ⟨fpFun_posZero hF hi fun _ => by simp [FSpec.rcp, fDZ], fpFun_negZero hF hi fun _ => rfl, fpFun_posInf hF rfl,
    fpFun_negInf hF rfl, nofun⟩

theorem rsqrt_specialInputs :
    SpecialInputs F F.rsqrt [(0, F.infCode, 8), (2 ^ F.signBit, 2 ^ F.signBit + F.infCode, 8),
      (2 ^ F.signBit + F.infCode, F.nan, 0x10), (F.infCode, 0, 0)] true := by
  refine specialInputs_of rfl ?_ fun _ m e hm => ?_
  · simp only [List.forall_mem_cons]
    exact ⟨fpFun_posZero hF hi fun _ => by simp [FSpec.rsqrt, fDZ], fpFun_negZero hF hi fun _ => rfl, fpFun_negInf hF rfl,
      fpFun_posInf hF rfl, nofun⟩
  · rw [FSpec.rsqrt, if_neg (Nat.ne_of_gt hm), if_pos rfl, fNV]

theorem sqrt_specialInputs :
    SpecialInputs F F.sqrt [(0, 0, 0), (2 ^ F.signBit, 2 ^ F.signBit, 0), (2 ^ F.signBit + F.infCode, F.nan, 0x10),
      (F.infCode, F.infCode, 0)] true := by
  refine specialInputs_of rfl ?_ fun _ m e hm => ?_
  · simp only [List.forall_mem_cons]
    exact ⟨fpFun_posZero hF hi fun _ => rfl, fpFun_negZero hF hi fun _ => rfl, fpFun_negInf hF rfl, fpFun_posInf hF rfl,
      nofun⟩
  · rw [FSpec.sqrt, if_neg (Nat.ne_of_gt hm), if_pos rfl, fNV]

end Functions

/-! ### Quotients (03 R74) -/

/-- The quotient of two codes with the flags of signaling inputs. -/
def divCodes (F : FSpec) (x y : Nat) : Nat × BitVec 5 :=
  ((F.div (F.value x) (F.value y)).1, (F.div (F.value x) (F.value y)).2 ||| F.snan x ||| F.snan y)

theorem exec_vdiv (s : State) (f : Fmt) (d a b : VReg) (q : QReg) :
    exec (.vdiv f d a b q) s = s.vElt2 14 f d a b q (divCodes (fmtSpec f)) := rfl

section Quotients
variable {F : FSpec} {x y : Nat}

theorem div_nan (v : FVal) : F.div v .nan = (F.nan, 0) := by cases v <;> rfl

theorem nan_div (v : FVal) : F.div .nan v = (F.nan, 0) := by cases v <;> rfl

theorem divCodes_nan (h : F.isNan x = true ∨ F.isNan y = true) : divCodes F x y = (F.nan, F.snan x ||| F.snan y) := by
  have hd : F.div (F.value x) (F.value y) = (F.nan, 0) := by
    obtain hx | hy := h
    · rw [isNan_iff.mp hx, nan_div]
    · rw [isNan_iff.mp hy, div_nan]
  simp [divCodes, hd]

theorem divCodes_of_values {v w : FVal} (hx : F.value x = v) (hy : F.value y = w) (hv : v ≠ .nan) (hw : w ≠ .nan) :
    divCodes F x y = F.div v w := by
  simp [divCodes, snan_of_value hx hv, snan_of_value hy hw, hx, hy]

variable (hF : F.ieee = true) (hi : 0 < F.infCode)
include hF

theorem divCodes_inf_inf (hx : x % 2 ^ F.signBit = F.infCode) (hy : y % 2 ^ F.signBit = F.infCode) :
    divCodes F x y = (F.nan, 0x10) :=
  divCodes_of_values (value_inf hF hx) (value_inf hF hy) nofun nofun

include hi

theorem divCodes_zero_zero (hx : x % 2 ^ F.signBit = 0) (hy : y % 2 ^ F.signBit = 0) :
    divCodes F x y = (F.nan, 0x10) := by
  obtain ⟨e, hvx⟩ := value_zero hF hi hx
  obtain ⟨e', hvy⟩ := value_zero hF hi hy
  exact divCodes_of_values hvx hvy nofun nofun

/-- A nonzero number over a zero: an infinity with the sign of the quotient. -/
theorem divCodes_finite_zero (hx : x < 2 ^ (F.signBit + 1)) (hy : y < 2 ^ (F.signBit + 1)) (hx0 : 0 < x % 2 ^ F.signBit)
    (hxi : x % 2 ^ F.signBit < F.infCode) (hy0 : y % 2 ^ F.signBit = 0) : divCodes F x y
      = ((if x / 2 ^ F.signBit = y / 2 ^ F.signBit then F.infCode else 2 ^ F.signBit + F.infCode), 8) := by
  obtain ⟨m, e, hvx, hm⟩ := value_finite hF hxi
  obtain ⟨e', hvy⟩ := value_zero hF hi hy0
  have hm0 : m ≠ 0 := mt hm.mp (Nat.ne_of_gt hx0)
  have hsign {c : Nat} (hc : c < 2 ^ (F.signBit + 1)) : c / 2 ^ F.signBit = 0 ∨ c / 2 ^ F.signBit = 1 :=
    Nat.le_one_iff_eq_zero_or_eq_one.mp (Nat.le_of_lt_succ (Nat.div_lt_of_lt_mul hc))
  rw [divCodes_of_values hvx hvy nofun nofun, FSpec.div, if_pos rfl, if_neg hm0]
  obtain hx | hx := hsign hx <;> obtain hy | hy := hsign hy <;> simp [hx, hy, fDZ]

end Quotients

/-! ### The two formats of R74 -/

theorem transcendentalFormat {f : Fmt} (hf : f = .f32 ∨ f = .bf16) :
    (fmtSpec f).ieee = true ∧ 0 < (fmtSpec f).infCode ∧ f.width = (fmtSpec f).signBit + 1
      ∧ (if f = .f32 then 0x7F800000 else 0x7F80) = (fmtSpec f).infCode
      ∧ (if f = .f32 then 0x7FC00000 else 0x7FC0) = (fmtSpec f).nan := by
  obtain rfl | rfl := hf <;> decide

theorem vectorTranscendentals : Parts.VectorTranscendentals := by
  intro s f d a b q hf F w x y neg inf nan below is unary q2
  obtain ⟨hF, hi, hw, hinf, hnan⟩ := transcendentalFormat hf
  have hneg : neg = 2 ^ F.signBit := congrArg (2 ^ ·) (Nat.sub_eq_of_eq_add hw)
  replace hinf : inf = F.infCode := hinf
  replace hnan : nan = F.nan := hnan
  have hlt (v : VWord) (k : Nat) : elem v w k < 2 ^ (F.signBit + 1) := hw ▸ elem_lt v w k
  clear_value neg inf nan
  subst hneg hinf hnan
  refine ⟨⟨?exp2, fun k => exp2_specialInputs hF (x k)⟩, ⟨?log2, fun k => log2_specialInputs hF hi (x k)⟩,
    ⟨?rcp, fun k => rcp_specialInputs hF hi (x k)⟩, ⟨?rsqrt, fun k => rsqrt_specialInputs hF hi (x k)⟩,
    ⟨?sqrt, fun k => sqrt_specialInputs hF hi (x k)⟩, ?div, fun k => ⟨divCodes_nan, divCodes_zero_zero hF hi,
      divCodes_inf_inf hF, divCodes_finite_zero hF hi (hlt _ k) (hlt _ k)⟩⟩
  case exp2 => exact vectorResult_vElt1 rfl fun i => fpFun_eq F F.exp2 (x i)
  case log2 => exact vectorResult_vElt1 rfl fun i => fpFun_eq F F.log2 (x i)
  case rcp => exact vectorResult_vElt1 rfl fun i => fpFun_eq F F.rcp (x i)
  case rsqrt => exact vectorResult_vElt1 rfl fun i => fpFun_eq F F.rsqrt (x i)
  case sqrt => exact vectorResult_vElt1 rfl fun i => fpFun_eq F F.sqrt (x i)
  case div => exact vectorResult_vElt2 (exec_vdiv s f d a b q) fun _ => rfl

/-- Settles O23: each operation rounds its exact value once, and the special inputs follow from the value that a code's
magnitude names. -/
theorem vectorFloats : Obligations.VectorFloats := ⟨vectorFloatArithmetic, vectorTranscendentals⟩

end Sys2Proof.Proofs
end
